-- ==== Sys2Proof/Word.lean ====
section
/-! DEFINITION. The word types of the device (R11, R12) and the shape of a sparse map. -/

namespace Sys2Proof

/-- A byte. -/
abbrev Byte := BitVec 8

/-- A register of the device: 32 bits, bit 0 least significant (R11). -/
abbrev Word := BitVec 32

/-- A 64-bit quantity: two registers, or one scratchpad granule (R12, R145). -/
abbrev DWord := BitVec 64

/-- A sparse map from numbers to values: keys strictly rising, and no entry equal to what the key reads as when it is
not listed. The operations are in Machine/Maps.lean. -/
abbrev SMap (α : Type) := List (Nat × α)

end Sys2Proof
end

