-- ==== Sys2Proof/Machine/Types.lean ====
section
/-! DEFINITION. The records that commands carry and that the state keeps: parts of a reel, order envelopes, packets,
tokens, call sheets. -/

namespace Sys2Proof.Machine

/-! ## Parts of a reel (R350 to R353) -/

/-- Directory entry of a reel (R350): TYPE, RANK, LENGTH, OFFSET; `digestOk` says whether the section's SHA-384
matches the entry. -/
structure DirEntry where
  type : Nat
  rank : Nat
  length : Nat
  offset : Nat
  digestOk : Bool
deriving DecidableEq, Repr

/-- A signed object's signature (R408): whether the ECDSA P-384 signature verifies under the public key that the
object carries, the SHA-384 of that key, and KEYIDX. The spec does not say where the object carries its key. -/
structure Sig where
  keyIdx : Nat
  keyHash : BitVec 384
  verifies : Bool
deriving DecidableEq, Repr

/-- A member of the take (R351). -/
structure Member where
  device : Nat
  rank : Nat
  shardRank : Nat
  kvRank : Nat
  lead : Bool
  root : Bool
deriving DecidableEq, Repr

/-- A cue-table entry (R191): plan tick relative to the step's start, first bundle, awaited (counter, target) pairs. -/
structure CueEntry where
  tick : Nat
  addr : Nat
  awaits : List (Nat × Nat)
deriving DecidableEq, Repr

/-- A step shape of one cluster (R191, R20): its length in gate intervals and its cues. -/
structure StepShape where
  gates : Nat
  cues : List CueEntry
deriving DecidableEq, Repr

/-- Section 0x02: bundles, cue tables and step shapes of one virtual cluster (R191). -/
structure ClusterImage where
  bundles : List (BitVec 512)
  shapes : List StepShape
deriving DecidableEq, Repr

/-- Section 0x03: descriptors, regions, trap enables and resident images of one virtual core (R149, R156). -/
structure CoreImage where
  descs : List (Nat × BitVec 256)
  regions : List Word
  trapEn : BitVec 4
  resident : List (Nat × List Byte)
deriving DecidableEq, Repr

/-- One replacement of an alternate (R332): the device, the table (none: injection, some link: its receive table), the
index and the new label entry. -/
structure AltEntry where
  device : Nat
  table : Option Nat
  index : Nat
  entry : DWord
deriving DecidableEq, Repr

/-- An alternate (R332), named by the lower-ID end of its link. -/
structure Alternate where
  dev : Nat
  link : Nat
  entries : List AltEntry
deriving DecidableEq, Repr

/-- A reduction group (R186): its ROP and its (device, cluster) members in rank order. -/
structure RedGroup where
  rop : Nat
  members : List (Nat × Nat)
deriving DecidableEq, Repr

/-- Section 0x09: time tree, D and M (R38, R52, R68). -/
structure TimeTree where
  diam : Nat
  margin : Nat
  root : Bool
  plink : Option Nat
  depth : Nat
  altParent : Option Nat
deriving DecidableEq, Repr

/-- Section 0x0A: travel assumptions on links (at LANESMIN) and on-device paths, and the marker paths declared for D as
(declared ticks, links walked on this device's account, added ticks) (R51, R52). -/
structure Travel where
  links : List (Nat × Nat)
  paths : List (Nat × Nat)
  markers : List (Nat × List Nat × Nat)
deriving DecidableEq, Repr

/-- A serving shape (R233): decode slots, speculative depth, chunk capacity. -/
structure ServShape where
  d : Nat
  s : Nat
  c : Nat
deriving DecidableEq, Repr

/-- Section 0x0B: serving shapes, settle timing, serving area and pool (R225, R234, R243). -/
structure ServSection where
  shapes : List ServShape
  settle : Nat
  ready : Nat
  maxent : Nat
  area : Nat
  poolBase : Nat
  poolStride : Nat
  poolPages : Nat
  ctxLo : Nat
  ctxHi : Nat
  meterLo : Nat
  meterHi : Nat
  nrank : Nat
deriving DecidableEq, Repr

/-- Manifest chunk entry (Table 09.2). -/
structure Chunk where
  rank : Nat
  target : Nat
  len : Nat
  dest : Nat
  raddr : Nat
  sha : BitVec 256
deriving DecidableEq, Repr

/-- Manifest target entry (Table 09.3): storage address, destination queue pair, remote key, UDP source port base, and the front-end ports
that may carry it. -/
structure StorageTarget where
  addr : BitVec 128
  qpn : BitVec 24
  rkey : Word
  sport : BitVec 16
  ports : BitVec 2
deriving DecidableEq, Repr

/-- Whether a target's address is an IPv4-mapped one: its reads go over IPv4 (R271). -/
def StorageTarget.ipv4 (t : StorageTarget) : Bool := decide (t.addr.toNat / 2 ^ 32 = 0xFFFF)

/-- Section 0x0C: the shard manifest: the targets by index and the chunk list (R270). -/
structure Manifest where
  targets : List (Nat × StorageTarget)
  chunks : List Chunk
deriving DecidableEq, Repr

/-- Section 0x0E: LK_PLAN values of one link (R307, R312). -/
structure LinkPlan where
  lanesMin : Nat
  leeway : Nat
  inUse : Bool
  vc2max : Nat
deriving DecidableEq, Repr

/-- A reel (R350): header fields of Table 12.8, directory, signature, and the contents of the sections for this
device. `hash` is the SHA-384 of the header and directory, `size` the reel's length in bytes. -/
structure Reel where
  format : Nat
  grid : Nat
  planf : Nat
  ndev : Nat
  take : Nat
  seed : DWord
  shapePlan : Bool
  nshape : Nat
  leadDev : Nat
  trigCarry : BitVec 4
  baseTag : Nat
  dir : List DirEntry
  sig : Sig
  hash : BitVec 384
  size : Nat
  members : List Member
  clusters : List (Nat × ClusterImage)
  cores : List (Nat × CoreImage)
  sieve : List (Nat × BitVec 256)
  inject : List (Nat × DWord)
  recv : List (Nat × DWord)
  alternates : List Alternate
  groups : List (Nat × RedGroup)
  decode : List (Nat × List Word)
  tree : TimeTree
  travel : Travel
  serving : ServSection
  manifest : Manifest
  counters : List (Nat × Word)
  linkPlans : List (Nat × LinkPlan)
  hbmPeaks : List Nat
  landPeaks : List (Nat × Nat × Nat)
  epeak : Nat
  udrain : Nat
  sliceOrigin : Nat × Nat × Nat
  sliceExtent : Nat × Nat × Nat
deriving DecidableEq, Repr

/-! ## Records that commands carry -/

/-- The envelope of a received order (R342, R344): its SEQ and the host tag. -/
structure Order where
  seq : DWord
  tag : DWord
deriving DecidableEq, Repr

/-- Where an order's payload goes in host memory: PADDR and PLEN (Table 12.4). -/
structure HostSpan where
  addr : DWord
  len : Nat
deriving DecidableEq, Repr

/-- A step-order entry of 64 bytes (Table 08.3): bytes 0-3, 4-7, then four quadwords; `rest` says bytes 40-63 are 0. -/
structure StepEntry where
  w0 : Word
  w4 : Word
  q8 : DWord
  q16 : DWord
  q24 : DWord
  q32 : DWord
  rest : BitVec 192
deriving DecidableEq, Repr

/-- The call sheet's fields (Table 12.2, Table 15.2). -/
structure CallSheet where
  version : Nat
  rack : Nat
  slot : Nat
  hostRole : BitVec 2
  dirmap : BitVec 2
  profile : Nat
  watts : Nat
  dims : Nat × Nat × Nat
  coords : Nat × Nat × Nat
  blockLo : Nat
  blockHi : Nat
  gateway : Nat
  proxyMap : DWord
  interval : Nat
  trigMask : BitVec 5
  snap : List Nat
  cabling : List Word
  generation : Nat
  crcOk : Bool
deriving DecidableEq, Repr

/-- The 112 bytes of a token (R410, R432), with the hash of the public key that it carries and the verdict on its signature. -/
structure Token where
  body : List Byte
  keyHash : BitVec 384
  verifies : Bool
deriving DecidableEq, Repr

/-- The fields of a firmware image's header (R411); `zeroOk` says that every other byte of it is 0. -/
structure FwHeader where
  format : Nat
  keyIdx : Nat
  version : Word
  secver : Nat
  revoke : BitVec 8
  length : Nat
  zeroOk : Bool
deriving DecidableEq, Repr

/-- What the security block finds of a firmware image beside its header's fields (R408, R411): the hash of the public key that it
carries, whether its signature verifies under that key, and whether its body has the hash that the header names. -/
structure FwFacts where
  keyHash : BitVec 384
  verifies : Bool
  bodyHashOk : Bool
deriving DecidableEq, Repr

/-- Result of a screen test (R388, R264, R386): physical slots found bad (cluster × 16 + slot), HBM rows repaired as (base, length),
spare rows left per stack, rows retired as (base, length), links with at least 2 usable lanes, links on fewer
than 4 lanes. -/
structure ScreenResult where
  badSlots : List Nat
  repaired : List (Nat × Nat)
  spareLeft : List Nat
  retired : List (Nat × Nat)
  usableLinks : Nat
  degradedLinks : Nat
deriving DecidableEq, Repr

/-- A packet (Table 10.3, R286): header fields and data with one poison flag per 8 bytes. -/
structure Packet where
  vc : Nat
  pkind : Nat
  nflit : Nat
  flag : Bool
  sync : Nat
  ddev : Nat
  sdev : Nat
  dcore : Nat
  score : Nat
  route : Nat
  remt : Nat
  pland : Nat
  daddr : Nat
  take : Nat
  data : List Byte
  poison : List Bool
  hdrPoison : Bool
deriving DecidableEq, Repr

/-- What a receiver finds on a packet's flits beside its content (R281, R285, R298): sequence number, the CRC of its last flit, the
HCRC of its header, the BAD mark, and for each codeword that the FEC corrected the receive lanes of its corrected symbols. -/
structure Rx where
  seq : Nat
  crc : Word
  hcrc : BitVec 16
  bad : Bool
  fixed : List (List Nat)
deriving DecidableEq, Repr

/-- The context states of Table 08.2; `held` marks a context held on a follower (Table 08.31). -/
inductive CtxState where
  | free | prefill | active | idle | exhausted | faulted | held
deriving DecidableEq, Repr

/-- A queued PREFILL entry (R222, R233): HBM address of its next token, tokens left, LAST. -/
structure PrefillEntry where
  addr : Nat
  left : Nat
  last : Bool
deriving DecidableEq, Repr

/-- A ring record (Table 08.9) with the ring it goes to; `fresh` says that its context still has that ring, `stamp` is its place in the
order of release (R247). -/
structure RingRecord where
  type : Nat
  ctx : Nat
  seq : Nat
  token : Word
  pos : Nat
  wall : Nat
  cut : Nat
  meter : Nat
  detail : Nat
  tag : DWord
  holdover : Bool
  base : DWord
  log : Nat
  vector : Nat
  fresh : Bool
  stamp : Nat
deriving DecidableEq, Repr

/-- A request context (R219). `steps` with `endless` is what DECODE asked for; `wrote`, `head`, `lastTail`, `lastIrq`,
`tailDirty`, `irqDirty` and `ready` serve its ring: records written, the head by doorbell, wall ticks of the last tail and interrupt,
whether a tail and an interrupt are owed, records that wait; `gen` counts its openings; `reach` is the number of positions whose
pages are mapped; `full` says that records were dropped. -/
structure Ctx where
  st : CtxState
  meter : Nat
  commit : Nat
  input : Word
  drafts : List Word
  steps : Nat
  endless : Bool
  spec : Nat
  prefills : List PrefillEntry
  lastSeen : Bool
  ringBase : DWord
  ringLog : Nat
  vector : Nat
  tailco : Nat
  irqco : Nat
  ringSeq : Nat
  wrote : Nat
  head : Nat
  lastTail : Nat
  lastIrq : Nat
  tailDirty : Bool
  irqDirty : Bool
  reach : Nat
  gen : Nat
  ready : List RingRecord
  seed : DWord
  tag : DWord
  mirror : Bool
  full : Bool
  poisoned : Bool
deriving DecidableEq, Repr

/-- A context of a mirror (R249, R389): its commit pointer, pieces of committed KV as (local page, offset in the frame, bytes, one
poison flag per 32 bytes), and on the lead its context record. -/
structure MirrorCtx where
  ctx : Nat
  commit : Nat
  kv : List (Nat × Nat × List Byte × List Bool)
  entry : Option Ctx
deriving DecidableEq, Repr

/-- A recorded external input (Table 15.5): KIND, plan tick, cut index, wall tick, payload words. -/
structure RecEntry where
  kind : Nat
  plan : Int
  cut : Nat
  wall : Nat
  words : List DWord
  entries : List StepEntry
  data : List Byte
deriving DecidableEq, Repr

/-- The parameters of a matrix operation as the M slot encodes them (Table 06.9). -/
structure MmaBits where
  form : BitVec 1
  sfmt : BitVec 4
  afmt : BitVec 4
  m : BitVec 7
  k : BitVec 7
  n : BitVec 7
  sparse : BitVec 2
  wit : BitVec 1
  dest : BitVec 1
  accum : BitVec 1
  tfmt : BitVec 4
  rnd : BitVec 3
  sat : BitVec 1
  fade : BitVec 1
  sa : BitVec 5
  sb : BitVec 5
  so : BitVec 5
  st : BitVec 5
deriving DecidableEq, Repr

/-- Where a slot operation issues (R167, R170): the cluster, how many bundles after the cluster's last command it issues
(0: the same bundle), and PG. -/
structure Issue where
  cl : Fin 4
  adv : Nat
  pg : BitVec 4
deriving DecidableEq, Repr

/-- A physical core slot (R166). -/
structure CoreId where
  cl : Fin 4
  slot : Fin 11
deriving DecidableEq, Repr

/-- What a landing register expects of a transfer of another device: source, landing tick and bytes; a void transfer has none (R48,
R181, R355). -/
structure Expect where
  srcDev : Nat
  srcCore : Nat
  p : Int
  bytes : Nat
deriving DecidableEq, Repr

/-- A landing that is released: its place, and what its landing register expects. -/
structure LandingRef where
  index : Nat
  expect : Option Expect
deriving DecidableEq, Repr

/-- What a proxied device asks of its gateway, and the gateway of it: a read, a posted write or a doorbell, an interrupt (R340). -/
inductive ProxyAsk where
  | read | write | irq
deriving DecidableEq, Repr

/-- Where a HOLD or CUT set arrives: its link, and which of the three copies it is (R305). -/
structure SetRx where
  link : Fin 64
  copy : Nat
deriving DecidableEq, Repr

/-- A codeword that a receiver could not use as it came: the 225 symbols, its slot, and whether a slate was lost with it. -/
structure BadCodeword where
  slot : Nat
  symbols : List (BitVec 10)
  slateLost : Bool
deriving DecidableEq, Repr

/-- The access paths to BAR0 (R12). -/
inductive Path where
  | pcie | regrd | i3c
deriving DecidableEq, Repr

/-- The form of a bus access (R440): 32-bit, 64-bit, or any other size or byte enables. -/
inductive Width where
  | w32 | w64 | other
deriving DecidableEq, Repr

/-- The three bands of a barometer (R30). -/
inductive Band where
  | ample | narrow | exhausted
deriving DecidableEq, Repr

/-- Why the brake engages (R405). -/
inductive BrakeCause where
  | power | rail | thermal
deriving DecidableEq, Repr

/-- An unscheduled request to a core's drizzle port (R141): a read (returning data to host memory at the given
address), or a write of bytes; with the counter a flagged write increments (R162, R348). -/
inductive DrizzleOp where
  | read (addr len : Nat) (host : DWord)
  | write (addr : Nat) (data : List Byte) (poison : List Bool) (sync : Option Nat)
deriving DecidableEq, Repr

/-- Header of a PTP message: the port that took it in, its domain, its transport as FE_PTP_CFG codes it, its sender and its sequence
number. -/
structure PtpHead where
  port : Nat
  domain : Nat
  transport : Nat
  sender : Nat
  seq : Nat
deriving DecidableEq, Repr

/-- What an Announce says of a clock: the data set that the best master clock algorithm compares, and currentUtcOffset where it is
valid. -/
structure PtpClock where
  priority1 : Nat
  clockClass : Nat
  accuracy : Nat
  variance : Nat
  priority2 : Nat
  gm : DWord
  steps : Nat
  utc : Option (BitVec 16)
deriving DecidableEq, Repr

/-- PTP messages that the ordinary clock takes in (R276): a Sync with its origin time in ticks where its sender is a one-step clock, the
Follow_Up that brings it otherwise, a Delay_Resp with the time at which the Delay_Req arrived. Each time includes the correction field. -/
inductive PtpMsg where
  | sync (h : PtpHead) (origin : Option Int)
  | followUp (h : PtpHead) (origin : Int)
  | delayResp (h : PtpHead) (arrival : Int)
  | announce (h : PtpHead) (c : PtpClock)
deriving DecidableEq, Repr

/-- The steps of a PLDM firmware update (R419). -/
inductive PldmStep where
  | transfer (offset : Nat) (hdr : Option FwFacts) (data : List Byte) (last : Bool)
  | verify
  | apply
  | activate
deriving DecidableEq, Repr

/-- What a management processor reports for its last period (R394, R395): work pending per class in microseconds, and
the telemetry samples that did not complete. -/
structure PeriodLoad where
  fault : Nat
  mailbox : Nat
  serving : Nat
  telemetry : Nat
  lost : Nat
deriving DecidableEq, Repr

/-- What entry to BOOT finds (R316, R457, R349, R414): straps, the validity of each firmware slot's image, the screen
test's result, the fused facts read. -/
structure BootFacts where
  slotAValid : Bool
  slotBValid : Bool
  screen : ScreenResult
  dirW : Bool
  dirE : Bool
deriving DecidableEq, Repr

/-- The straps sampled on entry to BOOT (R316, R457). -/
structure Straps where
  slot : BitVec 8
  role : BitVec 2
  dirW : Bool
  dirE : Bool
deriving DecidableEq, Repr

/-- The identity that a partner's TRAIN body carries (R309). -/
structure TrainBody where
  device : Nat
  slot : Nat
  role : BitVec 2
  link : Nat
  grade : Word
  lanes : BitVec 4
deriving DecidableEq, Repr

end Sys2Proof.Machine
end

