-- ==== Sys2Proof/Syntax.lean ====
section
/-! DEFINITION. The commands of the block: one constructor per row of spec/opcode_table.json, with the data that the
spec gives each of them. -/

namespace Sys2Proof

open Machine

/-- One constructor per row of spec/opcode_table.json. -/
inductive Instr where
  | load (o : Order) (r : Reel)
  | stage (o : Order) (r : Reel)
  | unload (o : Order)
  | fetch (o : Order)
  | arm (o : Order) (firstCue : DWord)
  | armJoin (o : Order) (arg0 arg1 arg2 : DWord)
  | drain (o : Order) (cut : DWord)
  | exchange (o : Order) (k tj : DWord)
  | exchangeCancel (o : Order)
  | serve (o : Order) (entries : List StepEntry)
  | copyin (o : Order) (arg0 arg1 arg2 : DWord) (data : List Byte)
  | copyout (o : Order) (arg0 arg1 arg2 : DWord) (dest : HostSpan)
  | regrd (o : Order) (arg0 : DWord)
  | regwr (o : Order) (arg0 arg1 : DWord)
  | cabling (o : Order) (plan : List Word) (rack blockLo blockHi : Nat)
  | callsheet (o : Order) (payload : List Byte)
  | reset (o : Order)
  | resume (o : Order) (epoch wr cut : DWord)
  | screen (o : Order)
  | screenComplete (r : ScreenResult)
  | fitness (o : Order) (paddr : DWord)
  | admitOrder (o : Order) (arg0 arg1 : DWord) (standinCut : DWord) (leadRecords : Bool)
  | admitCopyComplete (ctxs : List MirrorCtx) (meters : List (Nat × Nat × Nat))
  | admitStandinTimeout (copied : List MirrorCtx) (meters : List (Nat × Nat × Nat)) (lost : List Nat)
  | updDownload (o : Order) (offset : DWord) (hdr : Option FwFacts) (data : List Byte)
  | updVerify (o : Order)
  | updActivate (o : Order)
  | updConfirm (o : Order)
  | updCancel (o : Order)
  | dbgNonce (o : Order)
  | dbgUnlock (o : Order) (t : Token)
  | dbgRelock (o : Order)
  | cnDump (o : Order) (arg0 paddr : DWord) (plen : Nat)
  | cnClear (o : Order) (t : Token)
  | recStart (o : Order) (base size : DWord)
  | recStop (o : Order)
  | replay (o : Order) (stream : List RecEntry)
  | completionPost
  | deliveryReadComplete
  | oqTail (slot : Fin 64) (value : Word) (w : Width)
  | cqHead (slot : Fin 64) (value : Word) (w : Width)
  | ringHead (slot : Fin 64) (ctx : BitVec 15) (value : Word) (w : Width)
  | registerWrite (p : Path) (w : Width) (offset : Nat) (value : DWord)
  | rcRead (p : Path) (w : Width) (offset : Nat)
  | lowWordRead (p : Path) (w : Width) (offset : Nat)
  | tbStep (p : Path) (high : Word)
  | lkCtrlEn (p : Path) (l : Fin 64) (en : Bool)
  | retrain (p : Path) (l : Fin 64)
  | lkSleepRequest (p : Path) (l : Fin 64)
  | wake (p : Path) (l : Fin 64)
  | hiMbCtrlEn (p : Path)
  | cnRecHead (p : Path) (offset : Word)
  | lullRun (i : Issue) (count : BitVec 24) (slotsZero : Bool)
  | checkpoint (i : Issue)
  | add (i : Issue) (sd sa sb : BitVec 5)
  | sub (i : Issue) (sd sa sb : BitVec 5)
  | mul (i : Issue) (sd sa sb : BitVec 5)
  | and (i : Issue) (sd sa sb : BitVec 5)
  | or (i : Issue) (sd sa sb : BitVec 5)
  | xor (i : Issue) (sd sa sb : BitVec 5)
  | shl (i : Issue) (sd sa sb : BitVec 5)
  | shr (i : Issue) (sd sa sb : BitVec 5)
  | sar (i : Issue) (sd sa sb : BitVec 5)
  | min (i : Issue) (sd sa sb : BitVec 5)
  | max (i : Issue) (sd sa sb : BitVec 5)
  | addi (i : Issue) (sd sa : BitVec 5) (imm : Word)
  | movi (i : Issue) (sd : BitVec 5) (imm : Word)
  | movhi (i : Issue) (sd : BitVec 5) (imm : Word)
  | cmp (i : Issue) (sd sa : BitVec 5) (imm : Word)
  | lds (i : Issue) (sd sa : BitVec 5) (imm : Word)
  | sts (i : Issue) (sd sa : BitVec 5) (imm : Word)
  | brb (i : Issue) (sc : BitVec 5) (cond : BitVec 3) (len : BitVec 20)
  | loop (i : Issue) (sn si : BitVec 5) (body max : BitVec 20)
  | vadd (i : Issue) (pipe : Fin 2) (vd va vb : BitVec 5) (rnd : BitVec 3)
  | vsub (i : Issue) (pipe : Fin 2) (vd va vb : BitVec 5) (rnd : BitVec 3)
  | vmul (i : Issue) (pipe : Fin 2) (vd va vb : BitVec 5) (rnd : BitVec 3)
  | vfma (i : Issue) (pipe : Fin 2) (vd va vb vc : BitVec 5) (rnd : BitVec 3)
  | vmin (i : Issue) (pipe : Fin 2) (vd va vb : BitVec 5)
  | vmax (i : Issue) (pipe : Fin 2) (vd va vb : BitVec 5)
  | vcvt (i : Issue) (pipe : Fin 2) (vd va vb : BitVec 5) (rnd : BitVec 3) (sat : BitVec 1) (fmt : BitVec 4)
  | vcmp (i : Issue) (pipe : Fin 2) (vd va vb : BitVec 5) (fmt : BitVec 4)
  | vsel (i : Issue) (pipe : Fin 2) (vd va vb vc : BitVec 5)
  | vpset (i : Issue) (pipe : Fin 2) (vd va : BitVec 5) (fmt : BitVec 4)
  | vperm (i : Issue) (pipe : Fin 2) (vd va vb : BitVec 5)
  | vred (i : Issue) (pipe : Fin 2) (vd va : BitVec 5) (rnd : BitVec 3) (fmt : BitVec 4)
  | vsfu (i : Issue) (pipe : Fin 2) (vd va : BitVec 5) (rnd : BitVec 3) (fmt : BitVec 4)
  | vld (i : Issue) (pipe : Fin 2) (vd va : BitVec 5) (imm : BitVec 20)
  | vst (i : Issue) (pipe : Fin 2) (vd va : BitVec 5) (imm : BitVec 20)
  | vacc (i : Issue) (pipe : Fin 2) (vd va : BitVec 5) (imm : BitVec 20)
  | mma (i : Issue) (b : MmaBits)
  | passStart (c : CoreId) (adv : Nat) (array : Fin 4)
  | mmaComplete (c : CoreId) (adv : Nat)
  | pendingTakeup (c : CoreId) (adv : Nat)
  | fadeOutEnd (c : CoreId) (adv : Nat)
  | xfer (i : Issue) (ldSlot : Bool) (desc : BitVec 12) (sadr dadr treg : BitVec 5) (timm : Word)
  | sig (i : Issue) (ctr : BitVec 13) (amt : BitVec 16) (timm : Word)
  | sigDue (ctr : BitVec 13)
  | setc (i : Issue) (ctr : BitVec 13) (val : Word) (timm : BitVec 18)
  | setcDue (ctr : BitVec 13)
  | wait (i : Issue) (ctr : BitVec 13) (stgt : BitVec 5) (tmo : BitVec 20) (tgt : BitVec 30)
  | waitSatisfied (cl : Fin 4)
  | waitTimeout (cl : Fin 4)
  | redc (i : Issue) (sd sa : BitVec 5) (rop : BitVec 3)
  | redx (i : Issue) (sd sa : BitVec 5) (rop : BitVec 3) (grp : BitVec 8) (timm : Word)
  | redxResult (cl : Fin 4)
  | trig (i : Issue) (sd : BitVec 5) (inp : Fin 4) (clr : BitVec 1)
  | ssel (i : Issue) (sa : BitVec 5)
  | topk (i : Issue) (entry : BitVec 8) (sa : BitVec 5)
  | send (i : Issue) (entry : BitVec 8) (sa : BitVec 5)
  | dispatch (i : Issue) (entry : BitVec 8) (sa : BitVec 5)
  | pages (i : Issue) (entry : BitVec 8) (sa : BitVec 5)
  | sieveFree (cl : Fin 4) (adv : Nat)
  | cue (cl : Fin 4)
  | landingRelease (dst : Option CoreId) (what : LandingRef)
  | landingWriteback (c : CoreId) (granule : Nat)
  | eccWriteback (c : CoreId)
  | drizzleRequest (c : CoreId) (r : DrizzleOp)
  | drizzleAccess (c : CoreId)
  | drizzleWatchdog (c : CoreId)
  | scrubComplete (core : Option CoreId) (stack : Fin 8)
  | clockRaise (region : Fin 57)
  | barometerBand (region : Fin 57) (band : Band)
  | gate
  | holdEnd
  | fadeIn (c : CoreId) (array : Fin 4)
  | replayStop
  | replayOrderSend
  | resumeTick
  | takeStart
  | settle
  | cutMessageSend
  | cutMessageReceive (r : SetRx) (take gate shape : Nat) (digest : DWord) (adopt : Nat)
  | prepare
  | cut
  | exchangePauseEnd
  | ringRecordWrite (ctx : BitVec 15)
  | tailWrite (ctx : BitVec 15)
  | mirrorSend
  | mirrorWrite (l : Fin 64) (rx : Rx) (p : Packet) (cut : Nat) (rec : MirrorCtx) (meters : List (Nat × Nat × Nat)) (ended complete : Bool)
  | mirrorAcknowledgement (l : Fin 64) (rx : Rx) (p : Packet) (cut : Nat)
  | slateSend (l : Fin 64)
  | slate (l : Fin 64) (tsend techo trecv : DWord) (dev : Nat) (holdover unaligned : Bool)
  | holdMarker (r : SetRx) (take gate frames reason origin : Nat)
  | framePulseOut
  | framePulseIn
  | triggerEdge (inp : Fin 4) (rising : Bool) (width : Nat)
  | triggerVisible (inp : Fin 4)
  | lossOfReference
  | packetSend (l : Fin 64)
  | vc2Launch (l : Fin 64)
  | scheduledSendPacket (l : Fin 64) (rx : Rx) (p : Packet)
  | redxContribution (l : Fin 64) (rx : Rx) (p : Packet) (grp rank : Nat) (value : DWord) (poison : Bool)
  | unscheduledSend (l : Fin 64) (rx : Rx) (p : Packet)
  | proxiedRequest (l : Fin 64) (rx : Rx) (p : Packet) (ask : ProxyAsk) (addr : DWord)
  | proxiedResponse (l : Fin 64) (rx : Rx) (p : Packet)
  | ack (l : Fin 64) (seq : Nat) (cvc credits : Nat)
  | nak (l : Fin 64) (seq : Nat) (cvc credits : Nat)
  | replayTimeout (l : Fin 64)
  | discard (l : Fin 64) (seq : Nat)
  | creditExchange (l : Fin 64)
  | credit (l : Fin 64) (sent freed : List Word)
  | linkDead (l : Fin 64)
  | laneLockLoss (l : Fin 64) (lane : Fin 4)
  | laneErrorLimit (l : Fin 64) (lane : Fin 4) (symbols : Nat)
  | lanes (l : Fin 64) (mask : BitVec 4)
  | laneMaskSwitch (l : Fin 64)
  | signalDetect (l : Fin 64) (mask : BitVec 4)
  | lossOfSignal (l : Fin 64)
  | train (l : Fin 64) (b : TrainBody)
  | trainingComplete (l : Fin 64) (mask : BitVec 4)
  | trainingTimeout (l : Fin 64)
  | wakeTimeout (l : Fin 64)
  | wakeComplete (l : Fin 64) (offset : Int)
  | failedTimeout (l : Fin 64)
  | sleep (l : Fin 64) (request grant : Bool)
  | idleTimeout (l : Fin 64)
  | udrainExpiry (dest : Nat)
  | refreshWindow (stack : Fin 8) (channel : Fin 32)
  | temperatureSample (stack : Fin 8) (celsius : Nat)
  | patrolRead (stack : Fin 8)
  | poisonWriteback (stack : Fin 8)
  | chunkArrival (index : Nat) (data : List Byte) (transportFailed : Bool)
  | ptpMessage (m : PtpMsg)
  | frontEndFrameDrop (port : Fin 2)
  | brakeEngage (c : BrakeCause) (watts : Nat)
  | brakeRelease
  | thermalTrip (dieW dieE stack : Nat)
  | managementPeriod (die : Fin 2) (w : PeriodLoad)
  | heartbeat (die : Fin 2) (strap : Bool)
  | heartbeatMissed (die : Fin 2)
  | strapSample (die : Fin 2) (level : Bool)
  | pldmFirmwareUpdate (p : PldmStep)
  | firmwareConfirm
  | dailiesInterval (die : Fin 2)
  | recordEntryWrite
  | mainPowerGood (s : Straps)
  | powerLost (mainLost : Bool)
  | bootComplete (b : BootFacts)
  | trialTimeout
  | hostInterfaceReset
  | i3cReset
  | uncorrectableCodeword (l : Fin 64) (c : BadCodeword)
  | partnerWakeSignal (l : Fin 64)
  | landingArrival (dst : Option CoreId) (index : Nat)
  | holdoverOscillatorFailure
  | frontEndLinkChange (port : Fin 2) (up : Bool) (fast : Bool)
  | malformedOrder (descriptor : List Byte) (crc : Word)
deriving DecidableEq, Repr

end Sys2Proof
end

