-- ==== Sys2Proof/Machine/State.lean ====
section
/-! DEFINITION. The state of the device as plain data, the reasons a step can stop, and the state after reset. -/

namespace Sys2Proof.Machine

/-- Why the machine stops with a fault. -/
inductive Fault where
  /-- Raised by the commands that address scratchpad or HBM with an address that R136 and R254 say does not exist,
  where no rule names a response (COPYIN, COPYOUT, drizzle requests). Safe: the device is not said to go on. -/
  | noSuchAddress
deriving DecidableEq, Repr

/-- Why a command has no meaning. -/
inductive Refusal where
  /-- Raised by an arm of exec that has no meaning yet. Safe. -/
  | notModelled (mnemonic : String)
deriving DecidableEq, Repr

/-- The grades of R2. -/
inductive Grade where
  | st640 | st636
deriving DecidableEq, Repr

/-- The device states of Table 12.7, in the order of HI_STATUS.STATE. -/
inductive DevState where
  | off | boot | ready | loaded | armed | running | holding | draining | fenced | failed
deriving DecidableEq, Repr

/-- The recovery states of Table 13.7. -/
inductive RState where
  | run | pend | stop | fenced | failed
deriving DecidableEq, Repr

/-- The director election states of Table 14.2. -/
inductive EState where
  | undecided | settled | isolated | contra
deriving DecidableEq, Repr

/-- The admission states of Table 13.6. -/
inductive AState where
  | idle | copying | complete | incomplete | joined
deriving DecidableEq, Repr

/-- The check state of a stored granule or unit (R145, R260): what its check bits will say at the next read. -/
inductive Check where
  | clean | correctable | uncorrectable
deriving DecidableEq, Repr

/-- What a granule or unit holds beside its data (R145, R260). -/
structure Meta where
  poison : Bool
  check : Check
deriving DecidableEq, Repr

/-- A scalar register: value and poison bit (R172). -/
structure SVal where
  v : DWord
  p : Bool
deriving DecidableEq, Repr

/-- A predicate: value and poison bit (R172). -/
structure PVal where
  v : Bool
  p : Bool
deriving DecidableEq, Repr

/-- A vector register: 128 lanes, lane k at bits 32k+31..32k, and one poison bit per 64-bit granule (R148, R172). -/
structure VVal where
  v : BitVec 4096
  p : BitVec 64
deriving DecidableEq, Repr

/-- An accumulator entry (R114): W40 value, parity bit of each half, poison bit, written bit. -/
structure AccEntry where
  v : BitVec 40
  par0 : Bool
  par1 : Bool
  poison : Bool
  written : Bool
deriving DecidableEq, Repr

/-- What a pending write writes (R173); `mark` poisons the granules of a losing write (R140). A matrix pass's flags, its halt
its skipped witness rows and the rows whose witness mismatches take effect with its last output (R101, R122, R132, R133). -/
inductive Target where
  | sreg (r : Nat) (v : SVal)
  | pred (r : Nat) (v : PVal)
  | vreg (r : Nat) (v : VVal)
  | acc (i : Nat) (v : BitVec 40) (poison : Bool)
  | bytes (addr : Nat) (data : List Byte) (poison : List Bool)
  | mark (addr len : Nat)
  | flags (f : BitVec 4)
  | halt (reason : Nat)
  | witSkip (n : Nat)
  | mismatch (arr pass : Nat) (rows : List Nat)
deriving DecidableEq, Repr

/-- A result on its way: written when the cluster's local cycle count reaches `due`; `issued` is its issue cycle, `tag`
names it among the core's results. -/
structure PendWrite where
  due : Nat
  issued : Nat
  tag : Nat
  target : Target
deriving DecidableEq, Repr

/-- A matrix operation in the matrix slot (R108, R110). `start` is the cycle it counts as issued at, `next` the next
pass of each array, `last` the cycle at which each array started its last pass, `slotAt` the cycle at which each array may
start its next pass; `off` says the core is guarded off; `tag` is the first of the tags of its passes' results, four for each pass. -/
structure MmaRun where
  bits : MmaBits
  aAddr : Nat
  bAddr : Nat
  outAddr : Nat
  tensor : Nat
  off : Bool
  poison : Bool
  issue : Nat
  start : Nat
  next : List Nat
  slotAt : List Nat
  endAt : Nat
  tag : Nat
deriving DecidableEq, Repr

/-- An ECC write-back (R146): granule, and whether it writes poison. -/
structure WriteBack where
  granule : Nat
  poison : Bool
deriving DecidableEq, Repr

/-- A queued drizzle request (R141): what it asks for, the counter that its copy signals (R152), the bytes done, the frame in which it
became the head, whether the watchdog reported it, the bytes read, the SEQ of the copy order that asked for it, and whether it is the
copy's last; `inLink` names the link, channel and flits of the receive buffer that holds it until it enters the queue (R293). -/
structure DrizzleReq where
  op : DrizzleOp
  signals : Option Nat
  done : Nat
  since : Nat
  reported : Bool
  got : List Byte
  order : Option DWord
  last : Bool
  inLink : Option (Nat × Nat × Nat)
deriving DecidableEq, Repr

/-- A transfer on its way to, or in, a landing stage (R47, R158, R159). Rows are (address, bytes, one poison flag per
8 bytes). `need` and `got` count its bytes and those arrived, `awaited` names the packets whose failed flits were invalidated (R290). -/
structure Landing where
  p : Int
  kind : Nat
  flag : Bool
  sync : Nat
  srcDev : Nat
  srcCore : Nat
  seq : Nat
  base : Nat
  rows : List (Nat × List Byte × List Bool)
  need : Nat
  got : Nat
  arrived : Bool
  released : Bool
  left : List Nat
  decodeErr : Bool
  awaited : List Nat
deriving DecidableEq, Repr

/-- What a scheduled access loses with its bank (R140): a read, what is made of it, the results of `n` tags; a write, the bytes that it
covers; an access of the sieve, what it writes in a bank or makes of a read; a read of the load or store engine, the bytes that land at
[addr, addr + len) at P from the core's send of a number. -/
inductive Loss where
  | result (n : Nat)
  | bytes (addr len : Nat)
  | sieve (func cycle bank : Nat) (write : Bool)
  | send (seq : Nat) (p : Int) (addr len : Nat)
deriving DecidableEq, Repr

/-- A scheduled access, for conflict detection (R140): cycle, first bank and number of banks, engine code with the vector pipe or
array, the result it belongs to, and what it loses. -/
structure BankUse where
  cycle : Nat
  bank : Nat
  banks : Nat
  engine : Nat
  pipe : Nat
  tag : Nat
  loss : Loss
deriving DecidableEq, Repr

/-- A disturbance of an array's weight registers, multipliers or adders in its next pass: in one row it adds a residue modulo 2^31 − 1
to the sum of the unit values (R132). -/
structure Upset where
  arr : Nat
  row : Nat
  residue : Nat
deriving DecidableEq, Repr

/-- The registers and queues of one physical core (R134). Landing stage, drizzle queue, pending results, matrix slot; `holdFaded`
marks the arrays faded out at the gate of a hold (R129); `noted` keeps the issue cycle, cycle and bank of the conflict in CL_CONFLICT;
`scrubbed` says that the scratchpad is as a scrub left it, no step having started since; `lost` are the tags of the passes whose reads
have lost their banks; the accesses of the arrays are kept apart from the other engines'. -/
structure Core where
  sregs : SMap SVal
  preds : SMap PVal
  vregs : SMap VVal
  acc : SMap AccEntry
  pend : List PendWrite
  tags : Nat
  pipeFree : List Nat
  running : Option MmaRun
  waiting : Option MmaRun
  warm : BitVec 4
  holdFaded : BitVec 4
  fadeUntil : Option Nat
  eccq : List WriteBack
  drizzle : List DrizzleReq
  landing : List Landing
  inflight : List Landing
  uses : List BankUse
  arrayUses : List BankUse
  sent : Nat
  lastFlagP : SMap Int
  noted : Option (Nat × Nat × Nat)
  scrubbed : Bool
  upsets : List Upset
  lost : List Nat
deriving DecidableEq, Repr

/-- A nested control construct in progress (R189, R190). -/
inductive Ctl where
  | arm (endAt resume : Nat)
  | loop (start len left count max : Nat) (si : Nat)
deriving DecidableEq, Repr

/-- An outstanding WAIT (R184); `met` is the plan tick at which its counter reached the target. -/
structure WaitState where
  ctr : Nat
  target : Word
  tmo : Nat
  since : Int
  met : Option Int
deriving DecidableEq, Repr

/-- A cross-device reduction in progress on this cluster (R186): `issued` once the cluster's own REDX has issued; contributions
may arrive before. `flags` are those of the cluster's own fold, set at P. -/
structure RedxState where
  grp : Nat
  sd : Nat
  p : Int
  issued : Bool
  flags : BitVec 4
  parts : List (Nat × SVal)
deriving DecidableEq, Repr

/-- A SIEVE that runs (R203): its function's code, its issue cycle, the cycle of its last write, and per core the banks it may access
and the tag of its results. -/
structure SieveState where
  func : Nat
  from_ : Nat
  until_ : Nat
  banks : List (Nat × List Nat)
  tags : List (Nat × Nat)
deriving DecidableEq, Repr

/-- A sequencer (R191). `running`: a segment is launched; `fresh`: its first bundle has not issued; `ended`: a bundle with
LAST has issued. `pc` is the current bundle, `at_` its issue cycle, `dur` its issue cycles, `idle` the cycles after them in which nothing
may issue, `skip` the padding of a loop that it skips, `used` its slots taken, `jump` where control goes next. `now` counts local cycles and was reached at wall tick `nowAt`, `issued` issue cycles of the segment. `winLo`, `winHi`, `winBase` give the
issue window of R193, in ticks times the plan frequency in units of 100 MHz. `waited` lists the counters waited on in the step. `lull`: a lull run or padding is under way; `haltAt`: the cycle of the halt. -/
structure Seq where
  running : Bool
  fresh : Bool
  ended : Bool
  cueIdx : Nat
  cueTick : Int
  pc : Nat
  at_ : Nat
  dur : Nat
  idle : Nat
  skip : Nat
  now : Nat
  nowAt : Nat
  issued : Nat
  used : BitVec 8
  jump : Option Nat
  stack : List Ctl
  wait : Option WaitState
  sieve : Option SieveState
  stalled : List Instr
  redx : List RedxState
  winLo : Int
  winHi : Int
  winBase : Nat
  waited : List Nat
  stretched : Nat
  lull : Bool
  haltAt : Option Nat
deriving DecidableEq, Repr

/-- A pending gate (R58): index (negative before the first cue), merged length, reasons (bit n for code 0xn). -/
structure PendGate where
  gate : Int
  frames : Nat
  reasons : BitVec 7
deriving DecidableEq, Repr

/-- A hold in effect (R61): its gate's plan tick, the wall tick at which plan time stopped, its length in frames. -/
structure HoldState where
  tick : Int
  wallAt : Nat
  frames : Nat
  pause : Bool
deriving DecidableEq, Repr

/-- A replay stop, or a RESUME pending in FENCED (R373, R375, R384): `order` is the replay order received: low gate bits, shape,
digest. -/
structure StopState where
  tick : Int
  wallAt : Nat
  order : Option (Nat × Nat × DWord)
  sent : Bool
  wr : Nat
deriving DecidableEq, Repr

/-- A trigger latch: EDGE, OVF, HOLDOVER, and the capture's plan and wall tick. -/
structure Latch where
  edge : Bool
  ovf : Bool
  holdover : Bool
  cap : Int
  ts : Nat
deriving DecidableEq, Repr

/-- A trigger input beyond TB_TRIG_STAT and TB_TRIGn_TS: capture plan tick, the latch as the plan sees it, the gate tick of a clear
asked for, and both latches at the last cut (R75, R187, R379). -/
structure Trigger where
  cap : Int
  vis : Option Latch
  clear : Option Int
  atCut : Option Latch
  atCutVis : Option Latch
deriving DecidableEq, Repr

/-- The PTP clock (R276): the foreign masters heard, by port and sender; the one chosen; the two-step Sync whose Follow_Up is awaited, as
sequence number and receipt; the last Sync as origin and receipt; the Delay_Req sent, as sequence number and wall tick; the mean path
delay. -/
structure Ptp where
  masters : List ((Nat × Nat) × PtpClock)
  chosen : Option (Nat × Nat)
  pair : Option (Nat × Int)
  last : Option (Int × Int)
  ask : Option (Nat × Int)
  asks : Nat
  delay : Option Int
deriving DecidableEq, Repr

/-- The timebase (R34, R35, R58, R61, R66). `error` is the last error measured against the time signal in use, `parentErr` that to the
parent; `slewEnd` is the wall tick at which the error being slewed out is gone (R69). -/
structure Time where
  wall : DWord
  offset : DWord
  frozen : Option Int
  gates : List PendGate
  held : Nat
  hold : Option HoldState
  stop : Option StopState
  trigs : SMap Trigger
  stepLow : Word
  error : Int
  parentErr : Int
  slewEnd : Nat
  slateOn : Bool
  ptpOn : Bool
  pulseOn : Bool
  refLost : Bool
  lostSlates : Nat
  ptp : Ptp
deriving DecidableEq, Repr

/-- A scheduled SIG or SETC (R182, R183). -/
structure Sched where
  ctr : Nat
  set : Bool
  val : Word
  due : Int
deriving DecidableEq, Repr

/-- A cut message (R227). -/
structure CutMsg where
  gate : Nat
  shape : Nat
  digest : DWord
  adopt : Nat
deriving DecidableEq, Repr

/-- An order that runs in the background (R347). -/
structure Background where
  opcode : Nat
  seq : DWord
  tag : DWord
deriving DecidableEq, Repr

/-- The reel in the banks and the take (R349 to R362). `vc0Last` keeps, per destination, the path of the last VC0 packet sent to
it and its wall tick; `vc0Held` the VC0 packets held for a changed path (R328). `altPending` and `altDone` are indices of
alternates, `altLive` the label entries replaced; `armSeq` and `armTag` name the ARM order. `ssel` is the shape nominated for the next
cut message, `sselLate` one nominated after its tick (R192). -/
structure Take where
  active : Option Reel
  staged : Option Reel
  shape : Nat
  lastCut : Int
  sched : List Sched
  cutMsg : Option CutMsg
  msgSent : Bool
  drainAt : Option Nat
  exchange : Option (Nat × Nat)
  members : Bool
  joined : Bool
  firstDone : Bool
  altLive : List (Nat × Nat)
  altPending : List Nat
  labels : SMap DWord
  pauseTo : Option Nat
  vc0Last : SMap (Nat × Nat)
  vc0Held : List (Nat × Packet)
  altDone : List Nat
  armSeq : DWord
  armTag : DWord
  ssel : Option Nat
  sselLate : Option Nat
deriving DecidableEq, Repr

/-- A budget meter (R220) with its last-chosen context (R232). -/
structure Meter where
  count : Nat
  weight : Nat
  last : Option Nat
  poisoned : Bool
deriving DecidableEq, Repr

/-- A serving order waiting for a settle (R223, R226): `rcvd` is the plan tick of its receipt, if plan time ran; `entries` are
those left, from index `fromEntry`; `codes` those of the entries before. -/
structure ServeOrder where
  seq : DWord
  tag : DWord
  rcvd : Option Int
  entries : List StepEntry
  fromEntry : Nat
  codes : List Nat
deriving DecidableEq, Repr

/-- A run entry (Table 08.6). -/
structure RunEntry where
  prefill : Bool
  lastChunk : Bool
  spec : Nat
  ctx : Nat
  pos : Nat
  count : Nat
  input : Word
  drafts : List Word
  addr : Nat
  seed : DWord
deriving DecidableEq, Repr

/-- A commit entry (Table 08.7). -/
structure CommitEntry where
  ended : Bool
  prefill : Bool
  ctx : Nat
  oldc : Nat
  newc : Nat
deriving DecidableEq, Repr

/-- What a settle leaves pending until the cut (R226): contexts, meters, pointers, commits, runs, records, orders done. -/
structure Pending where
  ctxs : SMap Ctx
  meters : SMap Meter
  ptrDec : Nat
  ptrPre : Nat
  lastPrefill : Option Nat
  shape : Nat
  commits : List CommitEntry
  runs : List (Nat × RunEntry)
  records : List RingRecord
  done : List ServeOrder
  left : List ServeOrder
  digest : DWord
  emitted : Nat
  withheld : Nat
  rejected : Nat
  lost : Nat
  adopt : Option (Nat × Nat)
deriving DecidableEq, Repr

/-- The page mappings and freed frames that a cut will make effective (R228, R244). -/
structure Prepared where
  maps : List (Nat × Nat × Nat)
  free : List Nat
  mirrorFree : List Nat
  lacking : Bool
  commits : List CommitEntry
deriving DecidableEq, Repr

/-- What a cut sends to the stand-in (R249): the cut, its commit entries, contexts with the committed KV of their local pages, meters. -/
structure MirrorJob where
  cut : Nat
  commits : List CommitEntry
  ctxs : List MirrorCtx
  meters : List (Nat × Nat × Nat)
deriving DecidableEq, Repr

/-- One kept mirror cut of the twin lead (R250). -/
structure MirrorCut where
  cut : Nat
  ctxs : List MirrorCtx
  meters : List (Nat × Nat × Nat)
deriving DecidableEq, Repr

/-- The serving engine (R218 to R252). -/
structure Serve where
  ctxs : SMap Ctx
  meters : SMap Meter
  ptrDec : Nat
  ptrPre : Nat
  lastPrefill : Option Nat
  orders : List ServeOrder
  frozen : Option (List ServeOrder)
  frozenHeads : List (Nat × Nat)
  pend : Option Pending
  prepared : Option Prepared
  freeList : List Nat
  mirrorFree : List Nat
  buffer : Nat
  runs : List (Nat × RunEntry)
  mirrorQueue : List MirrorJob
  unacked : List Nat
  kept : List MirrorCut
  building : List MirrorCtx
  lostCtxs : List Nat
  stamp : Nat
deriving DecidableEq, Repr

/-- A completion (Table 12.5). -/
structure Completion where
  seq : DWord
  opcode : Nat
  status : Nat
  detail : Nat
  result : DWord
  wall : Nat
  holdover : Bool
  tag : DWord
  dup : Bool
  codes : List Nat
deriving DecidableEq, Repr

/-- An item written to host memory and not yet delivered (R341). -/
inductive HostItem where
  | completion (c : Completion)
  | record (r : RingRecord)
deriving DecidableEq, Repr

/-- The doorbell counts of one HI_PX slot (R442, R443). -/
structure Bell where
  oqTail : Nat
  oqHead : Nat
  cqHead : Nat
  cqTail : Nat
deriving DecidableEq, Repr

/-- A zero-length read of the host interface (R341): the items posted before it that no earlier read answers, and per proxied device the
writes before it. -/
structure HostRead where
  own : Nat
  proxied : List (Nat × Nat)
deriving DecidableEq, Repr

/-- The host interface (R339 to R348). `ready` holds completions that wait for a queue slot, `posted` the items that are
written and not delivered, `kept` the completions of the last accepted orders. On a gateway `proxied` counts, per proxied
device, the writes that its next delivery read will answer, `heard` keeps the wall tick at which a slot last answered, and `copies`
the COPYIN orders on their way into a scratchpad: SEQ, arguments, data. `unread` counts the items posted since the last zero-length
read, `reads` are those reads that have not completed. -/
structure HostIf where
  background : List Background
  ready : List Completion
  posted : List HostItem
  kept : List Completion
  bells : SMap Bell
  rewrite : List HostItem
  resetAfter : Option DWord
  proxied : List (Nat × Nat)
  heard : SMap Nat
  copies : List (DWord × List DWord × List Byte)
  unread : Nat
  reads : List HostRead
deriving DecidableEq, Repr

/-- One HBM stack's controller (R255 to R264): poison write-backs, the patrol's next unit and its pending write-back,
correctable errors per row of the current pass, its rows in the repair record; `windows` keeps, per channel, one more than the wall
tick of its last refresh window. -/
structure Stack where
  pwb : List Nat
  patrol : Nat
  found : Option (Nat × Bool)
  ceRows : SMap Nat
  repair : List Nat
  windows : SMap Nat
  schedFrame : Nat
  schedCount : Nat
  landing : List Landing
deriving DecidableEq, Repr

/-- A shard fetch (R271 to R274): chunks verified, re-reads made per chunk, the manifest verified. -/
structure Fetch where
  verified : List Nat
  retries : SMap Nat
  digests : List (Nat × BitVec 256)
  regions : List (Nat × Nat)
  epoch : Nat
deriving DecidableEq, Repr

/-- A packet in a transmitter: sequence number once sent, times rewound, launch tick for VC2, the plan tick at which its first flit was
ready here; `entry` is the injection entry that named its path, `bad` marks its last flit BAD (R298), `inLink` is the link whose
receive buffer holds it until it is sent on (R293). -/
structure TxPacket where
  pkt : Packet
  seq : Option Nat
  rewinds : Nat
  launch : Int
  readyAt : Int
  entry : Option Nat
  bad : Bool
  inLink : Option (Nat × Nat)
deriving DecidableEq, Repr

/-- One link controller beyond its registers (R283 to R312, R323 to R328). `ackTick`, `rtoTick`, `codeTick`, `packetTick`,
`slateTick`, `creditTick` and `stateTick` are wall ticks: of the last ACK progress, the last restart of the replay timer, the last
codeword, packet, slate sent and CREDIT sent, and of entry to the link's state. `credited` says that training has set the credits;
`lastAcc` is the SEQ last accepted; `slotBase` codeword slots had passed at wall tick `slotFrom` (R283); `maskDue` is the ALIGN slot
at which a new mask takes effect (R306); `lastSet` keeps copy and content of the HOLD or CUT set received last (R305). -/
structure Link where
  txSeq : Nat
  rxSeq : Nat
  nakSent : Bool
  replay : List TxPacket
  toSend : List TxPacket
  vc0 : List TxPacket
  vc1 : List TxPacket
  vc2 : List TxPacket
  sent : List Nat
  freed : List Nat
  accepted : List Nat
  partnerFreed : List Nat
  ackTick : Nat
  rtoTick : Nat
  codeTick : Nat
  packetTick : Nat
  slateTick : Nat
  creditTick : Nat
  stateTick : Nat
  txMask : BitVec 4
  rxMask : BitVec 4
  newMask : Option (BitVec 4)
  lastTsend : DWord
  lastTrecv : DWord
  slateCount : Nat
  slept : Bool
  failedInTake : Bool
  trains : List TrainBody
  discards : List Nat
  vc2Frame : Nat
  vc2Count : Nat
  sleepAsked : Bool
  alignHeld : Bool
  delay : Nat
  credited : Bool
  lastAcc : Nat
  slotBase : Nat
  slotFrom : Nat
  maskDue : Nat
  lastSet : Option (Nat × List Nat)
deriving DecidableEq, Repr

/-- A fault record (Table 13.12). -/
structure FaultRec where
  source : Nat
  cls : Nat
  kind : Nat
  unit : Nat
  detail : Nat
  wall : Nat
  holdover : Bool
deriving DecidableEq, Repr

/-- The fault collector beyond its registers (R366). -/
structure Faults where
  queue : List FaultRec
  rstate : RState
  admission : AState
  admitPartial : Bool
  overflow : Bool
deriving DecidableEq, Repr

/-- A key slot (R408). -/
structure Key where
  hash : BitVec 384
  valid : Bool
  revoked : Bool
  use : BitVec 4
deriving DecidableEq, Repr

/-- A journal record (R413). The journal is the list of the records at flash offsets 0 and 0x1000. -/
structure Journal where
  seq : Nat
  activeB : Bool
  trial : Option Bool
  trials : Nat
  stage : Nat
  verA : Word
  verB : Word
deriving DecidableEq, Repr

/-- A management processor's election data (R398, R399) and telemetry state (R395). -/
structure Processor where
  estate : EState
  missed : Nat
  got : Nat
  seen : Option Bool
  good : Nat
deriving DecidableEq, Repr

/-- Flash, straps, fuses, management and power (chapters 11, 12, 14, 17). `dl` keeps the ranges of the image under download that
have been written, `overTicks` the wall tick at which a cause of the brake was last present; `nonce` is the debug nonce in force and
`lastNonce` the one given last (R410). -/
structure Manage where
  grade : Grade
  step : BitVec 8
  fusedOff : List Nat
  mainGood : Bool
  stbyGood : Bool
  straps : Straps
  sheets : List (Option CallSheet)
  sheet : Option CallSheet
  plan : List Word
  rack : Nat
  blockLo : Nat
  blockHi : Nat
  keys : List Key
  minver : Nat
  nonce : Option DWord
  lastNonce : Option DWord
  fwA : Option FwFacts
  fwB : Option FwFacts
  imgA : List Host.Cell
  imgB : List Host.Cell
  dl : List (Nat × Nat)
  journals : List Journal
  procW : Processor
  procE : Processor
  retired : List (Nat × Nat)
  badSlots : List Nat
  overTicks : Nat
deriving DecidableEq, Repr

/-- A log record (Table 15.3). -/
structure LogRec where
  seq : Nat
  event : Nat
  cls : Nat
  holdover : Bool
  snap : Bool
  inTake : Bool
  rep : Nat
  wall : Nat
  plan : Int
  span : Nat
  kind : Nat
  unit : Nat
  detail : Nat
  snaps : List Word
deriving DecidableEq, Repr

/-- An interval summary (R430). -/
structure Summary where
  wall : Nat
  index : Nat
  holdover : Bool
  counts : SMap Nat
  holds : SMap Nat
  extremes : SMap (Nat × Nat)
deriving DecidableEq, Repr

/-- One die's log (R426 to R430). -/
structure DieLog where
  next : Nat
  recs : List LogRec
  closed : List Summary
  cur : Summary
deriving DecidableEq, Repr

/-- The continuity log and record mode (R426 to R436): `stepEntries` holds the inputs of the current step, `entries` those that
wait to be written to the host. -/
structure Log where
  west : DieLog
  east : DieLog
  recBase : DWord
  recSize : Nat
  recOfs : Nat
  stepEntries : List RecEntry
  entries : List RecEntry
  stream : List RecEntry
  replayArmed : Bool
deriving DecidableEq, Repr

/-- What the device sends out: packets and ordered sets on links, posted writes and interrupts to the host, reads of
host memory and storage, the frame pulse. -/
inductive Out where
  | packet (l : Nat) (seq : Nat) (p : Packet)
  | stomp (l : Nat) (seq : Nat) (p : Packet)
  | ackSent (l : Nat) (nak : Bool) (seq cvc credits : Nat)
  | hold (l : Nat) (take gate frames reason origin copy : Nat)
  | cutMsg (l : Nat) (take gate shape : Nat) (digest : DWord) (adopt copy : Nat)
  | slate (l : Nat) (tsend techo trecv : DWord) (dev : Nat) (holdover unaligned : Bool) (count : Nat)
  | trainSet (l : Nat) (b : TrainBody)
  | creditSet (l : Nat) (sent freed : List Nat)
  | lanesSet (l : Nat) (mask : BitVec 4)
  | sleepSet (l : Nat) (request grant : Bool)
  | discardSet (l : Nat) (seq : Nat)
  | laneSwitch (l : Nat) (mask : BitVec 4)
  | hostWrite (addr : DWord) (data : List Byte)
  | zeroRead
  | flashWrite (offset : Nat) (data : List Byte)
  | proxyAsk (dest : Nat) (ask : ProxyAsk) (addr : DWord) (data : List Byte)
  | msix (vector : Nat)
  | hostRead (slot : Nat) (first count : Nat)
  | chunkRead (index : Nat) (port : Nat) (dest : StorageTarget) (ipv4 : Bool) (raddr : Nat) (len : Nat)
  | delayReq (port : Nat) (domain : Nat) (transport : Nat) (seq : Nat)
  | pulse (wall : Nat)
  | mirrorSent (cut : Nat) (dev : Nat) (commits : List CommitEntry) (ctxs : List MirrorCtx) (meters : List (Nat × Nat × Nat))
  | mirrorAck (dev : Nat) (cut : Nat)
  | wakeSignal (l : Nat)
  | transmitterOff (l : Nat)
  | ibi (die : Nat)
  | platformEvent (code detail : Nat)
  | delivered (n : Nat)
  | lostList (dev : Nat) (ctxs : List Nat)
  | readData (p : Path) (value : DWord)
  | witnessReport (core array pass row : Nat)
  | partnerNotice (l : Nat) (old new : Option (Nat × Nat)) (wall : Nat)
deriving DecidableEq, Repr

/-- The state of the device. `bundleErr` is the check state of bundle memory, keyed cluster × 262,144 + address (R191). -/
structure State where
  pending : List Instr
  free : Nat
  dev : DevState
  regs : SMap Word
  latches : SMap Word
  time : Time
  take : Take
  seqs : SMap Seq
  bundleErr : SMap Check
  cores : SMap Core
  spad : List Host.Cell
  spadMeta : SMap Meta
  written : SMap Bool
  carriedOk : Option (SMap Bool)
  windowCtr : SMap Nat
  epoch : Nat
  hbm : List Host.Cell
  hbmMeta : SMap Meta
  hbmStacks : SMap Stack
  fetch : Fetch
  links : SMap Link
  serve : Serve
  host : HostIf
  faults : Faults
  manage : Manage
  log : Log
  out : List Out
deriving DecidableEq, Repr

/-! ## The state after reset -/

/-- A core after reset: registers 0, arrays cold, queues empty (R126, R153). -/
def Core.initial : Core :=
  { sregs := [], preds := [], vregs := [], acc := [], pend := [], tags := 0, pipeFree := [0, 0], running := none, waiting := none,
    warm := 0, holdFaded := 0, fadeUntil := none, eccq := [], drizzle := [], landing := [], inflight := [], uses := [], arrayUses := [], sent := 0,
    lastFlagP := [], noted := none, scrubbed := false, upsets := [], lost := [] }

/-- A sequencer after reset: no segment. -/
def Seq.initial : Seq :=
  { running := false, fresh := false, ended := false, cueIdx := 0, cueTick := 0, pc := 0, at_ := 0, dur := 0, idle := 0, skip := 0, now := 0, nowAt := 0,
    issued := 0, used := 0, jump := none, stack := [], wait := none, sieve := none, stalled := [], redx := [], winLo := 0,
    winHi := 0, winBase := 0, waited := [], stretched := 0, lull := false, haltAt := none }

/-- A trigger input after reset: nothing captured. -/
def Trigger.initial : Trigger := { cap := 0, vis := none, clear := none, atCut := none, atCutVis := none }

/-- A PTP clock that has heard nothing. -/
def Ptp.initial : Ptp := { masters := [], chosen := none, pair := none, last := none, ask := none, asks := 0, delay := none }

/-- The timebase after reset: time signals absent (TB_STATUS.HOLDOVER 1), nothing pending. -/
def Time.initial : Time :=
  { wall := 0, offset := 0, frozen := none, gates := [], held := 0, hold := none, stop := none, trigs := [], stepLow := 0,
    error := 0, parentErr := 0, slewEnd := 0, slateOn := false, ptpOn := false, pulseOn := false, refLost := false,
    lostSlates := 0, ptp := Ptp.initial }

/-- No reel and no take. -/
def Take.initial : Take :=
  { active := none, staged := none, shape := 0, lastCut := 0, sched := [], cutMsg := none, msgSent := false,
    drainAt := none, exchange := none, members := false, joined := false, firstDone := false, altLive := [],
    altPending := [], labels := [], pauseTo := none, vc0Last := [], vc0Held := [], altDone := [],
    armSeq := 0, armTag := 0, ssel := none, sselLate := none }

/-- A context that is free (Table 08.2). -/
def Ctx.initial : Ctx :=
  { st := .free, meter := 0, commit := 0, input := 0, drafts := [], steps := 0, endless := false, spec := 0, prefills := [],
    lastSeen := false, ringBase := 0, ringLog := 0, vector := 0, tailco := 0, irqco := 0, ringSeq := 0, wrote := 0, head := 0,
    lastTail := 0, lastIrq := 0, tailDirty := false, irqDirty := false, reach := 0, gen := 0, ready := [], seed := 0, tag := 0, mirror := false,
    full := false, poisoned := false }

/-- A meter before any METER entry: nothing allowed, weight 1 (DESIGN CHOICE, log 5). -/
def Meter.initial : Meter := { count := 0, weight := 1, last := none, poisoned := false }

/-- The serving engine with every context free. -/
def Serve.initial : Serve :=
  { ctxs := [], meters := [], ptrDec := 0, ptrPre := 0, lastPrefill := none, orders := [], frozen := none, frozenHeads := [], pend := none,
    prepared := none, freeList := [], mirrorFree := [], buffer := 0, runs := [], mirrorQueue := [], unacked := [],
    kept := [], building := [], lostCtxs := [], stamp := 0 }

/-- Doorbell counts since EN was set. -/
def Bell.initial : Bell := { oqTail := 0, oqHead := 0, cqHead := 0, cqTail := 0 }

/-- The host interface with no order accepted. -/
def HostIf.initial : HostIf :=
  { background := [], ready := [], posted := [], kept := [], bells := [], rewrite := [], resetAfter := none, proxied := [], heard := [],
    copies := [], unread := 0, reads := [] }

/-- An HBM controller after reset. -/
def Stack.initial : Stack :=
  { pwb := [], patrol := 0, found := none, ceRows := [], repair := [], windows := [], schedFrame := 0, schedCount := 0,
    landing := [] }

/-- What of a stack lasts through a reset and without power: its rows in the repair record of flash (R264). -/
def Stack.unpowered (k : Stack) : Stack := { Stack.initial with repair := k.repair }

/-- No fetch. -/
def Fetch.initial : Fetch := { verified := [], retries := [], digests := [], regions := [], epoch := 0 }

/-- A link controller after reset: LK_STATUS says DOWN, nothing sent or received. -/
def Link.initial : Link :=
  { txSeq := 0, rxSeq := 0, nakSent := false, replay := [], toSend := [], vc0 := [], vc1 := [], vc2 := [],
    sent := [0, 0, 0], freed := [0, 0, 0], accepted := [0, 0, 0], partnerFreed := [0, 0, 0], ackTick := 0, rtoTick := 0, codeTick := 0,
    packetTick := 0, slateTick := 0, creditTick := 0, stateTick := 0, txMask := 0, rxMask := 0, newMask := none, lastTsend := 0, lastTrecv := 0, slateCount := 0,
    slept := false, failedInTake := false, trains := [], discards := [], vc2Frame := 0, vc2Count := 0, sleepAsked := false,
    alignHeld := false, delay := 0, credited := false, lastAcc := 4095, slotBase := 0, slotFrom := 0, maskDue := 0,
    lastSet := none }

/-- The fault collector with nothing queued. -/
def Faults.initial : Faults :=
  { queue := [], rstate := .run, admission := .idle, admitPartial := false, overflow := false }

/-- A processor that has exchanged nothing. -/
def Processor.initial : Processor := { estate := .undecided, missed := 0, got := 0, seen := none, good := 0 }

/-- Fuses, straps and flash of the modelled part (DESIGN CHOICE, log 3): grade ST6-40 at stepping 1, no slot fused off,
slot strap 0, role strap bench, no call sheet, no key, slot A active. -/
def Manage.initial : Manage :=
  { grade := .st640, step := 1, fusedOff := [], mainGood := true, stbyGood := true,
    straps := { slot := 0, role := 2, dirW := false, dirE := false }, sheets := [none, none], sheet := none, plan := [],
    rack := 0, blockLo := 0, blockHi := 0, keys := [], minver := 0, nonce := none, lastNonce := none, fwA := none, fwB := none, imgA := [],
    imgB := [], dl := [],
    journals := [{ seq := 1, activeB := false, trial := none, trials := 0, stage := 0, verA := 0, verB := 0 }],
    procW := Processor.initial, procE := Processor.initial, retired := [], badSlots := [], overTicks := 0 }

/-- An interval summary with nothing counted. -/
def Summary.initial : Summary := { wall := 0, index := 0, holdover := false, counts := [], holds := [], extremes := [] }

/-- An empty log. -/
def DieLog.initial : DieLog := { next := 0, recs := [], closed := [], cur := Summary.initial }

/-- Both logs empty, record mode off. -/
def Log.initial : Log :=
  { west := DieLog.initial, east := DieLog.initial, recBase := 0, recSize := 0, recOfs := 0, stepEntries := [], entries := [], stream := [],
    replayArmed := false }

/-- The machine right after reset: in BOOT (HI_STATUS resets to 1), every register at its reset value (`regs` lists the
registers that differ from it), memories as scrubbed, no command waiting. -/
def State.reset : State :=
  { pending := [], free := 0, dev := .boot, regs := [], latches := [], time := Time.initial, take := Take.initial,
    seqs := [], bundleErr := [], cores := [], spad := [], spadMeta := [], written := [], carriedOk := none, windowCtr := [], epoch := 0, hbm := [], hbmMeta := [], hbmStacks := [],
    fetch := Fetch.initial, links := [], serve := Serve.initial, host := HostIf.initial, faults := Faults.initial,
    manage := Manage.initial, log := Log.initial, out := [] }

end Sys2Proof.Machine
end

