-- ==== Sys2Proof/Machine/Maps.lean ====
section
/-! DEFINITION. Sparse maps and byte memories in canonical form: keys strictly rising, and no entry equal to what its key
reads as when it is not listed. -/

namespace Sys2Proof.Machine

/-- The entry listed for a key, if any. -/
def mapFind {α : Type} : SMap α → Nat → Option α
  | [], _ => none
  | (k', v) :: m, k => if k' = k then some v else mapFind m k

/-- What a key reads as: its entry, else the default `d` of the key. -/
def mapGet {α : Type} (d : Nat → α) (m : SMap α) (k : Nat) : α := (mapFind m k).getD (d k)

/-- Remove a key's entries. -/
def mapDel {α : Type} : SMap α → Nat → SMap α
  | [], _ => []
  | (k', v') :: m, k => if k' = k then mapDel m k else (k', v') :: mapDel m k

/-- Insert an entry in key order, in place of the key's entry if it has one. -/
def mapIns {α : Type} : SMap α → Nat → α → SMap α
  | [], k, v => [(k, v)]
  | (k', v') :: m, k, v =>
    if k < k' then (k, v) :: (k', v') :: m
    else if k = k' then (k, v) :: m
    else (k', v') :: mapIns m k v

/-- Write a key: a value equal to the key's default removes its entry. -/
def mapPut {α : Type} [DecidableEq α] (d : Nat → α) (m : SMap α) (k : Nat) (v : α) : SMap α :=
  if v = d k then mapDel m k else mapIns m k v

/-- Update every listed entry, dropping those that become their default. -/
def mapAll {α : Type} [DecidableEq α] (d : Nat → α) (f : α → α) : SMap α → SMap α
  | [] => []
  | (k, v) :: m => if f v = d k then mapDel (mapAll d f m) k else (k, f v) :: mapAll d f m

/-- Remove the entries of a sparse map whose keys lie in [lo, lo + n). -/
def mapClear {α : Type} (m : SMap α) (lo n : Nat) : SMap α := m.filter fun e => !(decide (lo ≤ e.1) && decide (e.1 < lo + n))

/-- The canonical form above a bound: keys rising and at least the bound, no entry equal to its default. -/
def mapWfFrom {α : Type} [DecidableEq α] (d : Nat → α) : Nat → SMap α → Bool
  | _, [] => true
  | b, (k, v) :: m => decide (b ≤ k) && decide (v ≠ d k) && mapWfFrom d (k + 1) m

/-- The canonical form of a sparse map. -/
def mapWf {α : Type} [DecidableEq α] (d : Nat → α) (m : SMap α) : Bool := mapWfFrom d 0 m

/-! ## Byte memories: an unlisted byte reads 0, the content that the boot scrub leaves (R153, R266) -/

/-- What an unlisted byte reads as. -/
def byteDefault (_ : Nat) : Byte := 0

/-- Read one byte. -/
def memGet (m : List Host.Cell) (a : Nat) : Byte := mapGet byteDefault m a

/-- Write one byte. -/
def memPut (m : List Host.Cell) (a : Nat) (b : Byte) : List Host.Cell := mapPut byteDefault m a b

/-- Read `n` bytes from an address, lowest first. -/
def memRead (m : List Host.Cell) (a : Nat) : Nat → List Byte
  | 0 => []
  | n + 1 => memGet m a :: memRead m (a + 1) n

/-- Write bytes from an address up. -/
def memWrite (m : List Host.Cell) (a : Nat) : List Byte → List Host.Cell
  | [] => m
  | b :: bs => memWrite (memPut m a b) (a + 1) bs

/-- The canonical form of a byte memory. -/
abbrev Memory.wf (m : List Host.Cell) : Bool := mapWf byteDefault m

/-! ## Lists -/

/-- Replace the element at an index. -/
def listSet {α : Type} : List α → Nat → α → List α
  | [], _, _ => []
  | _ :: l, 0, v => v :: l
  | x :: l, n + 1, v => x :: listSet l n v

/-- Drop the first element that meets a test. -/
def dropFirst {α : Type} (p : α → Bool) : List α → List α
  | [] => []
  | x :: l => if p x then l else x :: dropFirst p l

/-- Insert into a list that rises by a key, after the elements with the same key. -/
def insertBy {α : Type} (key : α → Int) (x : α) : List α → List α
  | [] => [x]
  | y :: l => if key x < key y then x :: y :: l else y :: insertBy key x l

/-- Sort by a rising key, keeping the order of equal keys. -/
def sortBy {α : Type} (key : α → Int) : List α → List α
  | [] => []
  | x :: l => insertByFront key x (sortBy key l)
where
  /-- Insert before the elements with the same key. -/
  insertByFront {α : Type} (key : α → Int) (x : α) : List α → List α
  | [] => [x]
  | y :: l => if key y < key x then y :: insertByFront key x l else x :: y :: l

/-- Repeat an update of a value for each number below a bound, from 0 up. -/
def forUpTo {α : Type} (f : Nat → α → α) : Nat → α → α
  | 0, a => a
  | n + 1, a => f n (forUpTo f n a)

/-- The numbers from `a` up, `n` of them. -/
def upFrom (a : Nat) : Nat → List Nat
  | 0 => []
  | n + 1 => a :: upFrom (a + 1) n

end Sys2Proof.Machine
end

