-- ==== Sys2Proof/Machine/Bits.lean ====
section
/-! DEFINITION. Bit fields, byte order, signed values, and the check codes: CRC-64 (R235), CRC-32C (R268) and SHA-256
(R272). -/

namespace Sys2Proof.Machine

/-- The field [hi:lo] of a number. -/
def bitsOf (hi lo n : Nat) : Nat := n / 2 ^ lo % 2 ^ (hi + 1 - lo)

/-- Replace the field [hi:lo] of a word; the value is cut to the field. -/
def setBits (w : Word) (hi lo v : Nat) : Word :=
  let width := hi + 1 - lo
  BitVec.ofNat 32 (w.toNat - bitsOf hi lo w.toNat * 2 ^ lo + v % 2 ^ width * 2 ^ lo)

/-- Bit `n` of a number. -/
def bitOf (x n : Nat) : Bool := x / 2 ^ n % 2 == 1

/-- A Bool as a number. -/
def b2n (b : Bool) : Nat := if b then 1 else 0

/-- A Bool as a one-bit vector. -/
def b2v (b : Bool) : BitVec 1 := if b then 1 else 0

/-- A number of `w` bits read as two's complement. -/
def signedOf (w n : Nat) : Int := if 2 ^ (w - 1) ≤ n then (n : Int) - 2 ^ w else n

/-- The low `w` bits of an integer in two's complement. -/
def unsignedOf (w : Nat) (i : Int) : Nat := (i % 2 ^ w).toNat

/-- The smallest integer at or above a / b (b > 0). -/
def ceilDiv (a b : Nat) : Nat := (a + b - 1) / b

/-- The smallest multiple of `m` at or above an integer (m > 0). -/
def ceilMul (a : Int) (m : Nat) : Int := -(-a / (m : Int)) * m

/-- Saturating addition at 2^w - 1. -/
def satAdd (w a b : Nat) : Nat := min (a + b) (2 ^ w - 1)

/-! ## Byte order: little-endian (R11, R167) -/

/-- The `n` bytes of a number, lowest first. -/
def toBytes : Nat → Nat → List Byte
  | 0, _ => []
  | n + 1, x => BitVec.ofNat 8 x :: toBytes n (x / 256)

/-- The number whose bytes are given, lowest first. -/
def ofBytes : List Byte → Nat
  | [] => 0
  | b :: bs => b.toNat + 256 * ofBytes bs

/-- The bytes of a list of 64-bit words. -/
def bytesOfWords : List DWord → List Byte
  | [] => []
  | w :: ws => toBytes 8 w.toNat ++ bytesOfWords ws

/-! ## CRCs, computed bit by bit, right-shifting -/

/-- One bit step of a reflected CRC of width `w`. -/
def crcBit {w : Nat} (poly c : BitVec w) : BitVec w := if c.getLsbD 0 then (c >>> 1) ^^^ poly else c >>> 1

/-- One byte of a reflected CRC. -/
def crcByte {w : Nat} (poly c : BitVec w) (b : Byte) : BitVec w :=
  let x := c ^^^ b.zeroExtend w
  crcBit poly (crcBit poly (crcBit poly (crcBit poly (crcBit poly (crcBit poly (crcBit poly (crcBit poly x)))))))

/-- A reflected CRC over bytes. -/
def crcBytes {w : Nat} (poly : BitVec w) : BitVec w → List Byte → BitVec w
  | c, [] => c
  | c, b :: bs => crcBytes poly (crcByte poly c b) bs

/-- CRC-64 of R235: initial value and final XOR all ones. -/
def crc64 (bs : List Byte) : DWord :=
  crcBytes 0xC96C5795D7870F42#64 (BitVec.allOnes 64) bs ^^^ BitVec.allOnes 64

/-- CRC-32C (R268, R336, R342): the Castagnoli polynomial, reflected, initial value and final XOR all ones
(PRESUMED, log 11). -/
def crc32c (bs : List Byte) : Word := crcBytes 0x82F63B78#32 (BitVec.allOnes 32) bs ^^^ BitVec.allOnes 32

/-! ## SHA-256 (R272; its algorithm PRESUMED, log 12) -/

/-- The largest number below 2^b whose k-th power is at most n, found bit by bit above `c`. -/
def rootOf (k n : Nat) : Nat → Nat → Nat
  | 0, c => c
  | b + 1, c => rootOf k n b (if (c + 2 ^ b) ^ k ≤ n then c + 2 ^ b else c)

/-- The first 32 fraction bits of the k-th root of a number below 2^9. -/
def rootBits (k p : Nat) : Word := BitVec.ofNat 32 (rootOf k (p * 2 ^ (32 * k)) 38 0)

/-- The first 64 primes. -/
def shaPrimes : List Nat := (upFrom 2 310).filter fun p => (upFrom 2 16).all fun d => decide (p = d) || decide (p % d ≠ 0)

/-- The constants of the 64 rounds. -/
def shaRoundWords : List Word := shaPrimes.map (rootBits 3)

/-- The XOR of a word turned right by several distances. -/
def turns (w : Word) (ns : List Nat) : Word := ns.foldl (fun x n => x ^^^ w.rotateRight n) 0

/-- The eight working words as two histories, newest first: the words a to d are the last four of one, e to h of the other. -/
structure ShaWords where
  high : List Word
  low : List Word

/-- Word j of a history. -/
def pastWord (ws : List Word) (j : Nat) : Word := ws.getD j 0

/-- The chaining value as working words, and back. -/
def shaOpen (h : List Word) : ShaWords := { high := h.take 4, low := h.drop 4 }

/-- The chaining value that working words end as. -/
def ShaWords.value (s : ShaWords) : List Word := s.high.take 4 ++ s.low.take 4

/-- One round; `kw` is the sum of its constant and its message word. -/
def ShaWords.round (s : ShaWords) (kw : Word) : ShaWords :=
  let a := pastWord s.high
  let e := pastWord s.low
  let picked := e 2 ^^^ (e 0 &&& (e 1 ^^^ e 2))
  let most := (a 0 &&& (a 1 ||| a 2)) ||| (a 1 &&& a 2)
  let t := e 3 + turns (e 0) [6, 11, 25] + picked + kw
  { high := (t + turns (a 0) [2, 13, 22] + most) :: s.high, low := (a 3 + t) :: s.low }

/-- A schedule, newest word first, made `n` words longer. -/
def shaSchedule (ws : List Word) : Nat → List Word
  | 0 => ws
  | n + 1 =>
    let old := pastWord ws
    let grow := (turns (old 14) [7, 18] ^^^ (old 14 >>> 3)) + (turns (old 1) [17, 19] ^^^ (old 1 >>> 10))
    shaSchedule ((old 15 + old 6 + grow) :: ws) n

/-- The chaining value after one block of sixteen words. -/
def shaBlock (h ws : List Word) : List Word :=
  let kws := List.zipWith (· + ·) shaRoundWords (shaSchedule ws.reverse 48).reverse
  List.zipWith (· + ·) h (kws.foldl ShaWords.round (shaOpen h)).value

/-- The chaining value after the blocks of a message: at most `fuel`. -/
def shaBlocks (h ws : List Word) : Nat → List Word
  | 0 => h
  | fuel + 1 => if ws.isEmpty then h else shaBlocks (shaBlock h (ws.take 16)) (ws.drop 16) fuel

/-- Word i of a byte string, most significant byte first. -/
def shaWordAt (bs : List Byte) (i : Nat) : Word := BitVec.ofNat 32 (ofBytes ((bs.drop (4 * i)).take 4).reverse)

/-- A message with its end marker, zeros and bit count: whole blocks of 64 bytes. -/
def shaPadded (bs : List Byte) : List Byte :=
  let zeros := (64 - (bs.length + 9) % 64) % 64
  bs ++ [0x80#8] ++ List.replicate zeros 0#8 ++ (toBytes 8 (8 * bs.length)).reverse

/-- SHA-256 as 256 bits, the first byte in the lowest eight. -/
def sha256 (bs : List Byte) : BitVec 256 :=
  let msg := shaPadded bs
  let ws := (upFrom 0 (msg.length / 4)).map (shaWordAt msg)
  let h := shaBlocks ((shaPrimes.take 8).map (rootBits 2)) ws (msg.length / 64)
  BitVec.ofNat 256 (ofBytes (h.flatMap fun w => (toBytes 4 w.toNat).reverse))

end Sys2Proof.Machine
end

