-- ==== Sys2Proof/Machine/Numeric.lean ====
section
/-! DEFINITION. Numbers: exact values, the formats of chapter 3, rounding, block and group encodings (R77 to R102). -/

namespace Sys2Proof.Machine

/-- An exact value: NaN, an infinity, or ± m × 2^e (the sign of a zero is kept). -/
inductive Num where
  | nan
  | inf (neg : Bool)
  | fin (neg : Bool) (m : Nat) (e : Int)
deriving DecidableEq, Repr

/-- Positive zero. -/
def Num.zero : Num := .fin false 0 0

/-- Whether a value is a zero of either sign. -/
def Num.isZero : Num → Bool
  | .fin _ 0 _ => true
  | _ => false

/-- Whether a value is NaN. -/
def Num.isNaN : Num → Bool
  | .nan => true
  | _ => false

/-- Whether a value is an infinity. -/
def Num.isInf : Num → Bool
  | .inf _ => true
  | _ => false

/-- An integer as a value. -/
def Num.ofInt (i : Int) (e : Int) : Num := .fin (decide (i < 0)) i.natAbs e

/-- The signed significand of a finite value at exponent `e0`, which is at most its exponent. -/
def Num.mantAt (e0 : Int) : Num → Int
  | .fin neg m e => (if neg then -1 else 1) * ((m : Int) * 2 ^ (e - e0).toNat)
  | _ => 0

/-- The exponent of a finite value. -/
def Num.expo : Num → Int
  | .fin _ _ e => e
  | _ => 0

/-- Change the sign. -/
def Num.neg : Num → Num
  | .nan => .nan
  | .inf b => .inf !b
  | .fin b m e => .fin (!b) m e

/-- Floor of the base-2 logarithm of a nonzero m × 2^e. -/
def log2Of (m : Nat) (e : Int) : Int := (Nat.log2 m : Int) + e

/-- m1 × 2^e1 ≤ m2 × 2^e2. -/
def dyLe (m1 : Nat) (e1 : Int) (m2 : Nat) (e2 : Int) : Bool :=
  let e0 := min e1 e2
  decide (m1 * 2 ^ (e1 - e0).toNat ≤ m2 * 2 ^ (e2 - e0).toNat)

/-- The magnitude of a finite value. -/
def Num.mag : Num → Nat × Int
  | .fin _ m e => (m, e)
  | _ => (0, 0)

/-- Whether |x| ≤ |y| for finite values. -/
def Num.absLe (x y : Num) : Bool := dyLe x.mag.1 x.mag.2 y.mag.1 y.mag.2

/-- x < y under IEEE 754 ordering, for values that are not NaN; zeros are equal. -/
def Num.lt : Num → Num → Bool
  | .nan, _ => false
  | _, .nan => false
  | .inf a, .inf b => a && !b
  | .inf a, _ => a
  | _, .inf b => !b
  | .fin a m e, .fin b n f =>
    let e0 := min e f
    decide ((Num.fin a m e).mantAt e0 < (Num.fin b n f).mantAt e0)

/-- x = y under IEEE 754 ordering. -/
def Num.eq : Num → Num → Bool
  | .nan, _ => false
  | _, .nan => false
  | x, y => !x.lt y && !y.lt x

/-! ## Flags (Table 03.8), one bit each in the order of CL_FLAGS -/

/-- NV. -/
def flagNV : BitVec 4 := 1#4

/-- OF. -/
def flagOF : BitVec 4 := 2#4

/-- UF. -/
def flagUF : BitVec 4 := 4#4

/-- NI. -/
def flagNI : BitVec 4 := 8#4

/-- A flag if a condition holds. -/
def flagIf (c : Bool) (f : BitVec 4) : BitVec 4 := if c then f else 0

/-! ## Rounding (R96, R97, R99) -/

/-- Rounding modes (Table 03.6). -/
inductive Round where
  | rne | rtz | rup | rdn | sr
deriving DecidableEq, Repr

/-- The rounding mode of a code; 0b101 to 0b111 are reserved (R96). -/
def roundOf (c : BitVec 3) : Option Round :=
  match c.toNat with
  | 0 => some .rne
  | 1 => some .rtz
  | 2 => some .rup
  | 3 => some .rdn
  | 4 => some .sr
  | _ => none

/-- Round a magnitude num/den to an integer: the integer, and whether it is inexact. `draw` is the stochastic draw. -/
def roundRat (r : Round) (neg : Bool) (draw num den : Nat) : Nat × Bool :=
  let q := num / den
  let rem := num % den
  if rem = 0 then (q, false)
  else
    let up := match r with
      | .rne => decide (den < 2 * rem) || (decide (den = 2 * rem) && decide (q % 2 = 1))
      | .rtz => false
      | .rup => !neg
      | .rdn => neg
      | .sr => decide (draw < 2 ^ 24 * rem / den)
    (if up then q + 1 else q, true)

/-- Round m × 2^e to an integer multiple of 2^q. -/
def roundAt (r : Round) (neg : Bool) (draw m : Nat) (e q : Int) : Nat × Bool :=
  if q ≤ e then (m * 2 ^ (e - q).toNat, false) else roundRat r neg draw m (2 ^ (q - e).toNat)

/-- The mixing function of R99. -/
def mix64 (z : DWord) : DWord :=
  let z := (z ^^^ (z >>> 31)) * 0xC2B74E1D9F350A6B#64
  let z := (z ^^^ (z >>> 27)) * 0x8F1D63A5B7C92E47#64
  z ^^^ (z >>> 33)

/-- The stochastic draw (R99): 24 bits keyed by the take seed, tensor and coordinates. -/
def srDraw (seed : DWord) (tensor i j : Word) : Nat :=
  let z := mix64 (seed ^^^ (tensor.zeroExtend 64 <<< 32))
  let z := mix64 (z ^^^ ((i.zeroExtend 64 <<< 32) ||| j.zeroExtend 64))
  (z >>> 40).toNat

/-! ## Wide formats (R85, R86) -/

/-- A binary format with an all-ones exponent for infinity and NaN. -/
structure FloatFmt where
  ebits : Nat
  fbits : Nat
  bias : Nat
deriving DecidableEq, Repr

/-- F32. -/
def fmtF32 : FloatFmt := { ebits := 8, fbits := 23, bias := 127 }

/-- BF16. -/
def fmtBF16 : FloatFmt := { ebits := 8, fbits := 7, bias := 127 }

/-- HF16. -/
def fmtHF16 : FloatFmt := { ebits := 5, fbits := 10, bias := 15 }

/-- W40. -/
def fmtW40 : FloatFmt := { ebits := 9, fbits := 30, bias := 255 }

/-- The value of a code. -/
def FloatFmt.decode (f : FloatFmt) (n : Nat) : Num :=
  let frac := n % 2 ^ f.fbits
  let ex := n / 2 ^ f.fbits % 2 ^ f.ebits
  let neg := bitOf n (f.ebits + f.fbits)
  if ex = 2 ^ f.ebits - 1 then (if frac = 0 then .inf neg else .nan)
  else if ex = 0 then .fin neg frac (1 - (f.bias : Int) - f.fbits)
  else .fin neg (2 ^ f.fbits + frac) ((ex : Int) - f.bias - f.fbits)

/-- The canonical NaN (R85, R87). -/
def FloatFmt.nan (f : FloatFmt) : Nat := (2 ^ f.ebits - 1) * 2 ^ f.fbits + 2 ^ (f.fbits - 1)

/-- An infinity. -/
def FloatFmt.inf (f : FloatFmt) (neg : Bool) : Nat := b2n neg * 2 ^ (f.ebits + f.fbits) + (2 ^ f.ebits - 1) * 2 ^ f.fbits

/-- The largest finite value. -/
def FloatFmt.largest (f : FloatFmt) (neg : Bool) : Nat :=
  b2n neg * 2 ^ (f.ebits + f.fbits) + (2 ^ f.ebits - 1) * 2 ^ f.fbits - 1

/-- The smallest normal exponent. -/
def FloatFmt.emin (f : FloatFmt) : Int := 1 - (f.bias : Int)

/-- Encode n × 2^q, a value on the format's grid and within its range. -/
def FloatFmt.pack (f : FloatFmt) (neg : Bool) (n : Nat) (q : Int) : Nat :=
  let sgn := b2n neg * 2 ^ (f.ebits + f.fbits)
  if n < 2 ^ f.fbits then
    -- a subnormal: the grid's quantum is 2^(emin - fbits)
    sgn + n * 2 ^ (q - (f.emin - f.fbits)).toNat
  else if n = 2 ^ (f.fbits + 1) then sgn + (q + 1 + f.bias + f.fbits).toNat * 2 ^ f.fbits
  else sgn + (q + f.bias + f.fbits).toNat * 2 ^ f.fbits + (n - 2 ^ f.fbits)

/-- Round an exact value into a format: the code and the flags of R97 and Table 03.7 (`sat` is the saturation bit). A NaN
gives the canonical NaN with no flag of its own; an infinity stays one and overflows nothing, with either SAT (DESIGN CHOICE, log 123). -/
def FloatFmt.round (f : FloatFmt) (r : Round) (sat : Bool) (draw : Nat) : Num → Nat × BitVec 4
  | .nan => (f.nan, 0)
  | .inf neg => (f.inf neg, 0)
  | .fin neg m e =>
    if m = 0 then (b2n neg * 2 ^ (f.ebits + f.fbits), 0)
    else
      let q := max (log2Of m e) f.emin - f.fbits
      let top : Int := (2 ^ f.ebits - 2 : Nat) - f.bias
      let beyond := fun (n : Nat) => decide (top < log2Of n q) && decide (n ≠ 0)
      let (n, inexact) := roundAt r neg draw m e q
      let (rn, _) := roundAt .rne neg draw m e q
      if r = .sr then
        if beyond rn then (if sat then f.largest neg else f.inf neg, flagOF)
        else if beyond n ∨ !dyLe m e (2 ^ (f.fbits + 1) - 1) (top - f.fbits) then (f.largest neg, 0)
        else (f.pack neg n q, flagIf (inexact && decide (n < 2 ^ f.fbits)) flagUF)
      else if beyond n then
        let toInf := match r with
          | .rtz => false
          | .rup => !neg
          | .rdn => neg
          | _ => true
        (if sat || !toInf then f.largest neg else f.inf neg, flagOF)
      else (f.pack neg n q, flagIf (inexact && decide (n < 2 ^ f.fbits)) flagUF)

/-! ## Element codes and blocks (R77 to R83) -/

/-- A block format: element width, exponent and fraction bits, bias, whether the all-ones code is NaN, and the largest
magnitude. -/
structure BlockFmt where
  width : Nat
  ebits : Nat
  fbits : Nat
  bias : Nat
  hasNaN : Bool
  micro : Bool
  vmax : Nat
deriving DecidableEq, Repr

/-- CB4. -/
def fmtCB4 : BlockFmt := { width := 4, ebits := 2, fbits := 1, bias := 1, hasNaN := false, micro := true, vmax := 6 }

/-- CB6. -/
def fmtCB6 : BlockFmt := { width := 6, ebits := 3, fbits := 2, bias := 3, hasNaN := false, micro := true, vmax := 28 }

/-- CB8. -/
def fmtCB8 : BlockFmt := { width := 8, ebits := 4, fbits := 3, bias := 7, hasNaN := true, micro := false, vmax := 448 }

/-- Bytes of a block (Table 03.3). -/
def BlockFmt.size (f : BlockFmt) : Nat := 4 * f.width + (if f.micro then 2 else 1)

/-- The value of an element code. A zero of either sign reads as zero (R78). -/
def BlockFmt.element (f : BlockFmt) (n : Nat) : Num :=
  let frac := n % 2 ^ f.fbits
  let ex := n / 2 ^ f.fbits % 2 ^ f.ebits
  let neg := bitOf n (f.ebits + f.fbits)
  if f.hasNaN ∧ n % 2 ^ (f.width - 1) = 2 ^ (f.width - 1) - 1 then .nan
  else if ex = 0 then (if frac = 0 then .zero else .fin neg frac (1 - (f.bias : Int) - f.fbits))
  else .fin neg (2 ^ f.fbits + frac) ((ex : Int) - f.bias - f.fbits)

/-- Scale a value by 2^k. -/
def Num.scale (k : Int) : Num → Num
  | .fin neg m e => .fin neg m (e + k)
  | x => x

/-- The 32 values of a block image (R80, R81). -/
def BlockFmt.decode (f : BlockFmt) (img : List Byte) : List Num :=
  let codes := ofBytes (img.take (4 * f.width))
  let e8 := (img.getD (4 * f.width) 0).toNat
  let mu := if f.micro then (img.getD (4 * f.width + 1) 0).toNat else 0
  (upFrom 0 32).map fun i =>
    if e8 = 255 then .nan
    else (f.element (codes / 2 ^ (f.width * i) % 2 ^ f.width)).scale ((e8 : Int) - 127 - (mu / 4 ^ (i / 8) % 4 : Nat))

/-- The larger of two magnitudes. -/
def maxMag (x y : Num) : Num := if x.absLe y then y else x

/-- The largest magnitude of a list of finite values. -/
def amaxOf (xs : List Num) : Num := xs.foldl maxMag .zero

/-- The smallest integer c with m × 2^e ≤ vmax × 2^c (m nonzero). -/
def ceilLog (m : Nat) (e : Int) (vmax : Nat) : Int :=
  let c := log2Of m e - (Nat.log2 vmax : Int)
  if dyLe m e vmax (c - 1) then c - 1 else if dyLe m e vmax c then c else c + 1

/-- Round a scaled element onto the element grid: code, whether it rounded inexactly to a subnormal or zero, whether it lies beyond
the largest magnitude, where it saturates whatever the mode and the draw (R82, R97). -/
def BlockFmt.encodeElement (f : BlockFmt) (r : Round) (draw : Nat) : Num → Nat × Bool × Bool
  | .fin neg m e =>
    if m = 0 then (0, false, false)
    else
      let q := max (log2Of m e) (1 - (f.bias : Int)) - f.fbits
      let (n, inexact) := roundAt r neg draw m e q
      let big := !dyLe m e f.vmax 0
      let n' := if big then f.vmax else n
      let q' := if big then 0 else q
      if n' = 0 then (0, inexact, false)
      else
        let l := log2Of n' q'
        let ex := if l < 1 - (f.bias : Int) then 0 else (l + f.bias).toNat
        let q2 := max l (1 - (f.bias : Int)) - f.fbits
        let sig := if q2 ≤ q' then n' * 2 ^ (q' - q2).toNat else n' / 2 ^ (q2 - q').toNat
        (b2n neg * 2 ^ (f.ebits + f.fbits) + ex * 2 ^ f.fbits + sig % 2 ^ f.fbits, inexact && decide (ex = 0), big)
  | _ => (0, false, false)

/-- Split a list into groups of `n`; `k` groups at most. -/
def groupsOf {α : Type} (n : Nat) : Nat → List α → List (List α)
  | 0, _ => []
  | k + 1, l => if l.isEmpty then [] else l.take n :: groupsOf n k (l.drop n)

/-- Encode 32 values as a block (R82): the image and the flags. `draw i` is element i's stochastic draw. A sub-block beyond vmax under
an E clamped at 254, for which no micro-shift fits, takes micro-shift 0 (DESIGN CHOICE, log 123). -/
def BlockFmt.encode (f : BlockFmt) (r : Round) (draw : Nat → Nat) (xs : List Num) : List Byte × BitVec 4 :=
  if xs.any (fun x => x.isNaN || x.isInf) then
    (List.replicate (4 * f.width) 0 ++ [0xFF#8] ++ (if f.micro then [0#8] else []),
      flagIf (xs.any (·.isNaN)) flagNI ||| flagIf (xs.any (·.isInf)) flagNV)
  else
    let amax := amaxOf xs
    let raw := if amax.isZero then 0 else 127 + ceilLog amax.mag.1 amax.mag.2 f.vmax
    let e8 : Int := max 0 (min 254 raw)
    let mus := (groupsOf 8 4 xs).map fun sub =>
      let smax := amaxOf sub
      if !f.micro then 0
      else if dyLe smax.mag.1 smax.mag.2 f.vmax (e8 - 127 - 3) then 3
      else if dyLe smax.mag.1 smax.mag.2 f.vmax (e8 - 127 - 2) then 2
      else if dyLe smax.mag.1 smax.mag.2 f.vmax (e8 - 127 - 1) then 1
      else 0
    let els := (List.zip (upFrom 0 32) xs).map fun p =>
      f.encodeElement r (draw p.1) (p.2.scale (127 - e8 + (mus.getD (p.1 / 8) 0 : Nat)))
    let codes := (List.zip (upFrom 0 32) els).foldl (fun a p => a + p.2.1 * 2 ^ (f.width * p.1)) 0
    let muByte := (List.zip (upFrom 0 4) mus).foldl (fun a p => a + p.2 * 4 ^ p.1) 0
    (toBytes (4 * f.width) codes ++ toBytes 1 e8.toNat ++ (if f.micro then toBytes 1 muByte else []),
      flagIf (decide (254 < raw) && els.any (·.2.2)) flagOF ||| flagIf (decide (raw < 0) && els.any (·.2.1)) flagUF)

/-! ## Integer groups (R84) -/

/-- Exact product of values; a zero operand gives +0 where `zeroWins` (R89), else IEEE 754 rules. -/
def Num.mul (zeroWins : Bool) (x y : Num) : Num :=
  if zeroWins && (x.isZero || y.isZero) then .zero
  else
    match x, y with
    | .nan, _ => .nan
    | _, .nan => .nan
    | .inf a, .inf b => .inf (a != b)
    | .inf a, .fin b n _ => if n = 0 then .nan else .inf (a != b)
    | .fin a m _, .inf b => if m = 0 then .nan else .inf (a != b)
    | .fin a m e, .fin b n f => .fin (a != b) (m * n) (e + f)

/-- Exact sum of values; opposite infinities give NaN. A zero sum of opposite signs is -0 only where `down`. -/
def Num.add (down : Bool) (x y : Num) : Num :=
  match x, y with
  | .nan, _ => .nan
  | _, .nan => .nan
  | .inf a, .inf b => if a = b then .inf a else .nan
  | .inf a, .fin .. => .inf a
  | .fin .., .inf b => .inf b
  | .fin a m e, .fin b n f =>
    let e0 := min e f
    let t := (Num.fin a m e).mantAt e0 + (Num.fin b n f).mantAt e0
    if t = 0 then .fin (if a = b then a else down) 0 0 else .fin (decide (t < 0)) t.natAbs e0

/-- Integer formats: element bits and the encoder's limit. -/
structure IntFmt where
  width : Nat
  lim : Nat
deriving DecidableEq, Repr

/-- I8. -/
def fmtI8 : IntFmt := { width := 8, lim := 127 }

/-- I4. -/
def fmtI4 : IntFmt := { width := 4, lim := 7 }

/-- Bytes of a group of 128 with its scale (R84). -/
def IntFmt.size (f : IntFmt) : Nat := 16 * f.width + 2

/-- The integers of a group. -/
def IntFmt.ints (f : IntFmt) (img : List Byte) : List Int :=
  let n := ofBytes (img.take (16 * f.width))
  (upFrom 0 128).map fun i => signedOf f.width (n / 2 ^ (f.width * i) % 2 ^ f.width)

/-- The scale of a group. -/
def IntFmt.scale (f : IntFmt) (img : List Byte) : Num := fmtHF16.decode (ofBytes ((img.drop (16 * f.width)).take 2))

/-- An element of a group: its integer times the scale, exactly; an exact 0 has no sign (DEDUCED, log 103). A 0 of an infinite scale is
a NaN source (DESIGN CHOICE, log 123). -/
def groupElement (scale : Num) (i : Int) : Num :=
  match Num.mul false (Num.ofInt i 0) scale with
  | .fin neg m e => if m = 0 then .zero else .fin neg m e
  | x => x

/-- The 128 values of a group: integer × scale. -/
def IntFmt.decode (f : IntFmt) (img : List Byte) : List Num := (f.ints img).map (groupElement (f.scale img))

/-- Whether an HF16 code's value times `lim` is below a magnitude. -/
def scaleBelow (lim : Nat) (amax : Num) (code : Nat) : Bool :=
  match fmtHF16.decode code with
  | .fin _ m e => !dyLe amax.mag.1 amax.mag.2 (m * lim) e
  | _ => false

/-- The largest HF16 code below 0x7C00 whose value times `lim` is below a magnitude, found bit by bit. -/
def searchScale (lim : Nat) (amax : Num) : Nat → Nat → Nat
  | 0, c => c
  | b + 1, c => searchScale lim amax b (if c + 2 ^ b < 0x7C00 ∧ scaleBelow lim amax (c + 2 ^ b) then c + 2 ^ b else c)

/-- Encode 128 values as a group (R84). Under SR an element clamps exactly where it would under RNE (R97). -/
def IntFmt.encode (f : IntFmt) (r : Round) (draw : Nat → Nat) (xs : List Num) : List Byte × BitVec 4 :=
  if xs.any (fun x => x.isNaN || x.isInf) then
    (List.replicate (16 * f.width) 0 ++ toBytes 2 0x7E00,
      flagIf (xs.any (·.isNaN)) flagNI ||| flagIf (xs.any (·.isInf)) flagNV)
  else
    let amax := amaxOf xs
    let below := searchScale f.lim amax 15 0
    let limited := decide (0x7BFF ≤ below)
    let code := if amax.isZero then 0 else if limited then 0x7BFF else below + 1
    let (sm, se) := (fmtHF16.decode code).mag
    let els := (List.zip (upFrom 0 128) xs).map fun p =>
      match p.2 with
      | .fin neg m e =>
        if sm = 0 then (0, false, false)
        else
          let num := m * 2 ^ (e - se).toNat
          let den := sm * 2 ^ (se - e).toNat
          let (n, inexact) := roundRat r neg (draw p.1) num den
          let big := decide (f.lim < if r = Round.sr then (roundRat .rne neg 0 num den).1 else n)
          let n := min n f.lim
          (unsignedOf f.width (if neg then -(n : Int) else n), inexact && decide (n = 0), big)
      | _ => (0, false, false)
    let codes := (List.zip (upFrom 0 128) els).foldl (fun a p => a + p.2.1 * 2 ^ (f.width * p.1)) 0
    let forced := !dyLe f.lim (-24) amax.mag.1 amax.mag.2 && !amax.isZero
    (toBytes (16 * f.width) codes ++ toBytes 2 code,
      flagIf (limited && els.any (·.2.2)) flagOF ||| flagIf (forced && els.any (·.2.1)) flagUF)

/-! ## Units of the arrays (R89 to R93) -/

/-- Exact sum of a list of values. -/
def sumNums (xs : List Num) : Num := xs.foldl (Num.add false) .zero

/-- A block pair's sum: exact products, zero products +0 (R89, R90). -/
def blockUnit (as bs : List Num) : Num := sumNums (List.zipWith (Num.mul true) as bs)

/-- An integer group pair's unit: the exact integer sum times the exact product of the scales (R91). -/
def intUnit (as bs : List Int) (sa sb : Num) : Num :=
  Num.mul false (Num.ofInt ((List.zipWith (· * ·) as bs).sum) 0) (Num.mul false sa sb)

/-- Floor of log2 of a nonzero finite value, if it is one. -/
def Num.log? : Num → Option Int
  | .fin _ m e => if m = 0 then none else some (log2Of m e)
  | _ => none

/-- The larger of two optional exponents. -/
def maxLog (a : Option Int) (x : Num) : Option Int :=
  match a, x.log? with
  | none, b => b
  | some a, none => some a
  | some a, some b => some (max a b)

/-- The windowed set sum of a BF16 or HF16 group (R92). -/
def windowUnit (as bs : List Num) : Num :=
  let ps := List.zipWith (Num.mul true) as bs
  if ps.any (·.isNaN) then .nan
  else if ps.any (· == .inf true) then (if ps.any (· == .inf false) then .nan else .inf true)
  else if ps.any (· == .inf false) then .inf false
  else
    match ps.foldl maxLog none with
    | none => .zero
    | some emax =>
      let q := emax - 65
      let t := (ps.map fun p =>
        match p with
        | .fin neg m e => (if neg then -1 else 1) * ((roundAt .rne neg 0 m e q).1 : Int)
        | _ => 0).sum
      Num.ofInt t q

/-- The flags of a unit's own value: NI for a NaN that comes from an operand, NV for one that does not. -/
def unitFlags (u : Num) (operandNaN : Bool) : BitVec 4 := if u.isNaN then (if operandNaN then flagNI else flagNV) else 0

/-- A CB block pair's unit with its flags (R90). -/
def blockUnitF (as bs : List Num) : Num × BitVec 4 := (blockUnit as bs, unitFlags (blockUnit as bs) true)

/-- An integer group pair's unit with its flags (R91). -/
def intUnitF (as bs : List Int) (sa sb : Num) : Num × BitVec 4 :=
  (intUnit as bs sa sb, unitFlags (intUnit as bs sa sb) (sa.isNaN || sb.isNaN))

/-- A BF16 or HF16 group's unit with its flags (R92). -/
def windowUnitF (as bs : List Num) : Num × BitVec 4 :=
  (windowUnit as bs, unitFlags (windowUnit as bs) ((List.zipWith (Num.mul true) as bs).any (·.isNaN)))

/-- One combine into W40 (R93): the new code and the flags; `fu` are the unit's own. A NaN on either side is a NaN operand
(DEDUCED, log 103). -/
def combineW40 (acc : Nat) (u : Num) (fu : BitVec 4) : Nat × BitVec 4 :=
  let a := fmtW40.decode acc
  let x := Num.add false a u
  let fl := fu ||| flagIf (a.isNaN || u.isNaN) flagNI ||| flagIf (x.isNaN && !a.isNaN && !u.isNaN) flagNV
  if x.isZero then (0, fl)
  else
    let (c, fr) := fmtW40.round .rne false 0 x
    (if c = 2 ^ 39 then 0 else c, fr ||| fl)

/-! ## Vector arithmetic in F32 (R102) -/

/-- The number of a lane's F32 code. -/
def f32 (w : Nat) : Num := fmtF32.decode w

/-- Round an exact result to F32 with the flags of an operation on the given operands: NI for a NaN operand, NV for a NaN
from operands none of which is NaN (Table 03.8). -/
def finishF32 (r : Round) (draw : Nat) (ops : List Num) (x : Num) : Nat × BitVec 4 :=
  let anyNaN := ops.any (·.isNaN)
  let (c, fl) := fmtF32.round r false draw x
  (c, fl ||| flagIf anyNaN flagNI ||| flagIf (x.isNaN && !anyNaN) flagNV)

/-- x + y. -/
def addF32 (r : Round) (draw : Nat) (x y : Nat) : Nat × BitVec 4 :=
  finishF32 r draw [f32 x, f32 y] (Num.add (r == .rdn) (f32 x) (f32 y))

/-- x − y. -/
def subF32 (r : Round) (draw : Nat) (x y : Nat) : Nat × BitVec 4 :=
  finishF32 r draw [f32 x, f32 y] (Num.add (r == .rdn) (f32 x) (f32 y).neg)

/-- x × y. -/
def mulF32 (r : Round) (draw : Nat) (x y : Nat) : Nat × BitVec 4 :=
  finishF32 r draw [f32 x, f32 y] (Num.mul false (f32 x) (f32 y))

/-- x × y + z, rounded once. -/
def fmaF32 (r : Round) (draw : Nat) (x y z : Nat) : Nat × BitVec 4 :=
  finishF32 r draw [f32 x, f32 y, f32 z] (Num.add (r == .rdn) (Num.mul false (f32 x) (f32 y)) (f32 z))

end Sys2Proof.Machine
end

