-- ==== Sys2Proof/Machine/Layouts.lean ====
section
/-! DEFINITION. The byte layouts of what the host sends and of what flash holds: order descriptors, the call sheet, tokens, firmware
headers and the journal (R335 to R337, R342, R347, R410, R411, R413, Tables 12.1, 12.2, 12.4 and 15.2). -/

namespace Sys2Proof.Machine

/-- The little-endian field of `n` bytes at an offset. -/
def fieldAt (bs : List Byte) (off n : Nat) : Nat := ofBytes ((bs.drop off).take n)

/-- The quadword at an offset. -/
def dwordAt (bs : List Byte) (off : Nat) : DWord := BitVec.ofNat 64 (fieldAt bs off 8)

/-- Whether the `n` bytes at an offset are zero. -/
def zeroAt (bs : List Byte) (off n : Nat) : Bool := decide (fieldAt bs off n = 0)

/-! ## Order descriptors (Table 12.4) -/

/-- The fields of an order descriptor; `reservedOk` and `crcOk` say that its reserved bytes are zero and its CRC matches. -/
structure Descriptor where
  seq : DWord
  opcode : Nat
  plen : Nat
  paddr : DWord
  arg0 : DWord
  arg1 : DWord
  arg2 : DWord
  tag : DWord
  reservedOk : Bool
  crcOk : Bool
deriving DecidableEq, Repr

/-- The descriptor that bytes 0 to 59 and the CRC of bytes 60 to 63 make. -/
def descriptorOf (body : List Byte) (crc : Word) : Descriptor :=
  { seq := dwordAt body 0, opcode := fieldAt body 8 2, plen := fieldAt body 12 4, paddr := dwordAt body 16, arg0 := dwordAt body 24,
    arg1 := dwordAt body 32, arg2 := dwordAt body 40, tag := dwordAt body 48, reservedOk := zeroAt body 10 2 && zeroAt body 56 4,
    crcOk := decide (crc32c (body.take 60) = crc) }

/-- The order that a descriptor places. -/
def Descriptor.order (d : Descriptor) : Order := { seq := d.seq, tag := d.tag }

/-- The opcodes of Table 12.6 and of the chapters that it refers to (Table 14.5). -/
def orderCodes : List Nat := upFrom 0x01 14 ++ upFrom 0x10 4 ++ upFrom 0x18 8 ++ upFrom 0x20 4

/-- Whether a descriptor is of an order that the device knows, formed as R342 asks; a payload lies at a 64-byte aligned address. -/
def Descriptor.formed (d : Descriptor) : Bool :=
  d.crcOk && d.reservedOk && orderCodes.contains d.opcode && (decide (d.plen = 0) || decide (d.paddr.toNat % 64 = 0))

/-! ## The call sheet (Table 12.2) -/

/-- The fields of a call sheet; `crcOk` says that bytes 1,020 to 1,023 are the CRC of the others. -/
def sheetOf (bs : List Byte) : CallSheet :=
  { version := fieldAt bs 0 2, rack := fieldAt bs 2 2, slot := fieldAt bs 4 1, hostRole := BitVec.ofNat 2 (fieldAt bs 5 1),
    dirmap := BitVec.ofNat 2 (fieldAt bs 5 1 / 4), profile := fieldAt bs 6 1, watts := fieldAt bs 8 2,
    dims := (fieldAt bs 10 1, fieldAt bs 11 1, fieldAt bs 12 1), coords := (fieldAt bs 13 1, fieldAt bs 14 1, fieldAt bs 15 1),
    blockLo := fieldAt bs 16 3, blockHi := fieldAt bs 20 3, gateway := fieldAt bs 24 3, proxyMap := dwordAt bs 32,
    interval := fieldAt bs 64 2, trigMask := BitVec.ofNat 5 (fieldAt bs 66 1),
    snap := (upFrom 0 7).map fun k => bitsOf 25 0 (fieldAt bs (68 + 4 * k) 4),
    cabling := (upFrom 0 64).map fun n => BitVec.ofNat 32 (fieldAt bs (128 + 4 * n) 4), generation := fieldAt bs 384 4,
    crcOk := decide (crc32c (bs.take 1020) = BitVec.ofNat 32 (fieldAt bs 1020 4)) }

/-- The reserved bytes of a call sheet, as offset and length. -/
def sheetReserved : List (Nat × Nat) := [(7, 1), (19, 1), (23, 1), (27, 5), (40, 24), (67, 1), (96, 32), (388, 632)]

/-- Whether 1,024 bytes are a call sheet: VERSION 1, reserved bytes zero, and every number within the range that Table 12.2 gives it
(R316, R337). -/
def sheetFormed (bs : List Byte) : Bool :=
  let c := sheetOf bs
  decide (bs.length = 1024) && sheetReserved.all (fun r => zeroAt bs r.1 r.2) && decide (c.version = 1) && decide (c.rack ≤ 4094) &&
  decide (c.slot ≤ 63) && decide (fieldAt bs 5 1 < 16) && decide (c.profile ≤ 1) &&
  decide (c.blockLo < 2 ^ 18) && decide (c.blockHi < 2 ^ 18) && decide (c.gateway < 2 ^ 18) && decide (fieldAt bs 66 1 < 32)

/-- A sheet as flash takes it: GENERATION and the CRC are the device's own (R336). -/
def sheetBytes (bs : List Byte) (generation : Nat) : List Byte :=
  let body := bs.take 384 ++ toBytes 4 generation ++ (bs.drop 388).take 632
  body ++ toBytes 4 (crc32c body).toNat

/-! ## Tokens (R410, R432) -/

/-- The device that a token names. -/
def Token.device (t : Token) : Nat := bitsOf 17 0 (fieldAt t.body 0 3)

/-- SCOPE. -/
def Token.scope (t : Token) : BitVec 8 := BitVec.ofNat 8 (fieldAt t.body 3 1)

/-- The nonce that a token carries. -/
def Token.nonce (t : Token) : DWord := dwordAt t.body 4

/-- Whether a token has its length, and zeros where R410 asks for them. -/
def Token.formed (t : Token) : Bool := decide (t.body.length = 112) && decide (fieldAt t.body 0 3 < 2 ^ 18) && zeroAt t.body 14 2

/-- A token's signature, as R408 judges it. -/
def Token.sig (t : Token) : Sig := { keyIdx := fieldAt t.body 12 2, keyHash := t.keyHash, verifies := t.verifies }

/-! ## Firmware images and the journal (R411, R413, Table 12.1) -/

/-- The bytes of a firmware header that hold fields, as first and last offset; every other one of the 4,096 is 0 (R411). -/
def headerFields : List (Nat × Nat) := [(0, 9), (16, 167)]

/-- The header that an image in flash begins with. -/
def headerOf (m : List Host.Cell) : FwHeader :=
  let h := memRead m 0 24
  { format := fieldAt h 0 2, keyIdx := fieldAt h 2 2, version := BitVec.ofNat 32 (fieldAt h 4 4), secver := fieldAt h 8 1,
    revoke := BitVec.ofNat 8 (fieldAt h 9 1), length := fieldAt h 16 8,
    zeroOk := m.all fun c => decide (4096 ≤ c.1) || headerFields.any fun r => decide (r.1 ≤ c.1) && decide (c.1 ≤ r.2) }

/-- The flash offset of a firmware slot: B, or A. -/
def slotOffset (slotB : Bool) : Nat := if slotB then 0x1810000 else 0x10000

/-- A journal record's 4,096 bytes. -/
def Journal.bytes (j : Journal) : List Byte :=
  let trial := match j.trial with
    | some b => b2n b
    | none => 0xFF
  let body := toBytes 8 j.seq ++ toBytes 1 (b2n j.activeB) ++ toBytes 1 trial ++ toBytes 1 j.trials ++ toBytes 1 j.stage ++
    toBytes 4 j.verA.toNat ++ toBytes 4 j.verB.toNat ++ List.replicate 4072 0
  body ++ toBytes 4 (crc32c body).toNat

end Sys2Proof.Machine
end

