-- ==== Sys2Proof/Config.lean ====
section
/-! DEFINITION. The free values: what the spec leaves open and never fixes. Each is an opaque constant without a body, so no
proof can rest on a value of it. -/

namespace Sys2Proof

/-- The nonce that DBG_NONCE returns (R410): a random number, free (log 8). The argument counts draws. -/
opaque Config.freeNonce : Nat → DWord

/-- Scratch content at a step start, and carried pending content not written in the step (R151, R152): unspecified (log 9). The
arguments are the step's epoch and the flat scratchpad address. -/
opaque Config.scratchByte : Nat → Nat → Byte

/-- Bytes of HBM or scratchpad whose content the spec calls unspecified elsewhere (a stopped fetch, R274; a poisoned unit's
data; log 10). The argument counts draws. -/
opaque Config.freeByte : Nat → Byte

/-- A register word whose value the spec leaves open (log 2). The argument counts draws. -/
opaque Config.freeWord : Nat → Word

/-- The EVENT code of the log record of an F0 notice that Table 13.2 gives no source; the argument is the number of the rule
that calls for the notice (log 14). -/
opaque Config.noticeEvent : Nat → BitVec 8

/-- The DETAIL of the log record of such a notice; the arguments are the rule's number and what the notice is about (log 14). -/
opaque Config.noticeDetail : Nat → Nat → Word

/-- The DETAIL of a fault record that the spec does not lay out beyond "source-specific"; the arguments are the source and
what the record is about (log 18). -/
opaque Config.faultDetail : Nat → Nat → Word

/-- The row of an HBM stack that holds a unit (R264): the spec does not give the stacks' row size. The argument is the unit's
index, its address divided by 32 (log 15). -/
opaque Config.hbmRow : Nat → Nat

/-- A byte of a row that was repaired: open (R264, log 69). The arguments are a draw and the byte's address. -/
opaque Config.repairedByte : Nat → Nat → Byte

/-- What the check bits of a unit of a repaired row say: 0 clean, 1 correctable, else uncorrectable; open (R264, log 69). The arguments are a
draw and the unit. -/
opaque Config.repairedCheck : Nat → Nat → BitVec 2

/-- Whether a unit of a repaired row is poisoned: open (R264, log 69). -/
opaque Config.repairedPoison : Nat → Nat → Bool

/-- The shape of a take's first step (R192 names none): the index is taken modulo the reel's shape count. The argument is the
take tag (log 16). -/
opaque Config.firstShape : Nat → Nat

/-- Where the serving area holds its parts (R234): offsets from its base of the two images (0 and 1) and of the outcome table
(2); the spec gives only the page tables' offset (log 17). -/
opaque Config.areaOffset : Nat → Nat

/-- The cut index that an adoption names, as a follower learns it (R251): the cut message carries the take tag only (log 55). The arguments
are that tag and the message's digest. -/
opaque Config.adoptedCut : Nat → DWord → Nat

/-- What a lane's scrambler is reset to at an ALIGN codeword (R280): open (log 108). The argument is the lane. -/
opaque Config.scramblerReset : Nat → BitVec 58

/-- Byte of the fixed lane pattern of an ALIGN set (Table 10.5): not given (log 108). The argument is the byte's place. -/
opaque Config.alignPattern : Nat → Byte

/-- The cycle, counted from issue, in which the load engine makes its k-th index read or the store engine its k-th read (R140, R163): not
given (log 27). The arguments are the engine's code and k. -/
opaque Config.engineCycle : Nat → Nat → Nat

/-- The cycle, counted from the start of a pass, in which the arrays make the k-th wide read of its streamed rows (R109, Table 05.5): not
given (log 27). -/
opaque Config.streamCycle : Nat → Nat

/-- How many cycles of its slack a weight load that overlaps a longer pass or a fade-in lets pass before it begins (R108, R126): not given
(log 27). The argument is the slack. -/
opaque Config.loadSlack : Nat → Nat

/-- Whether the arrays are done with a number of local cycles that may or may not have passed in a number of ticks: the clocks decide
(log 27). -/
opaque Config.passOver : Nat → Nat → Bool

/-- A byte of landed data whose value the spec leaves open (log 10): the arguments are the address it lands at and its landing tick. -/
opaque Config.poisonByte : Nat → Int → Byte

/-- The latency of TRIG in local cycles, less 1: not given (log 42). -/
opaque Config.trigLatency : Nat

/-- The target of a WAIT whose scalar differs among the cores of the cluster: not given (log 39). -/
opaque Config.mixedScalar : List DWord → DWord

/-- Whether the sieve accesses a bank in a cycle, and whether it writes it there (R203): which access falls on which cycle is not given
(log 43). The arguments are the function's code, the cycle counted from issue, and the bank. -/
opaque Config.sieveAccess : Nat → Nat → Nat → Option Bool

/-- Whether a lost access of the sieve touches an output granule: writes it, or reads what it is made of (R140, R203): not given (log 43).
The arguments are the function's code, the cycle counted from issue, and the granule. -/
opaque Config.sieveLost : Nat → Nat → Nat → Bool

/-- Whether the resumption granted under a fencing epoch follows an admission (R27, R389): the survivors' grant does not say (log 121). -/
opaque Config.admittedUnder : Nat → Bool

/-- SEL of a poisoned row word of PAGES (R214, R215): not given (log 43). The argument is the word. -/
opaque Config.poisonedSel : Nat → Nat

/-- Byte of the dense image that an array makes of a 2:4 image with a repeated or descending index (R122): the outputs are poisoned,
and their values open (log 104). The arguments are the image, as a number, and the byte's place. -/
opaque Config.repeatedIndex : Nat → Nat → Byte

end Sys2Proof
end

