-- ==== Sys2Proof/Machine/Registers.lean ====
section
/-! DEFINITION. The register map of BAR0 (R439 and the register tables of every chapter): offsets, fields, access codes,
write limits and reset values. -/

namespace Sys2Proof.Machine

/-- Access codes (R13). No register of the tables has WOS. -/
inductive Access where
  | ro | rw | w1c | w1s | rc | wo
deriving DecidableEq, Repr

/-- When a field may be written: always, outside a take, not while fetching (R279), while the checker may be enabled
(R197), as R75 limits it, or as LK_CTRL.EN is limited (Table 10.12). -/
inductive Limit where
  | free | outside | notFetching | checker | trigger | linkEnable
deriving DecidableEq, Repr

/-- A field of one 32-bit word. -/
structure FieldSpec where
  hi : Nat
  lo : Nat
  acc : Access
  lim : Limit
deriving DecidableEq, Repr

/-- A row of a block: a word at `off`, repeated `count` times at `stride`; `high` is how many words of the same quantity
lie below it (R12). -/
structure RegRow where
  off : Nat
  stride : Nat
  count : Nat
  reset : Word
  words : Nat
  high : Nat
  fields : List FieldSpec
deriving DecidableEq, Repr

/-- The register blocks of Table 16.1; the front-page blocks of a cluster, and the HI_PX slots, are blocks of their own. -/
inductive Block where
  | ident | tb | seq | slot | hm | lk | sv | fe | hi | px | fc | cn | pw | sc | dd
deriving DecidableEq, Repr

/-- A field of a register: the BAR0 offset of its lowest word, and its bits counted over the whole quantity. -/
structure Fld where
  off : Nat
  hi : Nat
  lo : Nat
deriving DecidableEq, Repr

/-- Register rows of the ident block, part 1. -/
def identRows1 : List RegRow := [
  ⟨0x0, 4, 1, 0xC7AD0B06, 1, 0, [⟨31, 16, .ro, .free⟩, ⟨15, 8, .ro, .free⟩, ⟨7, 0, .ro, .free⟩]⟩,
  ⟨0x4, 4, 1, 0x11428, 1, 0, [⟨23, 16, .ro, .free⟩, ⟨15, 8, .ro, .free⟩, ⟨5, 0, .ro, .free⟩]⟩]

/-- Register rows of the tb block, part 1. -/
def tbRows1 : List RegRow := [
  ⟨0x0, 4, 1, 0x0, 2, 0, [⟨31, 0, .ro, .free⟩]⟩,
  ⟨0x4, 4, 1, 0x0, 2, 1, [⟨31, 0, .ro, .free⟩]⟩,
  ⟨0x8, 4, 1, 0x0, 2, 0, [⟨31, 0, .ro, .free⟩]⟩,
  ⟨0xC, 4, 1, 0x0, 2, 1, [⟨31, 0, .ro, .free⟩]⟩,
  ⟨0x10, 4, 1, 0x0, 2, 0, [⟨31, 0, .ro, .free⟩]⟩,
  ⟨0x14, 4, 1, 0x0, 2, 1, [⟨31, 0, .ro, .free⟩]⟩,
  ⟨0x18, 4, 1, 0x800, 1, 0, [⟨15, 12, .ro, .free⟩, ⟨11, 11, .ro, .free⟩, ⟨10, 10, .w1c, .free⟩, ⟨9, 9, .ro, .free⟩, ⟨8, 8, .ro, .free⟩, ⟨7, 7, .ro, .free⟩, ⟨6, 6, .ro, .free⟩]⟩,
  ⟨0x1C, 4, 1, 0x0, 1, 0, [⟨1, 0, .rw, .outside⟩]⟩,
  ⟨0x20, 4, 1, 0x0, 2, 0, [⟨31, 0, .wo, .outside⟩]⟩,
  ⟨0x24, 4, 1, 0x0, 2, 1, [⟨31, 0, .wo, .outside⟩]⟩,
  ⟨0x28, 4, 1, 0x0, 1, 0, [⟨31, 16, .rc, .free⟩, ⟨15, 0, .ro, .free⟩]⟩,
  ⟨0x2C, 4, 1, 0x0, 1, 0, [⟨31, 0, .ro, .free⟩]⟩]

/-- Register rows of the tb block, part 2. -/
def tbRows2 : List RegRow := [
  ⟨0x30, 4, 1, 0x0, 1, 0, [⟨23, 16, .rw, .outside⟩, ⟨13, 8, .rw, .outside⟩, ⟨1, 1, .rw, .outside⟩, ⟨0, 0, .rw, .outside⟩]⟩,
  ⟨0x34, 4, 1, 0x800258, 1, 0, [⟨27, 16, .rw, .outside⟩, ⟨15, 0, .rw, .outside⟩]⟩,
  ⟨0x38, 4, 1, 0x600, 1, 0, [⟨15, 0, .rw, .outside⟩]⟩,
  ⟨0x3C, 4, 1, 0x1008, 1, 0, [⟨15, 8, .rw, .outside⟩, ⟨7, 0, .rw, .outside⟩]⟩,
  ⟨0x40, 4, 1, 0x0, 1, 0, [⟨31, 28, .ro, .free⟩, ⟨27, 20, .ro, .free⟩, ⟨19, 0, .ro, .free⟩]⟩,
  ⟨0x44, 4, 1, 0x0, 1, 0, [⟨8, 8, .w1c, .free⟩, ⟨6, 1, .w1c, .free⟩]⟩,
  ⟨0x48, 4, 1, 0x0, 1, 0, [⟨31, 0, .rc, .free⟩]⟩,
  ⟨0x4C, 4, 1, 0x0, 1, 0, [⟨31, 0, .rc, .free⟩]⟩,
  ⟨0x50, 4, 1, 0x0, 1, 0, [⟨23, 16, .rw, .free⟩, ⟨15, 13, .rw, .free⟩, ⟨11, 9, .rw, .free⟩, ⟨7, 5, .rw, .free⟩, ⟨3, 1, .rw, .free⟩]⟩,
  ⟨0x54, 4, 1, 0x0, 1, 0, [⟨11, 8, .ro, .free⟩, ⟨7, 4, .w1c, .trigger⟩, ⟨3, 0, .w1c, .trigger⟩]⟩,
  ⟨0x58, 8, 4, 0x0, 2, 0, [⟨31, 0, .ro, .free⟩]⟩,
  ⟨0x5C, 8, 4, 0x0, 2, 1, [⟨31, 0, .ro, .free⟩]⟩]

/-- Register rows of the tb block, part 3. -/
def tbRows3 : List RegRow := [
  ⟨0x78, 4, 1, 0x1, 1, 0, [⟨23, 8, .rw, .outside⟩, ⟨1, 1, .rw, .free⟩, ⟨0, 0, .rw, .free⟩]⟩,
  ⟨0x7C, 4, 1, 0x0, 1, 0, [⟨31, 31, .ro, .free⟩, ⟨23, 18, .ro, .free⟩, ⟨17, 16, .ro, .free⟩, ⟨15, 0, .ro, .free⟩]⟩,
  ⟨0x100, 4, 16, 0x0, 1, 0, [⟨15, 0, .ro, .free⟩]⟩,
  ⟨0x200, 4, 64, 0x0, 1, 0, [⟨31, 31, .ro, .free⟩, ⟨15, 0, .ro, .free⟩]⟩]

/-- Register rows of the seq block, part 1. -/
def seqRows1 : List RegRow := [
  ⟨0x0, 4, 1, 0x0, 1, 0, [⟨31, 31, .ro, .free⟩, ⟨27, 24, .ro, .free⟩, ⟨23, 16, .ro, .free⟩, ⟨15, 8, .rc, .free⟩]⟩,
  ⟨0x4, 4, 1, 0x0, 1, 0, [⟨17, 0, .ro, .free⟩]⟩,
  ⟨0x8, 4, 1, 0x0, 2, 0, [⟨31, 0, .ro, .free⟩]⟩,
  ⟨0xC, 4, 1, 0x0, 2, 1, [⟨31, 0, .ro, .free⟩]⟩,
  ⟨0x10, 4, 1, 0x0, 1, 0, [⟨31, 26, .ro, .free⟩, ⟨23, 8, .ro, .free⟩, ⟨1, 1, .ro, .free⟩, ⟨0, 0, .ro, .free⟩]⟩,
  ⟨0x14, 4, 1, 0x0, 1, 0, [⟨17, 0, .ro, .free⟩]⟩,
  ⟨0x18, 4, 1, 0x0, 1, 0, [⟨31, 19, .rc, .free⟩, ⟨18, 0, .ro, .free⟩]⟩,
  ⟨0x1C, 4, 1, 0x0, 1, 0, [⟨31, 31, .rw, .checker⟩, ⟨15, 0, .rw, .outside⟩]⟩,
  ⟨0x20, 4, 1, 0x0, 1, 0, [⟨31, 31, .ro, .free⟩, ⟨5, 0, .ro, .free⟩]⟩,
  ⟨0x4000, 4, 2048, 0x0, 1, 0, [⟨31, 0, .ro, .free⟩]⟩]

/-- Register rows of the slot block, part 1. -/
def slotRows1 : List RegRow := [
  ⟨0x0, 4, 1, 0x0, 1, 0, [⟨15, 15, .ro, .free⟩, ⟨14, 14, .ro, .free⟩, ⟨11, 8, .ro, .free⟩, ⟨3, 0, .ro, .free⟩]⟩,
  ⟨0x4, 4, 1, 0x0, 1, 0, [⟨3, 3, .w1c, .outside⟩, ⟨2, 2, .w1c, .outside⟩, ⟨1, 1, .w1c, .outside⟩, ⟨0, 0, .w1c, .outside⟩]⟩,
  ⟨0x8, 4, 1, 0x0, 1, 0, [⟨3, 0, .rw, .outside⟩]⟩,
  ⟨0xC, 4, 1, 0x0, 1, 0, [⟨31, 0, .rc, .free⟩]⟩,
  ⟨0x10, 4, 1, 0x0, 1, 0, [⟨31, 0, .rc, .free⟩]⟩,
  ⟨0x14, 4, 1, 0x0, 1, 0, [⟨31, 31, .w1c, .free⟩, ⟨21, 0, .ro, .free⟩]⟩,
  ⟨0x18, 4, 1, 0x0, 1, 0, [⟨31, 0, .rc, .free⟩]⟩,
  ⟨0x1C, 4, 1, 0x40, 1, 0, [⟨15, 0, .rw, .free⟩]⟩,
  ⟨0x20, 4, 1, 0x0, 1, 0, [⟨31, 31, .w1c, .free⟩, ⟨21, 16, .ro, .free⟩, ⟨15, 0, .rc, .free⟩]⟩,
  ⟨0x24, 4, 1, 0x0, 1, 0, [⟨31, 31, .w1c, .free⟩, ⟨30, 27, .ro, .free⟩, ⟨26, 23, .ro, .free⟩, ⟨21, 16, .ro, .free⟩]⟩,
  ⟨0x28, 4, 1, 0x0, 1, 0, [⟨0, 0, .ro, .free⟩]⟩,
  ⟨0x2C, 4, 1, 0x0, 1, 0, [⟨25, 16, .rc, .free⟩, ⟨12, 0, .rc, .free⟩]⟩]

/-- Register rows of the slot block, part 2. -/
def slotRows2 : List RegRow := [
  ⟨0x30, 4, 1, 0x0, 1, 0, [⟨31, 16, .rc, .free⟩, ⟨15, 0, .rc, .free⟩]⟩,
  ⟨0x34, 4, 1, 0x2, 1, 0, [⟨1, 1, .ro, .free⟩, ⟨0, 0, .ro, .free⟩]⟩,
  ⟨0x38, 4, 1, 0x0, 1, 0, [⟨12, 0, .ro, .free⟩]⟩,
  ⟨0x100, 4, 16, 0x0, 1, 0, [⟨31, 30, .rw, .outside⟩, ⟨25, 13, .rw, .outside⟩, ⟨12, 0, .rw, .outside⟩]⟩,
  ⟨0x3C, 4, 1, 0x0, 1, 0, [⟨31, 0, .rc, .free⟩]⟩]

/-- Register rows of the hm block, part 1. -/
def hmRows1 : List RegRow := [
  ⟨0x0, 4, 1, 0x0, 1, 0, [⟨31, 24, .ro, .free⟩, ⟨3, 3, .w1c, .free⟩, ⟨2, 2, .ro, .free⟩, ⟨1, 1, .ro, .free⟩, ⟨0, 0, .ro, .free⟩]⟩,
  ⟨0x4, 4, 1, 0x0, 1, 0, [⟨31, 0, .rc, .free⟩]⟩,
  ⟨0x8, 4, 1, 0x0, 1, 0, [⟨31, 0, .rc, .free⟩]⟩,
  ⟨0x10, 4, 1, 0x0, 2, 0, [⟨31, 5, .ro, .free⟩]⟩,
  ⟨0x14, 4, 1, 0x0, 2, 1, [⟨31, 31, .w1c, .free⟩, ⟨6, 0, .ro, .free⟩]⟩,
  ⟨0x18, 4, 1, 0x0, 1, 0, [⟨29, 20, .ro, .free⟩, ⟨19, 10, .ro, .free⟩, ⟨9, 0, .ro, .free⟩]⟩,
  ⟨0x1C, 4, 1, 0x8CA, 1, 0, [⟨27, 16, .rc, .free⟩, ⟨11, 0, .rw, .outside⟩]⟩,
  ⟨0x20, 4, 1, 0x18, 1, 0, [⟨31, 16, .rc, .free⟩, ⟨7, 0, .rw, .free⟩]⟩,
  ⟨0x24, 4, 1, 0x2, 1, 0, [⟨1, 1, .ro, .free⟩, ⟨0, 0, .ro, .free⟩]⟩]

/-- Register rows of the lk block, part 1. -/
def lkRows1 : List RegRow := [
  ⟨0x0, 4, 1, 0xF01, 1, 0, [⟨11, 8, .rw, .outside⟩, ⟨3, 3, .w1s, .free⟩, ⟨2, 2, .w1s, .free⟩, ⟨1, 1, .w1s, .free⟩, ⟨0, 0, .rw, .linkEnable⟩]⟩,
  ⟨0x4, 4, 1, 0x10000000, 1, 0, [⟨31, 28, .ro, .free⟩, ⟨27, 24, .ro, .free⟩, ⟨23, 23, .ro, .free⟩, ⟨22, 22, .ro, .free⟩, ⟨21, 21, .ro, .free⟩, ⟨20, 20, .w1c, .free⟩]⟩,
  ⟨0x8, 4, 1, 0x0, 1, 0, [⟨23, 18, .ro, .free⟩, ⟨17, 0, .ro, .free⟩]⟩,
  ⟨0xC, 4, 1, 0x0, 1, 0, [⟨13, 10, .ro, .free⟩, ⟨9, 8, .ro, .free⟩, ⟨7, 0, .ro, .free⟩]⟩,
  ⟨0x10, 4, 1, 0x88000000, 1, 0, [⟨31, 29, .rw, .outside⟩, ⟨28, 27, .rw, .outside⟩, ⟨24, 24, .rw, .outside⟩, ⟨7, 0, .rw, .outside⟩]⟩,
  ⟨0x14, 4, 1, 0x304800, 1, 0, [⟨31, 24, .rw, .free⟩, ⟨23, 16, .rw, .outside⟩, ⟨15, 12, .rw, .outside⟩, ⟨11, 8, .rw, .outside⟩]⟩,
  ⟨0x18, 4, 1, 0x0, 1, 0, [⟨15, 0, .ro, .free⟩]⟩,
  ⟨0x1C, 4, 1, 0x1000, 1, 0, [⟨15, 0, .rw, .free⟩]⟩,
  ⟨0x50, 4, 1, 0x0, 1, 0, [⟨25, 16, .ro, .free⟩, ⟨15, 8, .ro, .free⟩, ⟨7, 0, .ro, .free⟩]⟩,
  ⟨0x54, 4, 1, 0x0, 1, 0, [⟨7, 0, .rc, .free⟩]⟩,
  ⟨0x60, 4, 4, 0x0, 1, 0, [⟨31, 0, .rc, .free⟩]⟩,
  ⟨0x80, 4, 1, 0x0, 1, 0, [⟨31, 28, .ro, .free⟩, ⟨27, 26, .ro, .free⟩, ⟨23, 18, .ro, .free⟩, ⟨17, 0, .ro, .free⟩]⟩]

/-- Register rows of the lk block, part 2. -/
def lkRows2 : List RegRow := [
  ⟨0x84, 4, 1, 0x0, 1, 0, [⟨31, 0, .rc, .free⟩]⟩,
  ⟨0x88, 4, 1, 0x0, 1, 0, [⟨31, 0, .rc, .free⟩]⟩,
  ⟨0x20, 4, 1, 0x0, 1, 0, [⟨31, 0, .rc, .free⟩]⟩,
  ⟨0x24, 4, 1, 0x0, 1, 0, [⟨31, 0, .rc, .free⟩]⟩,
  ⟨0x28, 4, 1, 0x0, 1, 0, [⟨31, 0, .rc, .free⟩]⟩,
  ⟨0x2C, 4, 1, 0x0, 1, 0, [⟨31, 0, .rc, .free⟩]⟩,
  ⟨0x30, 4, 1, 0x0, 1, 0, [⟨31, 0, .rc, .free⟩]⟩,
  ⟨0x34, 4, 1, 0x0, 1, 0, [⟨31, 0, .rc, .free⟩]⟩,
  ⟨0x38, 4, 1, 0x0, 1, 0, [⟨31, 0, .rc, .free⟩]⟩,
  ⟨0x3C, 4, 1, 0x0, 1, 0, [⟨31, 0, .rc, .free⟩]⟩,
  ⟨0x40, 4, 1, 0x0, 1, 0, [⟨31, 0, .rc, .free⟩]⟩,
  ⟨0x44, 4, 1, 0x0, 1, 0, [⟨31, 0, .rc, .free⟩]⟩]

/-- Register rows of the lk block, part 3. -/
def lkRows3 : List RegRow := [
  ⟨0x48, 4, 1, 0x0, 1, 0, [⟨31, 0, .rc, .free⟩]⟩]

/-- Register rows of the sv block, part 1. -/
def svRows1 : List RegRow := [
  ⟨0x0, 4, 1, 0x1000, 1, 0, [⟨17, 16, .rw, .outside⟩, ⟨12, 0, .rw, .outside⟩]⟩,
  ⟨0x4, 4, 1, 0x0, 1, 0, [⟨31, 16, .rw, .outside⟩, ⟨15, 0, .rw, .outside⟩]⟩,
  ⟨0x8, 4, 1, 0x0, 1, 0, [⟨31, 24, .rc, .free⟩, ⟨8, 8, .w1c, .free⟩, ⟨7, 7, .w1c, .free⟩, ⟨6, 6, .w1c, .free⟩, ⟨5, 5, .w1c, .free⟩, ⟨1, 0, .ro, .free⟩]⟩,
  ⟨0xC, 4, 1, 0x0, 1, 0, [⟨31, 26, .ro, .free⟩, ⟨25, 25, .ro, .free⟩, ⟨10, 0, .ro, .free⟩]⟩,
  ⟨0x10, 4, 1, 0x0, 2, 0, [⟨31, 0, .rw, .outside⟩]⟩,
  ⟨0x14, 4, 1, 0x0, 2, 1, [⟨31, 0, .rw, .outside⟩]⟩,
  ⟨0x18, 4, 1, 0x0, 2, 0, [⟨31, 0, .rw, .outside⟩]⟩,
  ⟨0x1C, 4, 1, 0x0, 2, 1, [⟨31, 0, .rw, .outside⟩]⟩,
  ⟨0x20, 4, 1, 0x0, 1, 0, [⟨31, 0, .rw, .outside⟩]⟩,
  ⟨0x24, 4, 1, 0x0, 1, 0, [⟨23, 0, .rw, .outside⟩]⟩,
  ⟨0x28, 4, 1, 0x0, 1, 0, [⟨23, 0, .ro, .free⟩]⟩,
  ⟨0x2C, 4, 1, 0x0, 1, 0, [⟨13, 8, .rw, .outside⟩, ⟨5, 0, .rw, .outside⟩]⟩]

/-- Register rows of the sv block, part 2. -/
def svRows2 : List RegRow := [
  ⟨0x30, 4, 1, 0x7FFF, 1, 0, [⟨30, 16, .rw, .outside⟩, ⟨14, 0, .rw, .outside⟩]⟩,
  ⟨0x34, 4, 1, 0x3FFF, 1, 0, [⟨29, 16, .rw, .outside⟩, ⟨13, 0, .rw, .outside⟩]⟩,
  ⟨0x38, 4, 1, 0x4000000, 1, 0, [⟨31, 31, .rw, .outside⟩, ⟨27, 24, .rw, .outside⟩, ⟨17, 0, .rw, .outside⟩]⟩,
  ⟨0x3C, 4, 1, 0x0, 1, 0, [⟨31, 31, .ro, .free⟩, ⟨3, 0, .ro, .free⟩]⟩,
  ⟨0x40, 4, 1, 0x0, 2, 0, [⟨31, 0, .ro, .free⟩]⟩,
  ⟨0x44, 4, 1, 0x0, 2, 1, [⟨31, 0, .ro, .free⟩]⟩,
  ⟨0x48, 4, 1, 0x0, 2, 0, [⟨31, 0, .ro, .free⟩]⟩,
  ⟨0x4C, 4, 1, 0x0, 2, 1, [⟨31, 0, .ro, .free⟩]⟩,
  ⟨0x50, 4, 1, 0x0, 2, 0, [⟨31, 0, .ro, .free⟩]⟩,
  ⟨0x54, 4, 1, 0x0, 2, 1, [⟨31, 0, .ro, .free⟩]⟩,
  ⟨0x58, 4, 1, 0x0, 1, 0, [⟨31, 0, .rc, .free⟩]⟩,
  ⟨0x5C, 4, 1, 0x0, 1, 0, [⟨31, 0, .rc, .free⟩]⟩]

/-- Register rows of the sv block, part 3. -/
def svRows3 : List RegRow := [
  ⟨0x60, 4, 1, 0x0, 1, 0, [⟨31, 0, .rc, .free⟩]⟩,
  ⟨0x64, 4, 1, 0x0, 1, 0, [⟨14, 0, .rw, .free⟩]⟩,
  ⟨0x68, 4, 1, 0x0, 1, 0, [⟨31, 29, .ro, .free⟩, ⟨28, 28, .ro, .free⟩, ⟨13, 0, .ro, .free⟩]⟩,
  ⟨0x6C, 4, 1, 0x0, 1, 0, [⟨31, 0, .ro, .free⟩]⟩]

/-- Register rows of the fe block, part 1. -/
def feRows1 : List RegRow := [
  ⟨0x0, 4, 1, 0x0, 1, 0, [⟨15, 8, .ro, .free⟩, ⟨7, 0, .ro, .free⟩]⟩,
  ⟨0x4, 4, 1, 0x0, 1, 0, [⟨31, 28, .ro, .free⟩, ⟨27, 24, .ro, .free⟩]⟩,
  ⟨0x8, 4, 1, 0x0, 1, 0, [⟨17, 0, .ro, .free⟩]⟩,
  ⟨0xC, 4, 1, 0x0, 1, 0, [⟨17, 0, .ro, .free⟩]⟩,
  ⟨0x10, 4, 1, 0x0, 1, 0, [⟨31, 31, .w1c, .free⟩, ⟨17, 0, .ro, .free⟩]⟩,
  ⟨0x14, 4, 1, 0x320, 1, 0, [⟨16, 16, .rw, .notFetching⟩, ⟨11, 8, .rw, .notFetching⟩, ⟨6, 0, .rw, .notFetching⟩]⟩,
  ⟨0x18, 4, 1, 0x0, 1, 0, [⟨31, 0, .rc, .free⟩]⟩,
  ⟨0x20, 4, 8, 0x0, 1, 0, [⟨31, 0, .ro, .free⟩]⟩,
  ⟨0x40, 4, 1, 0x0, 1, 0, [⟨15, 8, .rw, .outside⟩, ⟨5, 4, .rw, .outside⟩, ⟨3, 2, .rw, .outside⟩, ⟨0, 0, .rw, .outside⟩]⟩,
  ⟨0x44, 4, 1, 0x0, 1, 0, [⟨6, 6, .ro, .free⟩, ⟨3, 0, .ro, .free⟩]⟩,
  ⟨0x48, 4, 1, 0x0, 1, 0, [⟨31, 0, .ro, .free⟩]⟩,
  ⟨0x4C, 4, 1, 0x0, 1, 0, [⟨31, 31, .ro, .free⟩, ⟨15, 0, .ro, .free⟩]⟩]

/-- Register rows of the fe block, part 2. -/
def feRows2 : List RegRow := [
  ⟨0x50, 4, 1, 0x0, 2, 0, [⟨31, 0, .ro, .free⟩]⟩,
  ⟨0x54, 4, 1, 0x0, 2, 1, [⟨31, 0, .ro, .free⟩]⟩,
  ⟨0x58, 4, 1, 0x0, 1, 0, [⟨31, 0, .rc, .free⟩]⟩]

/-- Register rows of the hi block, part 1. -/
def hiRows1 : List RegRow := [
  ⟨0x0, 4, 1, 0x1, 1, 0, [⟨19, 18, .ro, .free⟩, ⟨17, 16, .ro, .free⟩, ⟨15, 15, .ro, .free⟩, ⟨14, 14, .ro, .free⟩, ⟨13, 13, .ro, .free⟩, ⟨12, 12, .w1c, .free⟩, ⟨3, 0, .ro, .free⟩]⟩,
  ⟨0x4, 4, 1, 0x0, 1, 0, [⟨0, 0, .rw, .free⟩]⟩,
  ⟨0x8, 4, 1, 0x1, 2, 0, [⟨31, 0, .ro, .free⟩]⟩,
  ⟨0xC, 4, 1, 0x0, 2, 1, [⟨31, 0, .ro, .free⟩]⟩,
  ⟨0x24, 4, 1, 0x0, 1, 0, [⟨31, 31, .ro, .free⟩, ⟨23, 8, .ro, .free⟩, ⟨7, 0, .ro, .free⟩]⟩,
  ⟨0x28, 4, 1, 0x0, 1, 0, [⟨20, 20, .ro, .free⟩, ⟨19, 16, .ro, .free⟩, ⟨15, 0, .ro, .free⟩]⟩,
  ⟨0x30, 4, 1, 0x0, 2, 0, [⟨31, 0, .ro, .free⟩]⟩,
  ⟨0x34, 4, 1, 0x0, 2, 1, [⟨31, 0, .ro, .free⟩]⟩,
  ⟨0x38, 4, 1, 0x0, 2, 0, [⟨31, 0, .ro, .free⟩]⟩,
  ⟨0x3C, 4, 1, 0x0, 2, 1, [⟨31, 0, .ro, .free⟩]⟩,
  ⟨0x40, 4, 1, 0x0, 1, 0, [⟨23, 16, .ro, .free⟩, ⟨15, 0, .rc, .free⟩]⟩,
  ⟨0x80, 4, 12, 0x0, 1, 0, [⟨31, 0, .ro, .free⟩]⟩]

/-- Register rows of the hi block, part 2. -/
def hiRows2 : List RegRow := [
  ⟨0xC0, 4, 12, 0x0, 1, 0, [⟨31, 0, .ro, .free⟩]⟩,
  ⟨0x10, 4, 1, 0x0, 1, 0, [⟨31, 0, .rc, .free⟩]⟩,
  ⟨0x14, 4, 1, 0x0, 1, 0, [⟨31, 0, .rc, .free⟩]⟩,
  ⟨0x18, 4, 1, 0x0, 1, 0, [⟨31, 0, .rc, .free⟩]⟩,
  ⟨0x1C, 4, 1, 0x0, 1, 0, [⟨31, 0, .rc, .free⟩]⟩,
  ⟨0x20, 4, 1, 0x0, 1, 0, [⟨31, 0, .rc, .free⟩]⟩]

/-- Register rows of the px block, part 1. -/
def pxRows1 : List RegRow := [
  ⟨0x0, 4, 1, 0x0, 1, 0, [⟨31, 31, .ro, .free⟩, ⟨30, 30, .ro, .free⟩, ⟨17, 0, .ro, .free⟩]⟩,
  ⟨0x4, 4, 1, 0x0, 1, 0, [⟨31, 21, .rw, .free⟩, ⟨20, 10, .rw, .free⟩, ⟨9, 5, .rw, .free⟩, ⟨4, 0, .rw, .free⟩]⟩,
  ⟨0x8, 4, 1, 0x0, 2, 0, [⟨31, 0, .rw, .free⟩]⟩,
  ⟨0xC, 4, 1, 0x0, 2, 1, [⟨31, 0, .rw, .free⟩]⟩,
  ⟨0x10, 4, 1, 0x0, 2, 0, [⟨31, 0, .rw, .free⟩]⟩,
  ⟨0x14, 4, 1, 0x0, 2, 1, [⟨31, 0, .rw, .free⟩]⟩,
  ⟨0x18, 4, 1, 0x0, 2, 0, [⟨31, 0, .rw, .free⟩]⟩,
  ⟨0x1C, 4, 1, 0x0, 2, 1, [⟨31, 0, .rw, .free⟩]⟩,
  ⟨0x20, 4, 1, 0x0, 2, 0, [⟨31, 0, .rw, .free⟩]⟩,
  ⟨0x24, 4, 1, 0x0, 2, 1, [⟨31, 0, .rw, .free⟩]⟩]

/-- Register rows of the fc block, part 1. -/
def fcRows1 : List RegRow := [
  ⟨0x0, 4, 1, 0x0, 1, 0, [⟨31, 29, .ro, .free⟩, ⟨28, 26, .ro, .free⟩, ⟨23, 16, .ro, .free⟩, ⟨15, 8, .ro, .free⟩, ⟨2, 2, .w1c, .free⟩, ⟨1, 1, .ro, .free⟩, ⟨0, 0, .ro, .free⟩]⟩,
  ⟨0x4, 4, 1, 0x20100, 1, 0, [⟨19, 16, .rw, .outside⟩, ⟨10, 0, .rw, .outside⟩]⟩,
  ⟨0x8, 4, 1, 0x0, 2, 0, [⟨31, 0, .ro, .free⟩]⟩,
  ⟨0xC, 4, 1, 0x0, 2, 1, [⟨31, 0, .ro, .free⟩]⟩,
  ⟨0x10, 4, 1, 0x0, 2, 0, [⟨31, 0, .ro, .free⟩]⟩,
  ⟨0x14, 4, 1, 0x0, 2, 1, [⟨31, 0, .ro, .free⟩]⟩,
  ⟨0x18, 4, 5, 0x0, 1, 0, [⟨31, 0, .rc, .free⟩]⟩,
  ⟨0x30, 4, 1, 0x0, 4, 0, [⟨31, 31, .ro, .free⟩, ⟨30, 28, .ro, .free⟩, ⟨23, 16, .ro, .free⟩, ⟨15, 14, .ro, .free⟩, ⟨13, 0, .ro, .free⟩]⟩,
  ⟨0x34, 4, 1, 0x0, 4, 1, [⟨31, 0, .ro, .free⟩]⟩,
  ⟨0x38, 4, 1, 0x0, 4, 2, [⟨31, 0, .ro, .free⟩]⟩,
  ⟨0x3C, 4, 1, 0x0, 4, 3, [⟨31, 0, .ro, .free⟩]⟩,
  ⟨0x40, 4, 1, 0x0, 4, 0, [⟨31, 31, .w1c, .free⟩, ⟨30, 28, .ro, .free⟩, ⟨23, 16, .ro, .free⟩, ⟨15, 14, .ro, .free⟩, ⟨13, 0, .ro, .free⟩]⟩]

/-- Register rows of the fc block, part 2. -/
def fcRows2 : List RegRow := [
  ⟨0x44, 4, 1, 0x0, 4, 1, [⟨31, 0, .ro, .free⟩]⟩,
  ⟨0x48, 4, 1, 0x0, 4, 2, [⟨31, 0, .ro, .free⟩]⟩,
  ⟨0x4C, 4, 1, 0x0, 4, 3, [⟨31, 0, .ro, .free⟩]⟩,
  ⟨0x50, 4, 1, 0x0, 1, 0, [⟨31, 28, .ro, .free⟩, ⟨27, 20, .ro, .free⟩, ⟨19, 12, .ro, .free⟩, ⟨11, 8, .ro, .free⟩, ⟨7, 0, .ro, .free⟩]⟩,
  ⟨0x54, 4, 1, 0x0, 1, 0, [⟨15, 0, .ro, .free⟩]⟩,
  ⟨0x5C, 4, 1, 0x0, 1, 0, [⟨15, 0, .ro, .free⟩]⟩,
  ⟨0x58, 4, 1, 0x0, 1, 0, [⟨31, 28, .ro, .free⟩, ⟨25, 18, .ro, .free⟩, ⟨17, 0, .ro, .free⟩]⟩]

/-- Register rows of the cn block, part 1. -/
def cnRows1 : List RegRow := [
  ⟨0x0, 4, 1, 0x0, 1, 0, [⟨23, 8, .ro, .free⟩, ⟨7, 7, .ro, .free⟩, ⟨4, 0, .rw, .free⟩]⟩,
  ⟨0x10, 4, 7, 0x0, 1, 0, [⟨25, 0, .rw, .free⟩]⟩,
  ⟨0x40, 4, 2, 0x0, 1, 0, [⟨31, 0, .ro, .free⟩]⟩,
  ⟨0x48, 4, 1, 0x0, 1, 0, [⟨31, 0, .rc, .free⟩]⟩,
  ⟨0x4C, 4, 1, 0x0, 1, 0, [⟨31, 0, .ro, .free⟩]⟩,
  ⟨0x50, 4, 1, 0x0, 1, 0, [⟨31, 30, .ro, .free⟩, ⟨29, 29, .w1c, .free⟩, ⟨19, 0, .ro, .free⟩]⟩,
  ⟨0x54, 4, 1, 0x0, 1, 0, [⟨31, 0, .rw, .free⟩]⟩,
  ⟨0x58, 4, 1, 0x0, 1, 0, [⟨31, 0, .rc, .free⟩]⟩,
  ⟨0x5C, 4, 1, 0x0, 1, 0, [⟨31, 0, .rc, .free⟩]⟩]

/-- Register rows of the pw block, part 1. -/
def pwRows1 : List RegRow := [
  ⟨0x0, 4, 1, 0x4B0, 1, 0, [⟨11, 0, .rw, .outside⟩]⟩,
  ⟨0x4, 4, 1, 0x0, 1, 0, [⟨31, 16, .rc, .free⟩, ⟨15, 0, .ro, .free⟩]⟩,
  ⟨0x8, 4, 1, 0x0, 1, 0, [⟨3, 3, .ro, .free⟩, ⟨2, 2, .w1c, .free⟩, ⟨1, 1, .w1c, .free⟩, ⟨0, 0, .ro, .free⟩]⟩,
  ⟨0xC, 4, 1, 0xD02, 1, 0, [⟨15, 8, .rw, .outside⟩, ⟨7, 0, .rw, .outside⟩]⟩,
  ⟨0x10, 4, 1, 0x0, 1, 0, [⟨31, 0, .rc, .free⟩]⟩,
  ⟨0x14, 4, 1, 0x0, 1, 0, [⟨31, 0, .ro, .free⟩]⟩,
  ⟨0x18, 4, 1, 0x44D, 1, 0, [⟨10, 0, .ro, .free⟩]⟩,
  ⟨0x1C, 4, 1, 0x0, 1, 0, [⟨31, 24, .ro, .free⟩, ⟨23, 16, .ro, .free⟩, ⟨15, 8, .ro, .free⟩]⟩,
  ⟨0x40, 4, 16, 0x0, 1, 0, [⟨31, 28, .ro, .free⟩, ⟨27, 0, .ro, .free⟩]⟩,
  ⟨0x100, 4, 57, 0x20000000, 1, 0, [⟨31, 30, .ro, .free⟩, ⟨29, 21, .ro, .free⟩, ⟨20, 0, .rc, .free⟩]⟩]

/-- Register rows of the sc block, part 1. -/
def scRows1 : List RegRow := [
  ⟨0x0, 4, 1, 0x0, 1, 0, [⟨7, 7, .ro, .free⟩, ⟨6, 6, .ro, .free⟩, ⟨5, 5, .w1c, .free⟩]⟩,
  ⟨0x10, 4, 8, 0x0, 1, 0, [⟨31, 31, .ro, .free⟩, ⟨30, 30, .ro, .free⟩, ⟨23, 20, .ro, .free⟩]⟩,
  ⟨0x30, 4, 1, 0x0, 1, 0, [⟨6, 0, .ro, .free⟩]⟩,
  ⟨0x34, 4, 1, 0x0, 1, 0, [⟨31, 31, .ro, .free⟩, ⟨25, 24, .ro, .free⟩, ⟨18, 16, .ro, .free⟩]⟩,
  ⟨0x38, 4, 1, 0x0, 1, 0, [⟨31, 30, .ro, .free⟩, ⟨29, 29, .ro, .free⟩, ⟨28, 28, .ro, .free⟩, ⟨25, 25, .ro, .free⟩, ⟨24, 24, .ro, .free⟩, ⟨23, 16, .ro, .free⟩, ⟨7, 0, .ro, .free⟩]⟩,
  ⟨0x3C, 4, 1, 0x0, 1, 0, [⟨31, 0, .ro, .free⟩]⟩,
  ⟨0x40, 4, 1, 0x0, 1, 0, [⟨31, 0, .ro, .free⟩]⟩,
  ⟨0x44, 4, 1, 0x0, 1, 0, [⟨31, 0, .ro, .free⟩]⟩]

/-- Register rows of the dd block, part 1. -/
def ddRows1 : List RegRow := [
  ⟨0x0, 4, 1, 0x0, 1, 0, [⟨31, 29, .ro, .free⟩, ⟨28, 28, .ro, .free⟩, ⟨27, 27, .ro, .free⟩, ⟨26, 26, .ro, .free⟩, ⟨25, 24, .ro, .free⟩, ⟨23, 23, .ro, .free⟩]⟩,
  ⟨0x4, 4, 1, 0x0, 1, 0, [⟨31, 16, .rc, .free⟩, ⟨7, 0, .ro, .free⟩]⟩,
  ⟨0x8, 4, 1, 0x0, 1, 0, [⟨31, 0, .rc, .free⟩]⟩,
  ⟨0x10, 4, 2, 0x0, 1, 0, [⟨31, 28, .ro, .free⟩, ⟨27, 16, .rc, .free⟩, ⟨15, 0, .rc, .free⟩]⟩]

/-- The rows of a block. -/
def blockRows : Block → List RegRow
  | .ident => identRows1
  | .tb => tbRows1 ++ tbRows2 ++ tbRows3
  | .seq => seqRows1
  | .slot => slotRows1 ++ slotRows2
  | .hm => hmRows1
  | .lk => lkRows1 ++ lkRows2 ++ lkRows3
  | .sv => svRows1 ++ svRows2 ++ svRows3
  | .fe => feRows1 ++ feRows2
  | .hi => hiRows1 ++ hiRows2
  | .px => pxRows1
  | .fc => fcRows1 ++ fcRows2
  | .cn => cnRows1
  | .pw => pwRows1
  | .sc => scRows1
  | .dd => ddRows1

/-! ## Offsets and fields by name -/

def Reg.ID_PART : Nat := 0x0
def Reg.ID_PART_VENDOR : Fld := ⟨Reg.ID_PART, 31, 16⟩
def Reg.ID_PART_FAMILY : Fld := ⟨Reg.ID_PART, 15, 8⟩
def Reg.ID_PART_PART : Fld := ⟨Reg.ID_PART, 7, 0⟩
def Reg.ID_GRADE : Nat := 0x4
def Reg.ID_GRADE_STEP : Fld := ⟨Reg.ID_GRADE, 23, 16⟩
def Reg.ID_GRADE_PLANF : Fld := ⟨Reg.ID_GRADE, 15, 8⟩
def Reg.ID_GRADE_VCORES : Fld := ⟨Reg.ID_GRADE, 5, 0⟩
def Reg.TB_WALL : Nat := 0x100000
def Reg.TB_WALL_WALL : Fld := ⟨Reg.TB_WALL, 63, 0⟩
def Reg.TB_PLAN : Nat := 0x100008
def Reg.TB_PLAN_PLAN : Fld := ⟨Reg.TB_PLAN, 63, 0⟩
def Reg.TB_OFFSET : Nat := 0x100010
def Reg.TB_OFFSET_OFFSET : Fld := ⟨Reg.TB_OFFSET, 63, 0⟩
def Reg.TB_STATUS : Nat := 0x100018
def Reg.TB_STATUS_SOURCE : Fld := ⟨Reg.TB_STATUS, 15, 12⟩
def Reg.TB_STATUS_HOLDOVER : Fld := ⟨Reg.TB_STATUS, 11, 11⟩
def Reg.TB_STATUS_LOR : Fld := ⟨Reg.TB_STATUS, 10, 10⟩
def Reg.TB_STATUS_UNALIGNED : Fld := ⟨Reg.TB_STATUS, 9, 9⟩
def Reg.TB_STATUS_HOLDING : Fld := ⟨Reg.TB_STATUS, 8, 8⟩
def Reg.TB_STATUS_OPEN : Fld := ⟨Reg.TB_STATUS, 7, 7⟩
def Reg.TB_STATUS_INTAKE : Fld := ⟨Reg.TB_STATUS, 6, 6⟩
def Reg.TB_CTRL : Nat := 0x10001C
def Reg.TB_CTRL_ROOTSRC : Fld := ⟨Reg.TB_CTRL, 1, 0⟩
def Reg.TB_STEP : Nat := 0x100020
def Reg.TB_STEP_STEP : Fld := ⟨Reg.TB_STEP, 63, 0⟩
def Reg.TB_ALIGN : Nat := 0x100028
def Reg.TB_ALIGN_MAXERR : Fld := ⟨Reg.TB_ALIGN, 31, 16⟩
def Reg.TB_ALIGN_ERR : Fld := ⟨Reg.TB_ALIGN, 15, 0⟩
def Reg.TB_SLEW : Nat := 0x10002C
def Reg.TB_SLEW_SLEW : Fld := ⟨Reg.TB_SLEW, 31, 0⟩
def Reg.TB_TREE : Nat := 0x100030
def Reg.TB_TREE_DEPTH : Fld := ⟨Reg.TB_TREE, 23, 16⟩
def Reg.TB_TREE_PLINK : Fld := ⟨Reg.TB_TREE, 13, 8⟩
def Reg.TB_TREE_PVALID : Fld := ⟨Reg.TB_TREE, 1, 1⟩
def Reg.TB_TREE_ROOT : Fld := ⟨Reg.TB_TREE, 0, 0⟩
def Reg.TB_HOLD_CFG : Nat := 0x100034
def Reg.TB_HOLD_CFG_MARGIN : Fld := ⟨Reg.TB_HOLD_CFG, 27, 16⟩
def Reg.TB_HOLD_CFG_DIAM : Fld := ⟨Reg.TB_HOLD_CFG, 15, 0⟩
def Reg.TB_HOLD_LIMIT : Nat := 0x100038
def Reg.TB_HOLD_LIMIT_STEPMAX : Fld := ⟨Reg.TB_HOLD_LIMIT, 15, 0⟩
def Reg.TB_SLATE_CFG : Nat := 0x10003C
def Reg.TB_SLATE_CFG_INTERVAL : Fld := ⟨Reg.TB_SLATE_CFG, 15, 8⟩
def Reg.TB_SLATE_CFG_GUARD : Fld := ⟨Reg.TB_SLATE_CFG, 7, 0⟩
def Reg.TB_HOLD_STAT : Nat := 0x100040
def Reg.TB_HOLD_STAT_PEND : Fld := ⟨Reg.TB_HOLD_STAT, 31, 28⟩
def Reg.TB_HOLD_STAT_LASTLEN : Fld := ⟨Reg.TB_HOLD_STAT, 27, 20⟩
def Reg.TB_HOLD_STAT_LASTGATE : Fld := ⟨Reg.TB_HOLD_STAT, 19, 0⟩
def Reg.TB_HOLD_REASON : Nat := 0x100044
def Reg.TB_HOLD_REASON_LATEMARK : Fld := ⟨Reg.TB_HOLD_REASON, 8, 8⟩
def Reg.TB_HOLD_REASON_REASONS : Fld := ⟨Reg.TB_HOLD_REASON, 6, 1⟩
def Reg.TB_HOLD_COUNT : Nat := 0x100048
def Reg.TB_HOLD_COUNT_COUNT : Fld := ⟨Reg.TB_HOLD_COUNT, 31, 0⟩
def Reg.TB_HELD_FRAMES : Nat := 0x10004C
def Reg.TB_HELD_FRAMES_FRAMES : Fld := ⟨Reg.TB_HELD_FRAMES, 31, 0⟩
def Reg.TB_TRIG_CFG : Nat := 0x100050
def Reg.TB_TRIG_CFG_DEGLITCH : Fld := ⟨Reg.TB_TRIG_CFG, 23, 16⟩
def Reg.TB_TRIG_CFG_IN : Fld := ⟨Reg.TB_TRIG_CFG, 15, 0⟩
def Reg.TB_TRIG_STAT : Nat := 0x100054
def Reg.TB_TRIG_STAT_HOLDOVER : Fld := ⟨Reg.TB_TRIG_STAT, 11, 8⟩
def Reg.TB_TRIG_STAT_OVF : Fld := ⟨Reg.TB_TRIG_STAT, 7, 4⟩
def Reg.TB_TRIG_STAT_EDGE : Fld := ⟨Reg.TB_TRIG_STAT, 3, 0⟩
def Reg.TB_TRIG_TS (k : Nat) : Nat := 0x100058 + 8 * k
def Reg.TB_TRIG_TS_TS (k : Nat) : Fld := ⟨Reg.TB_TRIG_TS k, 63, 0⟩
def Reg.TB_PULSE_CFG : Nat := 0x100078
def Reg.TB_PULSE_CFG_INCOMP : Fld := ⟨Reg.TB_PULSE_CFG, 23, 8⟩
def Reg.TB_PULSE_CFG_INEN : Fld := ⟨Reg.TB_PULSE_CFG, 1, 1⟩
def Reg.TB_PULSE_CFG_OUTEN : Fld := ⟨Reg.TB_PULSE_CFG, 0, 0⟩
def Reg.TB_ARM_CHECK : Nat := 0x10007C
def Reg.TB_ARM_CHECK_FAIL : Fld := ⟨Reg.TB_ARM_CHECK, 31, 31⟩
def Reg.TB_ARM_CHECK_LINK : Fld := ⟨Reg.TB_ARM_CHECK, 23, 18⟩
def Reg.TB_ARM_CHECK_KIND : Fld := ⟨Reg.TB_ARM_CHECK, 17, 16⟩
def Reg.TB_ARM_CHECK_SHORT : Fld := ⟨Reg.TB_ARM_CHECK, 15, 0⟩
def Reg.TB_TRAVEL_DEV (k : Nat) : Nat := 0x100100 + 4 * k
def Reg.TB_TRAVEL_DEV_TICKS (k : Nat) : Fld := ⟨Reg.TB_TRAVEL_DEV k, 15, 0⟩
def Reg.TB_TRAVEL_LINK (k : Nat) : Nat := 0x100200 + 4 * k
def Reg.TB_TRAVEL_LINK_VALID (k : Nat) : Fld := ⟨Reg.TB_TRAVEL_LINK k, 31, 31⟩
def Reg.TB_TRAVEL_LINK_TICKS (k : Nat) : Fld := ⟨Reg.TB_TRAVEL_LINK k, 15, 0⟩
def Reg.CL_SLOT_ID (c p : Nat) : Nat := 0x210000 + 0x100000 * c + 0x10000 * p
def Reg.CL_SLOT_ID_MAPPED (c p : Nat) : Fld := ⟨Reg.CL_SLOT_ID c p, 15, 15⟩
def Reg.CL_SLOT_ID_DISABLED (c p : Nat) : Fld := ⟨Reg.CL_SLOT_ID c p, 14, 14⟩
def Reg.CL_SLOT_ID_VCORE (c p : Nat) : Fld := ⟨Reg.CL_SLOT_ID c p, 11, 8⟩
def Reg.CL_SLOT_ID_PSLOT (c p : Nat) : Fld := ⟨Reg.CL_SLOT_ID c p, 3, 0⟩
def Reg.CL_FLAGS (c p : Nat) : Nat := 0x210004 + 0x100000 * c + 0x10000 * p
def Reg.CL_FLAGS_NI (c p : Nat) : Fld := ⟨Reg.CL_FLAGS c p, 3, 3⟩
def Reg.CL_FLAGS_UF (c p : Nat) : Fld := ⟨Reg.CL_FLAGS c p, 2, 2⟩
def Reg.CL_FLAGS_OF (c p : Nat) : Fld := ⟨Reg.CL_FLAGS c p, 1, 1⟩
def Reg.CL_FLAGS_NV (c p : Nat) : Fld := ⟨Reg.CL_FLAGS c p, 0, 0⟩
def Reg.CL_TRAP_EN (c p : Nat) : Nat := 0x210008 + 0x100000 * c + 0x10000 * p
def Reg.CL_TRAP_EN_EN (c p : Nat) : Fld := ⟨Reg.CL_TRAP_EN c p, 3, 0⟩
def Reg.CL_ECC_CE (c p : Nat) : Nat := 0x21000C + 0x100000 * c + 0x10000 * p
def Reg.CL_ECC_CE_COUNT (c p : Nat) : Fld := ⟨Reg.CL_ECC_CE c p, 31, 0⟩
def Reg.CL_ECC_UE (c p : Nat) : Nat := 0x210010 + 0x100000 * c + 0x10000 * p
def Reg.CL_ECC_UE_COUNT (c p : Nat) : Fld := ⟨Reg.CL_ECC_UE c p, 31, 0⟩
def Reg.CL_ECC_ADDR (c p : Nat) : Nat := 0x210014 + 0x100000 * c + 0x10000 * p
def Reg.CL_ECC_ADDR_VALID (c p : Nat) : Fld := ⟨Reg.CL_ECC_ADDR c p, 31, 31⟩
def Reg.CL_ECC_ADDR_GRANULE (c p : Nat) : Fld := ⟨Reg.CL_ECC_ADDR c p, 21, 0⟩
def Reg.CL_ECC_WBDROP (c p : Nat) : Nat := 0x210018 + 0x100000 * c + 0x10000 * p
def Reg.CL_ECC_WBDROP_COUNT (c p : Nat) : Fld := ⟨Reg.CL_ECC_WBDROP c p, 31, 0⟩
def Reg.CL_DRZ_CFG (c p : Nat) : Nat := 0x21001C + 0x100000 * c + 0x10000 * p
def Reg.CL_DRZ_CFG_WDOG (c p : Nat) : Fld := ⟨Reg.CL_DRZ_CFG c p, 15, 0⟩
def Reg.CL_DRZ_STAT (c p : Nat) : Nat := 0x210020 + 0x100000 * c + 0x10000 * p
def Reg.CL_DRZ_STAT_STARVED (c p : Nat) : Fld := ⟨Reg.CL_DRZ_STAT c p, 31, 31⟩
def Reg.CL_DRZ_STAT_DEPTH (c p : Nat) : Fld := ⟨Reg.CL_DRZ_STAT c p, 21, 16⟩
def Reg.CL_DRZ_STAT_MAXWAIT (c p : Nat) : Fld := ⟨Reg.CL_DRZ_STAT c p, 15, 0⟩
def Reg.CL_CONFLICT (c p : Nat) : Nat := 0x210024 + 0x100000 * c + 0x10000 * p
def Reg.CL_CONFLICT_VALID (c p : Nat) : Fld := ⟨Reg.CL_CONFLICT c p, 31, 31⟩
def Reg.CL_CONFLICT_WINNER (c p : Nat) : Fld := ⟨Reg.CL_CONFLICT c p, 30, 27⟩
def Reg.CL_CONFLICT_LOSER (c p : Nat) : Fld := ⟨Reg.CL_CONFLICT c p, 26, 23⟩
def Reg.CL_CONFLICT_BANK (c p : Nat) : Fld := ⟨Reg.CL_CONFLICT c p, 21, 16⟩
def Reg.CL_CARRY (c p : Nat) : Nat := 0x210028 + 0x100000 * c + 0x10000 * p
def Reg.CL_CARRY_PHASE (c p : Nat) : Fld := ⟨Reg.CL_CARRY c p, 0, 0⟩
def Reg.CL_LAND_STAT (c p : Nat) : Nat := 0x21002C + 0x100000 * c + 0x10000 * p
def Reg.CL_LAND_STAT_PEAKXFER (c p : Nat) : Fld := ⟨Reg.CL_LAND_STAT c p, 25, 16⟩
def Reg.CL_LAND_STAT_PEAKROWS (c p : Nat) : Fld := ⟨Reg.CL_LAND_STAT c p, 12, 0⟩
def Reg.CL_LD_STAT (c p : Nat) : Nat := 0x210030 + 0x100000 * c + 0x10000 * p
def Reg.CL_LD_STAT_BADIDX (c p : Nat) : Fld := ⟨Reg.CL_LD_STAT c p, 31, 16⟩
def Reg.CL_LD_STAT_DECERR (c p : Nat) : Fld := ⟨Reg.CL_LD_STAT c p, 15, 0⟩
def Reg.CL_SCRUB (c p : Nat) : Nat := 0x210034 + 0x100000 * c + 0x10000 * p
def Reg.CL_SCRUB_BUSY (c p : Nat) : Fld := ⟨Reg.CL_SCRUB c p, 1, 1⟩
def Reg.CL_SCRUB_DONE (c p : Nat) : Fld := ⟨Reg.CL_SCRUB c p, 0, 0⟩
def Reg.CL_DESC_COUNT (c p : Nat) : Nat := 0x210038 + 0x100000 * c + 0x10000 * p
def Reg.CL_DESC_COUNT_COUNT (c p : Nat) : Fld := ⟨Reg.CL_DESC_COUNT c p, 12, 0⟩
def Reg.CL_REGION (c p : Nat) (k : Nat) : Nat := 0x210100 + 0x100000 * c + 0x10000 * p + 4 * k
def Reg.CL_REGION_KIND (c p : Nat) (k : Nat) : Fld := ⟨Reg.CL_REGION c p k, 31, 30⟩
def Reg.CL_REGION_BASE (c p : Nat) (k : Nat) : Fld := ⟨Reg.CL_REGION c p k, 25, 13⟩
def Reg.CL_REGION_LEN (c p : Nat) (k : Nat) : Fld := ⟨Reg.CL_REGION c p k, 12, 0⟩
def Reg.CL_WIT_SKIP (c p : Nat) : Nat := 0x21003C + 0x100000 * c + 0x10000 * p
def Reg.CL_WIT_SKIP_COUNT (c p : Nat) : Fld := ⟨Reg.CL_WIT_SKIP c p, 31, 0⟩
def Reg.CL_SEQ_HALT (c : Nat) : Nat := 0x200000 + 0x100000 * c
def Reg.CL_SEQ_HALT_HALTED (c : Nat) : Fld := ⟨Reg.CL_SEQ_HALT c, 31, 31⟩
def Reg.CL_SEQ_HALT_VCORE (c : Nat) : Fld := ⟨Reg.CL_SEQ_HALT c, 27, 24⟩
def Reg.CL_SEQ_HALT_REASON (c : Nat) : Fld := ⟨Reg.CL_SEQ_HALT c, 23, 16⟩
def Reg.CL_SEQ_HALT_MORE (c : Nat) : Fld := ⟨Reg.CL_SEQ_HALT c, 15, 8⟩
def Reg.CL_SEQ_HALT_ADDR (c : Nat) : Nat := 0x200004 + 0x100000 * c
def Reg.CL_SEQ_HALT_ADDR_ADDR (c : Nat) : Fld := ⟨Reg.CL_SEQ_HALT_ADDR c, 17, 0⟩
def Reg.CL_SEQ_HALT_TICK (c : Nat) : Nat := 0x200008 + 0x100000 * c
def Reg.CL_SEQ_HALT_TICK_TICK (c : Nat) : Fld := ⟨Reg.CL_SEQ_HALT_TICK c, 63, 0⟩
def Reg.CL_SEQ_STATE (c : Nat) : Nat := 0x200010 + 0x100000 * c
def Reg.CL_SEQ_STATE_SHAPE (c : Nat) : Fld := ⟨Reg.CL_SEQ_STATE c, 31, 26⟩
def Reg.CL_SEQ_STATE_SEGMENT (c : Nat) : Fld := ⟨Reg.CL_SEQ_STATE c, 23, 8⟩
def Reg.CL_SEQ_STATE_WAITING (c : Nat) : Fld := ⟨Reg.CL_SEQ_STATE c, 1, 1⟩
def Reg.CL_SEQ_STATE_LULL (c : Nat) : Fld := ⟨Reg.CL_SEQ_STATE c, 0, 0⟩
def Reg.CL_SEQ_PC (c : Nat) : Nat := 0x200014 + 0x100000 * c
def Reg.CL_SEQ_PC_PC (c : Nat) : Fld := ⟨Reg.CL_SEQ_PC c, 17, 0⟩
def Reg.CL_SEQ_MEM (c : Nat) : Nat := 0x200018 + 0x100000 * c
def Reg.CL_SEQ_MEM_CE (c : Nat) : Fld := ⟨Reg.CL_SEQ_MEM c, 31, 19⟩
def Reg.CL_SEQ_MEM_BUNDLES (c : Nat) : Fld := ⟨Reg.CL_SEQ_MEM c, 18, 0⟩
def Reg.CL_SEQ_CHK (c : Nat) : Nat := 0x20001C + 0x100000 * c
def Reg.CL_SEQ_CHK_EN (c : Nat) : Fld := ⟨Reg.CL_SEQ_CHK c, 31, 31⟩
def Reg.CL_SEQ_CHK_MARGIN (c : Nat) : Fld := ⟨Reg.CL_SEQ_CHK c, 15, 0⟩
def Reg.CL_SEQ_SSEL (c : Nat) : Nat := 0x200020 + 0x100000 * c
def Reg.CL_SEQ_SSEL_VALID (c : Nat) : Fld := ⟨Reg.CL_SEQ_SSEL c, 31, 31⟩
def Reg.CL_SEQ_SSEL_INDEX (c : Nat) : Fld := ⟨Reg.CL_SEQ_SSEL c, 5, 0⟩
def Reg.CL_SYNC (c : Nat) (k : Nat) : Nat := 0x204000 + 0x100000 * c + 4 * k
def Reg.CL_SYNC_VALUE (c : Nat) (k : Nat) : Fld := ⟨Reg.CL_SYNC c k, 31, 0⟩
def Reg.SV_CTRL : Nat := 0xE00000
def Reg.SV_CTRL_ROLE : Fld := ⟨Reg.SV_CTRL, 17, 16⟩
def Reg.SV_CTRL_MAXENT : Fld := ⟨Reg.SV_CTRL, 12, 0⟩
def Reg.SV_TIMING : Nat := 0xE00004
def Reg.SV_TIMING_SETTLE : Fld := ⟨Reg.SV_TIMING, 31, 16⟩
def Reg.SV_TIMING_READY : Fld := ⟨Reg.SV_TIMING, 15, 0⟩
def Reg.SV_STATUS : Nat := 0xE00008
def Reg.SV_STATUS_BKLOST : Fld := ⟨Reg.SV_STATUS, 31, 24⟩
def Reg.SV_STATUS_DIGERR : Fld := ⟨Reg.SV_STATUS, 8, 8⟩
def Reg.SV_STATUS_NOMSG : Fld := ⟨Reg.SV_STATUS, 7, 7⟩
def Reg.SV_STATUS_LATEPREP : Fld := ⟨Reg.SV_STATUS, 6, 6⟩
def Reg.SV_STATUS_POOLERR : Fld := ⟨Reg.SV_STATUS, 5, 5⟩
def Reg.SV_STATUS_PHASE : Fld := ⟨Reg.SV_STATUS, 1, 0⟩
def Reg.SV_LAST : Nat := 0xE0000C
def Reg.SV_LAST_SHAPE : Fld := ⟨Reg.SV_LAST, 31, 26⟩
def Reg.SV_LAST_PREFILL : Fld := ⟨Reg.SV_LAST, 25, 25⟩
def Reg.SV_LAST_NDEC : Fld := ⟨Reg.SV_LAST, 10, 0⟩
def Reg.SV_AREA : Nat := 0xE00010
def Reg.SV_AREA_BASE : Fld := ⟨Reg.SV_AREA, 63, 0⟩
def Reg.SV_POOL_BASE : Nat := 0xE00018
def Reg.SV_POOL_BASE_BASE : Fld := ⟨Reg.SV_POOL_BASE, 63, 0⟩
def Reg.SV_POOL_STRIDE : Nat := 0xE00020
def Reg.SV_POOL_STRIDE_STRIDE : Fld := ⟨Reg.SV_POOL_STRIDE, 31, 0⟩
def Reg.SV_POOL_PAGES : Nat := 0xE00024
def Reg.SV_POOL_PAGES_PAGES : Fld := ⟨Reg.SV_POOL_PAGES, 23, 0⟩
def Reg.SV_POOL_FREE : Nat := 0xE00028
def Reg.SV_POOL_FREE_FREE : Fld := ⟨Reg.SV_POOL_FREE, 23, 0⟩
def Reg.SV_KV_CFG : Nat := 0xE0002C
def Reg.SV_KV_CFG_NRANK : Fld := ⟨Reg.SV_KV_CFG, 13, 8⟩
def Reg.SV_KV_CFG_KRANK : Fld := ⟨Reg.SV_KV_CFG, 5, 0⟩
def Reg.SV_CTX_RANGE : Nat := 0xE00030
def Reg.SV_CTX_RANGE_LO : Fld := ⟨Reg.SV_CTX_RANGE, 30, 16⟩
def Reg.SV_CTX_RANGE_HI : Fld := ⟨Reg.SV_CTX_RANGE, 14, 0⟩
def Reg.SV_METER_RANGE : Nat := 0xE00034
def Reg.SV_METER_RANGE_LO : Fld := ⟨Reg.SV_METER_RANGE, 29, 16⟩
def Reg.SV_METER_RANGE_HI : Fld := ⟨Reg.SV_METER_RANGE, 13, 0⟩
def Reg.SV_MIRROR : Nat := 0xE00038
def Reg.SV_MIRROR_EN : Fld := ⟨Reg.SV_MIRROR, 31, 31⟩
def Reg.SV_MIRROR_MAXLAG : Fld := ⟨Reg.SV_MIRROR, 27, 24⟩
def Reg.SV_MIRROR_STANDIN : Fld := ⟨Reg.SV_MIRROR, 17, 0⟩
def Reg.SV_MIRROR_STAT : Nat := 0xE0003C
def Reg.SV_MIRROR_STAT_BROKEN : Fld := ⟨Reg.SV_MIRROR_STAT, 31, 31⟩
def Reg.SV_MIRROR_STAT_LAG : Fld := ⟨Reg.SV_MIRROR_STAT, 3, 0⟩
def Reg.SV_MIRROR_CUT : Nat := 0xE00040
def Reg.SV_MIRROR_CUT_CUT : Fld := ⟨Reg.SV_MIRROR_CUT, 63, 0⟩
def Reg.SV_CUTS : Nat := 0xE00048
def Reg.SV_CUTS_CUTS : Fld := ⟨Reg.SV_CUTS, 63, 0⟩
def Reg.SV_DIGEST : Nat := 0xE00050
def Reg.SV_DIGEST_DIGEST : Fld := ⟨Reg.SV_DIGEST, 63, 0⟩
def Reg.SV_EMITTED : Nat := 0xE00058
def Reg.SV_EMITTED_COUNT : Fld := ⟨Reg.SV_EMITTED, 31, 0⟩
def Reg.SV_WITHHELD : Nat := 0xE0005C
def Reg.SV_WITHHELD_COUNT : Fld := ⟨Reg.SV_WITHHELD, 31, 0⟩
def Reg.SV_REJECTED : Nat := 0xE00060
def Reg.SV_REJECTED_COUNT : Fld := ⟨Reg.SV_REJECTED, 31, 0⟩
def Reg.SV_CTX_SEL : Nat := 0xE00064
def Reg.SV_CTX_SEL_CTX : Fld := ⟨Reg.SV_CTX_SEL, 14, 0⟩
def Reg.SV_CTX_STATE : Nat := 0xE00068
def Reg.SV_CTX_STATE_STATE : Fld := ⟨Reg.SV_CTX_STATE, 31, 29⟩
def Reg.SV_CTX_STATE_MIRROR : Fld := ⟨Reg.SV_CTX_STATE, 28, 28⟩
def Reg.SV_CTX_STATE_METER : Fld := ⟨Reg.SV_CTX_STATE, 13, 0⟩
def Reg.SV_CTX_COMMIT : Nat := 0xE0006C
def Reg.SV_CTX_COMMIT_COMMIT : Fld := ⟨Reg.SV_CTX_COMMIT, 31, 0⟩
def Reg.HM_STATUS (i : Nat) : Nat := 0x800000 + 0x20000 * i
def Reg.HM_STATUS_TEMP (i : Nat) : Fld := ⟨Reg.HM_STATUS i, 31, 24⟩
def Reg.HM_STATUS_WPROT (i : Nat) : Fld := ⟨Reg.HM_STATUS i, 3, 3⟩
def Reg.HM_STATUS_OVERTEMP (i : Nat) : Fld := ⟨Reg.HM_STATUS i, 2, 2⟩
def Reg.HM_STATUS_DOUBLE (i : Nat) : Fld := ⟨Reg.HM_STATUS i, 1, 1⟩
def Reg.HM_STATUS_READY (i : Nat) : Fld := ⟨Reg.HM_STATUS i, 0, 0⟩
def Reg.HM_CE (i : Nat) : Nat := 0x800004 + 0x20000 * i
def Reg.HM_CE_COUNT (i : Nat) : Fld := ⟨Reg.HM_CE i, 31, 0⟩
def Reg.HM_UE (i : Nat) : Nat := 0x800008 + 0x20000 * i
def Reg.HM_UE_COUNT (i : Nat) : Fld := ⟨Reg.HM_UE i, 31, 0⟩
def Reg.HM_ERR_ADDR (i : Nat) : Nat := 0x800010 + 0x20000 * i
def Reg.HM_ERR_ADDR_VALID (i : Nat) : Fld := ⟨Reg.HM_ERR_ADDR i, 63, 63⟩
def Reg.HM_ERR_ADDR_UNIT (i : Nat) : Fld := ⟨Reg.HM_ERR_ADDR i, 38, 5⟩
def Reg.HM_REPAIR (i : Nat) : Nat := 0x800018 + 0x20000 * i
def Reg.HM_REPAIR_PENDING (i : Nat) : Fld := ⟨Reg.HM_REPAIR i, 29, 20⟩
def Reg.HM_REPAIR_USED (i : Nat) : Fld := ⟨Reg.HM_REPAIR i, 19, 10⟩
def Reg.HM_REPAIR_LEFT (i : Nat) : Fld := ⟨Reg.HM_REPAIR i, 9, 0⟩
def Reg.HM_SCHED (i : Nat) : Nat := 0x80001C + 0x20000 * i
def Reg.HM_SCHED_PEAK (i : Nat) : Fld := ⟨Reg.HM_SCHED i, 27, 16⟩
def Reg.HM_SCHED_SCHEDMAX (i : Nat) : Fld := ⟨Reg.HM_SCHED i, 11, 0⟩
def Reg.HM_PATROL (i : Nat) : Nat := 0x800020 + 0x20000 * i
def Reg.HM_PATROL_PASSES (i : Nat) : Fld := ⟨Reg.HM_PATROL i, 31, 16⟩
def Reg.HM_PATROL_PERIOD (i : Nat) : Fld := ⟨Reg.HM_PATROL i, 7, 0⟩
def Reg.HM_SCRUB (i : Nat) : Nat := 0x800024 + 0x20000 * i
def Reg.HM_SCRUB_BUSY (i : Nat) : Fld := ⟨Reg.HM_SCRUB i, 1, 1⟩
def Reg.HM_SCRUB_DONE (i : Nat) : Fld := ⟨Reg.HM_SCRUB i, 0, 0⟩
def Reg.FE_PORT : Nat := 0x1000000
def Reg.FE_PORT_P1 : Fld := ⟨Reg.FE_PORT, 15, 8⟩
def Reg.FE_PORT_P0 : Fld := ⟨Reg.FE_PORT, 7, 0⟩
def Reg.FE_FETCH_STAT : Nat := 0x1000004
def Reg.FE_FETCH_STAT_STATE : Fld := ⟨Reg.FE_FETCH_STAT, 31, 28⟩
def Reg.FE_FETCH_STAT_CODE : Fld := ⟨Reg.FE_FETCH_STAT, 27, 24⟩
def Reg.FE_FETCH_TOTAL : Nat := 0x1000008
def Reg.FE_FETCH_TOTAL_CHUNKS : Fld := ⟨Reg.FE_FETCH_TOTAL, 17, 0⟩
def Reg.FE_FETCH_DONE : Nat := 0x100000C
def Reg.FE_FETCH_DONE_CHUNKS : Fld := ⟨Reg.FE_FETCH_DONE, 17, 0⟩
def Reg.FE_FETCH_FAIL : Nat := 0x1000010
def Reg.FE_FETCH_FAIL_VALID : Fld := ⟨Reg.FE_FETCH_FAIL, 31, 31⟩
def Reg.FE_FETCH_FAIL_CHUNK : Fld := ⟨Reg.FE_FETCH_FAIL, 17, 0⟩
def Reg.FE_FETCH_CFG : Nat := 0x1000014
def Reg.FE_FETCH_CFG_REREAD : Fld := ⟨Reg.FE_FETCH_CFG, 16, 16⟩
def Reg.FE_FETCH_CFG_RETRY : Fld := ⟨Reg.FE_FETCH_CFG, 11, 8⟩
def Reg.FE_FETCH_CFG_QPS : Fld := ⟨Reg.FE_FETCH_CFG, 6, 0⟩
def Reg.FE_FETCH_RETRIES : Nat := 0x1000018
def Reg.FE_FETCH_RETRIES_COUNT : Fld := ⟨Reg.FE_FETCH_RETRIES, 31, 0⟩
def Reg.FE_SHARD_DIGEST (k : Nat) : Nat := 0x1000020 + 4 * k
def Reg.FE_SHARD_DIGEST_BYTES (k : Nat) : Fld := ⟨Reg.FE_SHARD_DIGEST k, 31, 0⟩
def Reg.FE_PTP_CFG : Nat := 0x1000040
def Reg.FE_PTP_CFG_DOMAIN : Fld := ⟨Reg.FE_PTP_CFG, 15, 8⟩
def Reg.FE_PTP_CFG_TRANSPORT : Fld := ⟨Reg.FE_PTP_CFG, 5, 4⟩
def Reg.FE_PTP_CFG_PORTS : Fld := ⟨Reg.FE_PTP_CFG, 3, 2⟩
def Reg.FE_PTP_CFG_EN : Fld := ⟨Reg.FE_PTP_CFG, 0, 0⟩
def Reg.FE_PTP_STAT : Nat := 0x1000044
def Reg.FE_PTP_STAT_PORT : Fld := ⟨Reg.FE_PTP_STAT, 6, 6⟩
def Reg.FE_PTP_STAT_STATE : Fld := ⟨Reg.FE_PTP_STAT, 3, 0⟩
def Reg.FE_PTP_OFS : Nat := 0x1000048
def Reg.FE_PTP_OFS_OFS : Fld := ⟨Reg.FE_PTP_OFS, 31, 0⟩
def Reg.FE_PTP_UTC : Nat := 0x100004C
def Reg.FE_PTP_UTC_VALID : Fld := ⟨Reg.FE_PTP_UTC, 31, 31⟩
def Reg.FE_PTP_UTC_UTCOFS : Fld := ⟨Reg.FE_PTP_UTC, 15, 0⟩
def Reg.FE_PTP_GM : Nat := 0x1000050
def Reg.FE_PTP_GM_CLOCKID : Fld := ⟨Reg.FE_PTP_GM, 63, 0⟩
def Reg.FE_DROP : Nat := 0x1000058
def Reg.FE_DROP_COUNT : Fld := ⟨Reg.FE_DROP, 31, 0⟩
def Reg.LK_CTRL (l : Nat) : Nat := 0xA00000 + 0x10000 * l
def Reg.LK_CTRL_LANEEN (l : Nat) : Fld := ⟨Reg.LK_CTRL l, 11, 8⟩
def Reg.LK_CTRL_WAKE (l : Nat) : Fld := ⟨Reg.LK_CTRL l, 3, 3⟩
def Reg.LK_CTRL_SLEEP (l : Nat) : Fld := ⟨Reg.LK_CTRL l, 2, 2⟩
def Reg.LK_CTRL_RETRAIN (l : Nat) : Fld := ⟨Reg.LK_CTRL l, 1, 1⟩
def Reg.LK_CTRL_EN (l : Nat) : Fld := ⟨Reg.LK_CTRL l, 0, 0⟩
def Reg.LK_STATUS (l : Nat) : Nat := 0xA00004 + 0x10000 * l
def Reg.LK_STATUS_STATE (l : Nat) : Fld := ⟨Reg.LK_STATUS l, 31, 28⟩
def Reg.LK_STATUS_LANES (l : Nat) : Fld := ⟨Reg.LK_STATUS l, 27, 24⟩
def Reg.LK_STATUS_LONG (l : Nat) : Fld := ⟨Reg.LK_STATUS l, 23, 23⟩
def Reg.LK_STATUS_INUSE (l : Nat) : Fld := ⟨Reg.LK_STATUS l, 22, 22⟩
def Reg.LK_STATUS_PARTNER (l : Nat) : Fld := ⟨Reg.LK_STATUS l, 21, 21⟩
def Reg.LK_STATUS_PLANLOST (l : Nat) : Fld := ⟨Reg.LK_STATUS l, 20, 20⟩
def Reg.LK_PARTNER_ID (l : Nat) : Nat := 0xA00008 + 0x10000 * l
def Reg.LK_PARTNER_ID_LINK (l : Nat) : Fld := ⟨Reg.LK_PARTNER_ID l, 23, 18⟩
def Reg.LK_PARTNER_ID_DEVICE (l : Nat) : Fld := ⟨Reg.LK_PARTNER_ID l, 17, 0⟩
def Reg.LK_PARTNER_POS (l : Nat) : Nat := 0xA0000C + 0x10000 * l
def Reg.LK_PARTNER_POS_LANECAP (l : Nat) : Fld := ⟨Reg.LK_PARTNER_POS l, 13, 10⟩
def Reg.LK_PARTNER_POS_ROLE (l : Nat) : Fld := ⟨Reg.LK_PARTNER_POS l, 9, 8⟩
def Reg.LK_PARTNER_POS_SLOT (l : Nat) : Fld := ⟨Reg.LK_PARTNER_POS l, 7, 0⟩
def Reg.LK_PLAN (l : Nat) : Nat := 0xA00010 + 0x10000 * l
def Reg.LK_PLAN_LANESMIN (l : Nat) : Fld := ⟨Reg.LK_PLAN l, 31, 29⟩
def Reg.LK_PLAN_LEEWAY (l : Nat) : Fld := ⟨Reg.LK_PLAN l, 28, 27⟩
def Reg.LK_PLAN_INUSE (l : Nat) : Fld := ⟨Reg.LK_PLAN l, 24, 24⟩
def Reg.LK_PLAN_VC2MAX (l : Nat) : Fld := ⟨Reg.LK_PLAN l, 7, 0⟩
def Reg.LK_CFG (l : Nat) : Nat := 0xA00014 + 0x10000 * l
def Reg.LK_CFG_IDLETO (l : Nat) : Fld := ⟨Reg.LK_CFG l, 31, 24⟩
def Reg.LK_CFG_RTO (l : Nat) : Fld := ⟨Reg.LK_CFG l, 23, 16⟩
def Reg.LK_CFG_NPMAX (l : Nat) : Fld := ⟨Reg.LK_CFG l, 15, 12⟩
def Reg.LK_CFG_MAXREPLAY (l : Nat) : Fld := ⟨Reg.LK_CFG l, 11, 8⟩
def Reg.LK_RTT (l : Nat) : Nat := 0xA00018 + 0x10000 * l
def Reg.LK_RTT_RTT (l : Nat) : Fld := ⟨Reg.LK_RTT l, 15, 0⟩
def Reg.LK_LANEMAX (l : Nat) : Nat := 0xA0001C + 0x10000 * l
def Reg.LK_LANEMAX_LIMIT (l : Nat) : Fld := ⟨Reg.LK_LANEMAX l, 15, 0⟩
def Reg.LK_CREDIT (l : Nat) : Nat := 0xA00050 + 0x10000 * l
def Reg.LK_CREDIT_VC2 (l : Nat) : Fld := ⟨Reg.LK_CREDIT l, 25, 16⟩
def Reg.LK_CREDIT_VC1 (l : Nat) : Fld := ⟨Reg.LK_CREDIT l, 15, 8⟩
def Reg.LK_CREDIT_VC0 (l : Nat) : Fld := ⟨Reg.LK_CREDIT l, 7, 0⟩
def Reg.LK_VC2_PEAK (l : Nat) : Nat := 0xA00054 + 0x10000 * l
def Reg.LK_VC2_PEAK_PEAK (l : Nat) : Fld := ⟨Reg.LK_VC2_PEAK l, 7, 0⟩
def Reg.LK_LANE_SYM (l : Nat) (k : Nat) : Nat := 0xA00060 + 0x10000 * l + 4 * k
def Reg.LK_LANE_SYM_COUNT (l : Nat) (k : Nat) : Fld := ⟨Reg.LK_LANE_SYM l k, 31, 0⟩
def Reg.LK_CABLE (l : Nat) : Nat := 0xA00080 + 0x10000 * l
def Reg.LK_CABLE_RESULT (l : Nat) : Fld := ⟨Reg.LK_CABLE l, 31, 28⟩
def Reg.LK_CABLE_EXPKIND (l : Nat) : Fld := ⟨Reg.LK_CABLE l, 27, 26⟩
def Reg.LK_CABLE_EXPLINK (l : Nat) : Fld := ⟨Reg.LK_CABLE l, 23, 18⟩
def Reg.LK_CABLE_EXPDEV (l : Nat) : Fld := ⟨Reg.LK_CABLE l, 17, 0⟩
def Reg.LK_NOROUTE (l : Nat) : Nat := 0xA00084 + 0x10000 * l
def Reg.LK_NOROUTE_COUNT (l : Nat) : Fld := ⟨Reg.LK_NOROUTE l, 31, 0⟩
def Reg.LK_FWD (l : Nat) : Nat := 0xA00088 + 0x10000 * l
def Reg.LK_FWD_COUNT (l : Nat) : Fld := ⟨Reg.LK_FWD l, 31, 0⟩
def Reg.HI_STATUS : Nat := 0x1100000
def Reg.HI_STATUS_STRAP : Fld := ⟨Reg.HI_STATUS, 19, 18⟩
def Reg.HI_STATUS_HOSTROLE : Fld := ⟨Reg.HI_STATUS, 17, 16⟩
def Reg.HI_STATUS_CSVALID : Fld := ⟨Reg.HI_STATUS, 15, 15⟩
def Reg.HI_STATUS_XPEND : Fld := ⟨Reg.HI_STATUS, 14, 14⟩
def Reg.HI_STATUS_STAGED : Fld := ⟨Reg.HI_STATUS, 13, 13⟩
def Reg.HI_STATUS_RSTSEEN : Fld := ⟨Reg.HI_STATUS, 12, 12⟩
def Reg.HI_STATUS_STATE : Fld := ⟨Reg.HI_STATUS, 3, 0⟩
def Reg.HI_MB_CTRL : Nat := 0x1100004
def Reg.HI_MB_CTRL_EN : Fld := ⟨Reg.HI_MB_CTRL, 0, 0⟩
def Reg.HI_MB_NEXT : Nat := 0x1100008
def Reg.HI_MB_NEXT_NEXT : Fld := ⟨Reg.HI_MB_NEXT, 63, 0⟩
def Reg.HI_ARM : Nat := 0x1100024
def Reg.HI_ARM_FAIL : Fld := ⟨Reg.HI_ARM, 31, 31⟩
def Reg.HI_ARM_ITEM : Fld := ⟨Reg.HI_ARM, 23, 8⟩
def Reg.HI_ARM_CODE : Fld := ⟨Reg.HI_ARM, 7, 0⟩
def Reg.HI_GRID : Nat := 0x1100028
def Reg.HI_GRID_MAPPED : Fld := ⟨Reg.HI_GRID, 20, 20⟩
def Reg.HI_GRID_GRID : Fld := ⟨Reg.HI_GRID, 19, 16⟩
def Reg.HI_GRID_GOOD : Fld := ⟨Reg.HI_GRID, 15, 0⟩
def Reg.HI_XCHG_CUT : Nat := 0x1100030
def Reg.HI_XCHG_CUT_VALUE : Fld := ⟨Reg.HI_XCHG_CUT, 63, 0⟩
def Reg.HI_XCHG_TJ : Nat := 0x1100038
def Reg.HI_XCHG_TJ_VALUE : Fld := ⟨Reg.HI_XCHG_TJ, 63, 0⟩
def Reg.HI_XCHG_STAT : Nat := 0x1100040
def Reg.HI_XCHG_STAT_RESULT : Fld := ⟨Reg.HI_XCHG_STAT, 23, 16⟩
def Reg.HI_XCHG_STAT_CANCELLED : Fld := ⟨Reg.HI_XCHG_STAT, 15, 0⟩
def Reg.HI_REEL_HASH (k : Nat) : Nat := 0x1100080 + 4 * k
def Reg.HI_REEL_HASH_BYTES (k : Nat) : Fld := ⟨Reg.HI_REEL_HASH k, 31, 0⟩
def Reg.HI_STAGE_HASH (k : Nat) : Nat := 0x11000C0 + 4 * k
def Reg.HI_STAGE_HASH_BYTES (k : Nat) : Fld := ⟨Reg.HI_STAGE_HASH k, 31, 0⟩
def Reg.HI_PX_DEV (slot : Nat) : Nat := 0x1101000 + 0x40 * slot
def Reg.HI_PX_DEV_VALID (slot : Nat) : Fld := ⟨Reg.HI_PX_DEV slot, 31, 31⟩
def Reg.HI_PX_DEV_LIVE (slot : Nat) : Fld := ⟨Reg.HI_PX_DEV slot, 30, 30⟩
def Reg.HI_PX_DEV_DEVICE (slot : Nat) : Fld := ⟨Reg.HI_PX_DEV slot, 17, 0⟩
def Reg.HI_PX_CFG (slot : Nat) : Nat := 0x1101004 + 0x40 * slot
def Reg.HI_PX_CFG_CQVEC (slot : Nat) : Fld := ⟨Reg.HI_PX_CFG slot, 31, 21⟩
def Reg.HI_PX_CFG_FVEC (slot : Nat) : Fld := ⟨Reg.HI_PX_CFG slot, 20, 10⟩
def Reg.HI_PX_CFG_CQLOG (slot : Nat) : Fld := ⟨Reg.HI_PX_CFG slot, 9, 5⟩
def Reg.HI_PX_CFG_OQLOG (slot : Nat) : Fld := ⟨Reg.HI_PX_CFG slot, 4, 0⟩
def Reg.HI_PX_OQ (slot : Nat) : Nat := 0x1101008 + 0x40 * slot
def Reg.HI_PX_OQ_ADDR (slot : Nat) : Fld := ⟨Reg.HI_PX_OQ slot, 63, 0⟩
def Reg.HI_PX_CQ (slot : Nat) : Nat := 0x1101010 + 0x40 * slot
def Reg.HI_PX_CQ_ADDR (slot : Nat) : Fld := ⟨Reg.HI_PX_CQ slot, 63, 0⟩
def Reg.HI_PX_WINLO (slot : Nat) : Nat := 0x1101018 + 0x40 * slot
def Reg.HI_PX_WINLO_ADDR (slot : Nat) : Fld := ⟨Reg.HI_PX_WINLO slot, 63, 0⟩
def Reg.HI_PX_WINHI (slot : Nat) : Nat := 0x1101020 + 0x40 * slot
def Reg.HI_PX_WINHI_ADDR (slot : Nat) : Fld := ⟨Reg.HI_PX_WINHI slot, 63, 0⟩
def Reg.FC_STATUS : Nat := 0x1200000
def Reg.FC_STATUS_RSTATE : Fld := ⟨Reg.FC_STATUS, 31, 29⟩
def Reg.FC_STATUS_HCLASS : Fld := ⟨Reg.FC_STATUS, 28, 26⟩
def Reg.FC_STATUS_DEPTH : Fld := ⟨Reg.FC_STATUS, 23, 16⟩
def Reg.FC_STATUS_REPLAYS : Fld := ⟨Reg.FC_STATUS, 15, 8⟩
def Reg.FC_STATUS_LEADLOST : Fld := ⟨Reg.FC_STATUS, 2, 2⟩
def Reg.FC_STATUS_ALTINST : Fld := ⟨Reg.FC_STATUS, 1, 1⟩
def Reg.FC_STATUS_OVF : Fld := ⟨Reg.FC_STATUS, 0, 0⟩
def Reg.FC_CFG : Nat := 0x1200004
def Reg.FC_CFG_REPLAYMAX : Fld := ⟨Reg.FC_CFG, 19, 16⟩
def Reg.FC_CFG_RPAUSE : Fld := ⟨Reg.FC_CFG, 10, 0⟩
def Reg.FC_EPOCH : Nat := 0x1200008
def Reg.FC_EPOCH_VALUE : Fld := ⟨Reg.FC_EPOCH, 63, 0⟩
def Reg.FC_RESUME : Nat := 0x1200010
def Reg.FC_RESUME_VALUE : Fld := ⟨Reg.FC_RESUME, 63, 0⟩
def Reg.FC_COUNT (k : Nat) : Nat := 0x1200018 + 4 * k
def Reg.FC_COUNT_COUNT (k : Nat) : Fld := ⟨Reg.FC_COUNT k, 31, 0⟩
def Reg.FC_LAST : Nat := 0x1200030
def Reg.FC_LAST_WALL : Fld := ⟨Reg.FC_LAST, 127, 64⟩
def Reg.FC_LAST_DETAIL : Fld := ⟨Reg.FC_LAST, 63, 32⟩
def Reg.FC_LAST_VALID : Fld := ⟨Reg.FC_LAST, 31, 31⟩
def Reg.FC_LAST_CLASS : Fld := ⟨Reg.FC_LAST, 30, 28⟩
def Reg.FC_LAST_SOURCE : Fld := ⟨Reg.FC_LAST, 23, 16⟩
def Reg.FC_LAST_KIND : Fld := ⟨Reg.FC_LAST, 15, 14⟩
def Reg.FC_LAST_UNIT : Fld := ⟨Reg.FC_LAST, 13, 0⟩
def Reg.FC_FIRST : Nat := 0x1200040
def Reg.FC_FIRST_WALL : Fld := ⟨Reg.FC_FIRST, 127, 64⟩
def Reg.FC_FIRST_DETAIL : Fld := ⟨Reg.FC_FIRST, 63, 32⟩
def Reg.FC_FIRST_VALID : Fld := ⟨Reg.FC_FIRST, 31, 31⟩
def Reg.FC_FIRST_CLASS : Fld := ⟨Reg.FC_FIRST, 30, 28⟩
def Reg.FC_FIRST_SOURCE : Fld := ⟨Reg.FC_FIRST, 23, 16⟩
def Reg.FC_FIRST_KIND : Fld := ⟨Reg.FC_FIRST, 15, 14⟩
def Reg.FC_FIRST_UNIT : Fld := ⟨Reg.FC_FIRST, 13, 0⟩
def Reg.FC_FITNESS : Nat := 0x1200050
def Reg.FC_FITNESS_GRIDMAX : Fld := ⟨Reg.FC_FITNESS, 31, 28⟩
def Reg.FC_FITNESS_LINKS : Fld := ⟨Reg.FC_FITNESS, 27, 20⟩
def Reg.FC_FITNESS_LANEDEG : Fld := ⟨Reg.FC_FITNESS, 19, 12⟩
def Reg.FC_FITNESS_HBMOUT : Fld := ⟨Reg.FC_FITNESS, 11, 8⟩
def Reg.FC_FITNESS_SLOTOUT : Fld := ⟨Reg.FC_FITNESS, 7, 0⟩
def Reg.FC_RETIRED : Nat := 0x1200054
def Reg.FC_RETIRED_COUNT : Fld := ⟨Reg.FC_RETIRED, 15, 0⟩
def Reg.FC_ADMIT_LOST : Nat := 0x120005C
def Reg.FC_ADMIT_LOST_COUNT : Fld := ⟨Reg.FC_ADMIT_LOST, 15, 0⟩
def Reg.FC_ADMIT : Nat := 0x1200058
def Reg.FC_ADMIT_STATE : Fld := ⟨Reg.FC_ADMIT, 31, 28⟩
def Reg.FC_ADMIT_DETAIL : Fld := ⟨Reg.FC_ADMIT, 25, 18⟩
def Reg.FC_ADMIT_STANDIN : Fld := ⟨Reg.FC_ADMIT, 17, 0⟩
def Reg.PW_LIMIT : Nat := 0x1400000
def Reg.PW_LIMIT_WATTS : Fld := ⟨Reg.PW_LIMIT, 11, 0⟩
def Reg.PW_INPUT : Nat := 0x1400004
def Reg.PW_INPUT_PEAK : Fld := ⟨Reg.PW_INPUT, 31, 16⟩
def Reg.PW_INPUT_NOW : Fld := ⟨Reg.PW_INPUT, 15, 0⟩
def Reg.PW_STATUS : Nat := 0x1400008
def Reg.PW_STATUS_TRIP : Fld := ⟨Reg.PW_STATUS, 3, 3⟩
def Reg.PW_STATUS_THERM : Fld := ⟨Reg.PW_STATUS, 2, 2⟩
def Reg.PW_STATUS_OVERCUR : Fld := ⟨Reg.PW_STATUS, 1, 1⟩
def Reg.PW_STATUS_BRAKE : Fld := ⟨Reg.PW_STATUS, 0, 0⟩
def Reg.PW_BRAKE_CFG : Nat := 0x140000C
def Reg.PW_BRAKE_CFG_MARGIN : Fld := ⟨Reg.PW_BRAKE_CFG, 15, 8⟩
def Reg.PW_BRAKE_CFG_FRAMES : Fld := ⟨Reg.PW_BRAKE_CFG, 7, 0⟩
def Reg.PW_BRAKES : Nat := 0x1400010
def Reg.PW_BRAKES_VALUE : Fld := ⟨Reg.PW_BRAKES, 31, 0⟩
def Reg.PW_BUDGET : Nat := 0x1400014
def Reg.PW_BUDGET_VALUE : Fld := ⟨Reg.PW_BUDGET, 31, 0⟩
def Reg.PW_CONV : Nat := 0x1400018
def Reg.PW_CONV_CONV : Fld := ⟨Reg.PW_CONV, 10, 0⟩
def Reg.PW_TEMP : Nat := 0x140001C
def Reg.PW_TEMP_DIEW : Fld := ⟨Reg.PW_TEMP, 31, 24⟩
def Reg.PW_TEMP_DIEE : Fld := ⟨Reg.PW_TEMP, 23, 16⟩
def Reg.PW_TEMP_HBMMAX : Fld := ⟨Reg.PW_TEMP, 15, 8⟩
def Reg.PW_ETAB (k : Nat) : Nat := 0x1400040 + 4 * k
def Reg.PW_ETAB_SCALE (k : Nat) : Fld := ⟨Reg.PW_ETAB k, 31, 28⟩
def Reg.PW_ETAB_MANT (k : Nat) : Fld := ⟨Reg.PW_ETAB k, 27, 0⟩
def Reg.PW_BARO (k : Nat) : Nat := 0x1400100 + 4 * k
def Reg.PW_BARO_BAND (k : Nat) : Fld := ⟨Reg.PW_BARO k, 31, 30⟩
def Reg.PW_BARO_RATIO (k : Nat) : Fld := ⟨Reg.PW_BARO k, 29, 21⟩
def Reg.PW_BARO_STRETCH (k : Nat) : Fld := ⟨Reg.PW_BARO k, 20, 0⟩
def Reg.SC_STATUS : Nat := 0x1500000
def Reg.SC_STATUS_BOOTSLOT : Fld := ⟨Reg.SC_STATUS, 7, 7⟩
def Reg.SC_STATUS_TRIALBOOT : Fld := ⟨Reg.SC_STATUS, 6, 6⟩
def Reg.SC_STATUS_FALLBACK : Fld := ⟨Reg.SC_STATUS, 5, 5⟩
def Reg.SC_KEY (k : Nat) : Nat := 0x1500010 + 4 * k
def Reg.SC_KEY_VALID (k : Nat) : Fld := ⟨Reg.SC_KEY k, 31, 31⟩
def Reg.SC_KEY_REVOKED (k : Nat) : Fld := ⟨Reg.SC_KEY k, 30, 30⟩
def Reg.SC_KEY_USE (k : Nat) : Fld := ⟨Reg.SC_KEY k, 23, 20⟩
def Reg.SC_ROLLBACK : Nat := 0x1500030
def Reg.SC_ROLLBACK_MINVER : Fld := ⟨Reg.SC_ROLLBACK, 6, 0⟩
def Reg.SC_DEBUG : Nat := 0x1500034
def Reg.SC_DEBUG_UNLOCKED : Fld := ⟨Reg.SC_DEBUG, 31, 31⟩
def Reg.SC_DEBUG_SCOPE : Fld := ⟨Reg.SC_DEBUG, 25, 24⟩
def Reg.SC_DEBUG_KEY : Fld := ⟨Reg.SC_DEBUG, 18, 16⟩
def Reg.SC_UPD : Nat := 0x1500038
def Reg.SC_UPD_STAGE : Fld := ⟨Reg.SC_UPD, 31, 30⟩
def Reg.SC_UPD_OWNER : Fld := ⟨Reg.SC_UPD, 29, 29⟩
def Reg.SC_UPD_BUSY : Fld := ⟨Reg.SC_UPD, 28, 28⟩
def Reg.SC_UPD_TRIALSLOT : Fld := ⟨Reg.SC_UPD, 25, 25⟩
def Reg.SC_UPD_TRIAL : Fld := ⟨Reg.SC_UPD, 24, 24⟩
def Reg.SC_UPD_TRIALS : Fld := ⟨Reg.SC_UPD, 23, 16⟩
def Reg.SC_UPD_CODE : Fld := ⟨Reg.SC_UPD, 7, 0⟩
def Reg.SC_VER_A : Nat := 0x150003C
def Reg.SC_VER_A_VALUE : Fld := ⟨Reg.SC_VER_A, 31, 0⟩
def Reg.SC_VER_B : Nat := 0x1500040
def Reg.SC_VER_B_VALUE : Fld := ⟨Reg.SC_VER_B, 31, 0⟩
def Reg.SC_JSEQ : Nat := 0x1500044
def Reg.SC_JSEQ_VALUE : Fld := ⟨Reg.SC_JSEQ, 31, 0⟩
def Reg.DD_STATUS : Nat := 0x1600000
def Reg.DD_STATUS_ESTATE : Fld := ⟨Reg.DD_STATUS, 31, 29⟩
def Reg.DD_STATUS_DIRECTOR : Fld := ⟨Reg.DD_STATUS, 28, 28⟩
def Reg.DD_STATUS_STRAPW : Fld := ⟨Reg.DD_STATUS, 27, 27⟩
def Reg.DD_STATUS_STRAPE : Fld := ⟨Reg.DD_STATUS, 26, 26⟩
def Reg.DD_STATUS_DIRMAP : Fld := ⟨Reg.DD_STATUS, 25, 24⟩
def Reg.DD_STATUS_CONTRA : Fld := ⟨Reg.DD_STATUS, 23, 23⟩
def Reg.DD_HB : Nat := 0x1600004
def Reg.DD_HB_MISSES : Fld := ⟨Reg.DD_HB, 31, 16⟩
def Reg.DD_HB_RUN : Fld := ⟨Reg.DD_HB, 7, 0⟩
def Reg.DD_REFUSED : Nat := 0x1600008
def Reg.DD_REFUSED_COUNT : Fld := ⟨Reg.DD_REFUSED, 31, 0⟩
def Reg.DD_MP (k : Nat) : Nat := 0x1600010 + 4 * k
def Reg.DD_MP_TDIV (k : Nat) : Fld := ⟨Reg.DD_MP k, 31, 28⟩
def Reg.DD_MP_OVER (k : Nat) : Fld := ⟨Reg.DD_MP k, 27, 16⟩
def Reg.DD_MP_LOST (k : Nat) : Fld := ⟨Reg.DD_MP k, 15, 0⟩
def Reg.CN_CFG : Nat := 0x1300000
def Reg.CN_CFG_INTERVAL : Fld := ⟨Reg.CN_CFG, 23, 8⟩
def Reg.CN_CFG_PROFILE : Fld := ⟨Reg.CN_CFG, 7, 7⟩
def Reg.CN_CFG_TRIGMASK : Fld := ⟨Reg.CN_CFG, 4, 0⟩
def Reg.CN_SNAPREG (k : Nat) : Nat := 0x1300010 + 4 * k
def Reg.CN_SNAPREG_OFFSET (k : Nat) : Fld := ⟨Reg.CN_SNAPREG k, 25, 0⟩
def Reg.CN_HEAD (k : Nat) : Nat := 0x1300040 + 4 * k
def Reg.CN_HEAD_SEQ (k : Nat) : Fld := ⟨Reg.CN_HEAD k, 31, 0⟩
def Reg.CN_LOST : Nat := 0x1300048
def Reg.CN_LOST_COUNT : Fld := ⟨Reg.CN_LOST, 31, 0⟩
def Reg.CN_CLEARS : Nat := 0x130004C
def Reg.CN_CLEARS_COUNT : Fld := ⟨Reg.CN_CLEARS, 31, 0⟩
def Reg.CN_REC : Nat := 0x1300050
def Reg.CN_REC_STATE : Fld := ⟨Reg.CN_REC, 31, 30⟩
def Reg.CN_REC_BROKEN : Fld := ⟨Reg.CN_REC, 29, 29⟩
def Reg.CN_REC_HELD : Fld := ⟨Reg.CN_REC, 19, 0⟩
def Reg.CN_REC_HEAD : Nat := 0x1300054
def Reg.CN_REC_HEAD_OFFSET : Fld := ⟨Reg.CN_REC_HEAD, 31, 0⟩
def Reg.CN_REC_COUNT : Nat := 0x1300058
def Reg.CN_REC_COUNT_COUNT : Fld := ⟨Reg.CN_REC_COUNT, 31, 0⟩
def Reg.CN_REC_SKIP : Nat := 0x130005C
def Reg.CN_REC_SKIP_COUNT : Fld := ⟨Reg.CN_REC_SKIP, 31, 0⟩
def Reg.LK_FEC_CORR (l : Nat) : Nat := 0xA00020 + 0x10000 * l
def Reg.LK_FEC_CORR_COUNT (l : Nat) : Fld := ⟨Reg.LK_FEC_CORR l, 31, 0⟩
def Reg.LK_FEC_UNC (l : Nat) : Nat := 0xA00024 + 0x10000 * l
def Reg.LK_FEC_UNC_COUNT (l : Nat) : Fld := ⟨Reg.LK_FEC_UNC l, 31, 0⟩
def Reg.LK_CRC (l : Nat) : Nat := 0xA00028 + 0x10000 * l
def Reg.LK_CRC_COUNT (l : Nat) : Fld := ⟨Reg.LK_CRC l, 31, 0⟩
def Reg.LK_REPLAY (l : Nat) : Nat := 0xA0002C + 0x10000 * l
def Reg.LK_REPLAY_COUNT (l : Nat) : Fld := ⟨Reg.LK_REPLAY l, 31, 0⟩
def Reg.LK_HOLDREQ (l : Nat) : Nat := 0xA00030 + 0x10000 * l
def Reg.LK_HOLDREQ_COUNT (l : Nat) : Fld := ⟨Reg.LK_HOLDREQ l, 31, 0⟩
def Reg.LK_LATE (l : Nat) : Nat := 0xA00034 + 0x10000 * l
def Reg.LK_LATE_COUNT (l : Nat) : Fld := ⟨Reg.LK_LATE l, 31, 0⟩
def Reg.LK_DISCARD (l : Nat) : Nat := 0xA00038 + 0x10000 * l
def Reg.LK_DISCARD_COUNT (l : Nat) : Fld := ⟨Reg.LK_DISCARD l, 31, 0⟩
def Reg.LK_STOMP (l : Nat) : Nat := 0xA0003C + 0x10000 * l
def Reg.LK_STOMP_COUNT (l : Nat) : Fld := ⟨Reg.LK_STOMP l, 31, 0⟩
def Reg.LK_CREDMIS (l : Nat) : Nat := 0xA00040 + 0x10000 * l
def Reg.LK_CREDMIS_COUNT (l : Nat) : Fld := ⟨Reg.LK_CREDMIS l, 31, 0⟩
def Reg.LK_SLATELOST (l : Nat) : Nat := 0xA00044 + 0x10000 * l
def Reg.LK_SLATELOST_COUNT (l : Nat) : Fld := ⟨Reg.LK_SLATELOST l, 31, 0⟩
def Reg.LK_MALFORMED (l : Nat) : Nat := 0xA00048 + 0x10000 * l
def Reg.LK_MALFORMED_COUNT (l : Nat) : Fld := ⟨Reg.LK_MALFORMED l, 31, 0⟩
def Reg.HI_ORDERS : Nat := 0x1100010
def Reg.HI_ORDERS_COUNT : Fld := ⟨Reg.HI_ORDERS, 31, 0⟩
def Reg.HI_DUPS : Nat := 0x1100014
def Reg.HI_DUPS_COUNT : Fld := ⟨Reg.HI_DUPS, 31, 0⟩
def Reg.HI_PARTIAL : Nat := 0x1100018
def Reg.HI_PARTIAL_COUNT : Fld := ⟨Reg.HI_PARTIAL, 31, 0⟩
def Reg.HI_REWRITE : Nat := 0x110001C
def Reg.HI_REWRITE_COUNT : Fld := ⟨Reg.HI_REWRITE, 31, 0⟩
def Reg.HI_WINDROP : Nat := 0x1100020
def Reg.HI_WINDROP_COUNT : Fld := ⟨Reg.HI_WINDROP, 31, 0⟩

/-! ## Finding a register (Table 16.1) -/

/-- The block and the offset within it of a BAR0 byte offset; reserved space has none. -/
def blockOf (off : Nat) : Option (Block × Nat) :=
  let inner := off % 0x100000
  let page := off / 0x100000
  if page = 0 then some (.ident, inner)
  else if page = 1 then some (.tb, inner)
  else if page < 6 then
    let p := inner / 0x10000
    if p = 0 then some (.seq, inner) else if p < 12 then some (.slot, inner % 0x10000) else none
  else if page < 8 then none
  else if page = 8 then some (.hm, off % 0x20000)
  else if page = 9 then none
  else if page < 14 then some (.lk, off % 0x10000)
  else if page < 16 then some (.sv, off - 0xE00000)
  else if page = 16 then some (.fe, inner)
  else if page = 17 then
    if 0x1000 ≤ inner then (if inner < 0x2000 then some (.px, inner % 0x40) else none) else some (.hi, inner)
  else if page = 18 then some (.fc, inner)
  else if page = 19 then some (.cn, inner)
  else if page = 20 then some (.pw, inner)
  else if page = 21 then some (.sc, inner)
  else if page = 22 then some (.dd, inner)
  else none

/-- Whether a row covers an offset of its block. -/
def RegRow.covers (r : RegRow) (o : Nat) : Bool :=
  decide (r.off ≤ o) && decide (o < r.off + r.stride * r.count) && decide ((o - r.off) % r.stride = 0)

/-- The row of a BAR0 word offset, if the spec lists one. -/
def rowOf (off : Nat) : Option RegRow :=
  match blockOf off with
  | none => none
  | some (b, o) => (blockRows b).find? (RegRow.covers · o)

/-- PW_ETAB: the energy table of Table 14.3, SCALE in [31:28], MANT in [27:0]. -/
def etabReset (k : Nat) : Word := [0x37, 0x69, 0x1000002A, 0x3, 0x3000001F, 0x20000004, 0x300014FF, 0x40000040, 0x30002400, 0x70000400, 0x60000005, 0x70000038, 0x70000004, 0x70002000, 0x70001000, 0x0].getD k 0

/-- The reset value of a word: its row's, with the per-instance values of PW_ETAB and CL_SLOT_ID.PSLOT. -/
def resetWord (off : Nat) : Word :=
  match rowOf off with
  | none => 0
  | some r =>
    match blockOf off with
    | some (.pw, o) => if 0x40 ≤ o ∧ o < 0x80 then etabReset ((o - 0x40) / 4) else r.reset
    | some (.slot, o) => if o = 0 then BitVec.ofNat 32 (off % 0x100000 / 0x10000 - 1) else r.reset
    | _ => r.reset

end Sys2Proof.Machine
end

