-- ==== Sys2Proof/Machine/Ops.lean ====
section
/-! DEFINITION. The shared operations: register fields, units by number, time, the continuity log, fault records, holds and
device states. -/

namespace Sys2Proof.Machine

/-! ## Registers -/

/-- The stored word at a BAR0 offset. -/
def State.reg (s : State) (off : Nat) : Word := mapGet resetWord s.regs off

/-- Store a word at a BAR0 offset. -/
def State.setReg (s : State) (off : Nat) (w : Word) : State := { s with regs := mapPut resetWord s.regs off w }

/-- The first `n` words of a quantity as one number (R12). -/
def State.quantity (s : State) (off : Nat) : Nat → Nat
  | 0 => 0
  | n + 1 => (s.reg off).toNat + 2 ^ 32 * s.quantity (off + 4) n

/-- Read a field. -/
def State.fget (s : State) (f : Fld) : Nat := bitsOf f.hi f.lo (s.quantity f.off (f.hi / 32 + 1))

/-- Write a field that may span words, word by word. -/
def State.fsetFrom (s : State) (f : Fld) (v : Nat) : Nat → State
  | 0 => s
  | n + 1 =>
    let i := f.hi / 32 - n
    let lo := max f.lo (32 * i)
    let hi := min f.hi (32 * i + 31)
    let off := f.off + 4 * i
    let s := s.setReg off (setBits (s.reg off) (hi - 32 * i) (lo - 32 * i) (v / 2 ^ (lo - f.lo)))
    s.fsetFrom f v n

/-- Write a field. -/
def State.fset (s : State) (f : Fld) (v : Nat) : State := s.fsetFrom f v (f.hi / 32 + 1 - f.lo / 32)

/-- Whether a one-bit field is set. -/
def State.flag (s : State) (f : Fld) : Bool := s.fget f == 1

/-- Write a one-bit field. -/
def State.fsetb (s : State) (f : Fld) (b : Bool) : State := s.fset f (b2n b)

/-- Add to a saturating counter field. -/
def State.bumpBy (s : State) (f : Fld) (n : Nat) : State := s.fset f (satAdd (f.hi + 1 - f.lo) (s.fget f) n)

/-- Count one in a saturating counter field. -/
def State.bump (s : State) (f : Fld) : State := s.bumpBy f 1

/-- Raise a field that keeps a peak. -/
def State.peak (s : State) (f : Fld) (n : Nat) : State :=
  s.fset f (max (s.fget f) (min n (2 ^ (f.hi + 1 - f.lo) - 1)))

/-! ## Units by number -/

/-- The core of a key, cluster × 16 + physical slot. -/
def State.core (s : State) (k : Nat) : Core := mapGet (fun _ => Core.initial) s.cores k

/-- Store a core. -/
def State.setCore (s : State) (k : Nat) (c : Core) : State := { s with cores := mapPut (fun _ => Core.initial) s.cores k c }

/-- The sequencer of a cluster. -/
def State.seq (s : State) (c : Nat) : Seq := mapGet (fun _ => Seq.initial) s.seqs c

/-- Store a sequencer. -/
def State.setSeq (s : State) (c : Nat) (q : Seq) : State := { s with seqs := mapPut (fun _ => Seq.initial) s.seqs c q }

/-- The controller of a link. -/
def State.link (s : State) (l : Nat) : Link := mapGet (fun _ => Link.initial) s.links l

/-- Store a link controller. -/
def State.setLink (s : State) (l : Nat) (k : Link) : State := { s with links := mapPut (fun _ => Link.initial) s.links l k }

/-- The controller of an HBM stack. -/
def State.stack (s : State) (i : Nat) : Stack := mapGet (fun _ => Stack.initial) s.hbmStacks i

/-- Store an HBM controller. -/
def State.setStack (s : State) (i : Nat) (k : Stack) : State :=
  { s with hbmStacks := mapPut (fun _ => Stack.initial) s.hbmStacks i k }

/-- A request context as of the last cut. -/
def State.ctx (s : State) (c : Nat) : Ctx := mapGet (fun _ => Ctx.initial) s.serve.ctxs c

/-- Store a request context. -/
def State.setCtx (s : State) (c : Nat) (x : Ctx) : State :=
  { s with serve.ctxs := mapPut (fun _ => Ctx.initial) s.serve.ctxs c x }

/-- A trigger input. -/
def State.trig (s : State) (n : Nat) : Trigger := mapGet (fun _ => Trigger.initial) s.time.trigs n

/-- Store a trigger input. -/
def State.setTrig (s : State) (n : Nat) (t : Trigger) : State :=
  { s with time.trigs := mapPut (fun _ => Trigger.initial) s.time.trigs n t }

/-- The key of a core. -/
def CoreId.key (c : CoreId) : Nat := c.cl.val * 16 + c.slot.val

/-- Send something out of the device. -/
def State.emit (s : State) (o : Out) : State := { s with out := s.out ++ [o] }

/-- Draw a fresh number for a free value. -/
def State.draw (s : State) : Nat × State := (s.free, { s with free := s.free + 1 })

/-- Bytes whose content the spec leaves open. -/
def State.freeBytes (s : State) (n : Nat) : List Byte × State :=
  ((upFrom s.free n).map Config.freeByte, { s with free := s.free + n })

/-! ## Grade and position (R2, R316, R317) -/

/-- Plan frequency in units of 100 MHz (Table 00.3). -/
def State.planf (s : State) : Nat := if s.manage.grade = .st640 then 20 else 18

/-- Virtual cores of a cluster (Table 00.1). -/
def State.vcores (s : State) : Nat := if s.manage.grade = .st640 then 10 else 9

/-- Whether the device has a position (R317). -/
def State.hasPosition (s : State) : Bool :=
  decide (s.manage.straps.slot.toNat ≤ 63) && decide (s.manage.straps.role ≠ 3#2) &&
  (match s.manage.sheet with
   | some sh => decide (sh.slot = s.manage.straps.slot.toNat)
   | none => false)

/-- The device ID (R316), or 0x3_FFFE without a position (R317). -/
def State.deviceId (s : State) : Nat :=
  if s.hasPosition then s.manage.rack * 64 + s.manage.straps.slot.toNat else 0x3FFFE

/-! ## Time (R34, R35, R61) -/

/-- Wall time. -/
def State.wallNow (s : State) : Nat := s.time.wall.toNat

/-- Plan time: frozen, or wall time minus the plan offset. -/
def State.planNow (s : State) : Int :=
  match s.time.frozen with
  | some t => t
  | none => (s.time.wall - s.time.offset).toInt

/-- Whether a device state is one of TB_STATUS.INTAKE: ARMED, RUNNING or HOLDING. -/
def DevState.intake : DevState → Bool
  | .armed | .running | .holding => true
  | _ => false

/-- Whether the device is in a take: from ARMED until the take ends, DRAINING and FENCED included (DEDUCED, log 13). -/
def DevState.inTake : DevState → Bool
  | .armed | .running | .holding | .draining | .fenced => true
  | _ => false

/-- HI_STATUS.STATE of a device state (Table 12.13). -/
def DevState.code : DevState → Nat
  | .off => 0
  | .boot => 1
  | .ready => 2
  | .loaded => 3
  | .armed => 4
  | .running => 5
  | .holding => 6
  | .draining => 7
  | .fenced => 8
  | .failed => 9

/-- Whether plan time runs: it started and nothing froze it. -/
def State.planRuns (s : State) : Bool := s.time.frozen.isNone

/-- The first gate at or after D + M from now (R54). -/
def State.eligibleGate (s : State) : Int :=
  ceilMul (s.planNow + s.fget Reg.TB_HOLD_CFG_DIAM + s.fget Reg.TB_HOLD_CFG_MARGIN) 4096

/-- Whether the HOLDOVER flag marks what the device reports (R67). -/
def State.holdover (s : State) : Bool := s.flag Reg.TB_STATUS_HOLDOVER

/-- Whether a replay stop or FENCED suppresses hold requests (R462). -/
def State.stopped (s : State) : Bool := s.time.stop.isSome || decide (s.dev = .fenced)

/-- The take tag of the active reel. -/
def State.takeTag (s : State) : Nat :=
  match s.take.active with
  | some r => r.take
  | none => 0

/-! ## Live views of registers

The state that a register shows and that State holds elsewhere is not stored twice; a read computes it. -/

/-- TB_TRAVEL_DEV: Table 02.2. -/
def travelDev (g : Grade) (k : Nat) : Nat :=
  match g with
  | .st640 => [12, 24, 48, 30, 54, 180, 210, 20, 44, 20, 44, 16, 40, 6, 3, 8].getD k 0
  | .st636 => [13, 26, 52, 32, 58, 182, 212, 22, 48, 22, 48, 18, 44, 7, 3, 8].getD k 0

/-- Recovery state codes (FC_STATUS.RSTATE). -/
def RState.code : RState → Nat
  | .run => 0
  | .pend => 1
  | .stop => 2
  | .fenced => 3
  | .failed => 4

/-- Admission state codes (FC_ADMIT.STATE). -/
def AState.code : AState → Nat
  | .idle => 0
  | .copying => 1
  | .complete => 2
  | .incomplete => 3
  | .joined => 4

/-- Election state codes (DD_STATUS.ESTATE). -/
def EState.code : EState → Nat
  | .undecided => 0
  | .settled => 1
  | .isolated => 2
  | .contra => 3

/-- Context state codes (SV_CTX_STATE.STATE). -/
def CtxState.code : CtxState → Nat
  | .free => 0
  | .prefill => 1
  | .active => 2
  | .idle => 3
  | .exhausted => 4
  | .faulted => 5
  | .held => 7

/-- A log record's 64 bytes (Table 15.3). -/
def LogRec.bytes (r : LogRec) : List Byte :=
  toBytes 4 r.seq ++ toBytes 1 r.event ++
  toBytes 1 (r.cls + 8 * b2n r.holdover + 16 * b2n r.snap + 32 * b2n r.inTake) ++ toBytes 2 r.rep ++ toBytes 8 r.wall ++
  toBytes 8 (unsignedOf 64 r.plan) ++ toBytes 4 (min r.span 0xFFFFFFFF) ++ toBytes 2 (r.kind * 0x4000 + r.unit) ++
  toBytes 2 0 ++ toBytes 4 r.detail ++ (r.snaps ++ List.replicate (7 - r.snaps.length) 0).flatMap fun (w : Word) => toBytes 4 w.toNat

/-- A summary's 1,024 bytes (R430). -/
def Summary.bytes (m : Summary) : List Byte :=
  toBytes 8 m.wall ++ toBytes 4 m.index ++ toBytes 4 (b2n m.holdover) ++ List.replicate 16 0 ++
  ((upFrom 0 160).flatMap fun k => toBytes 4 (mapGet (fun _ => 0) m.counts k)) ++
  ((upFrom 0 9).flatMap fun k => toBytes 4 (mapGet (fun _ => 0) m.holds k)) ++ List.replicate 28 0 ++
  ((upFrom 0 8).flatMap fun k =>
    toBytes 4 (mapGet (fun _ => (0, 0)) m.extremes k).1 ++ toBytes 2 (mapGet (fun _ => (0, 0)) m.extremes k).2 ++ toBytes 2 0) ++
  List.replicate 224 0

/-- A 32-bit word at a byte offset of a byte list. -/
def wordAt (bs : List Byte) (off : Nat) : Word := BitVec.ofNat 32 (ofBytes ((bs.drop off).take 4))

/-- Whether the recorder profile is dailies. -/
def State.dailies (s : State) : Bool := s.flag Reg.CN_CFG_PROFILE

/-- A die's log: 0 West, 1 East. -/
def State.dieLog (s : State) (d : Nat) : DieLog := if d = 0 then s.log.west else s.log.east

/-- Store a die's log. -/
def State.setDieLog (s : State) (d : Nat) (l : DieLog) : State :=
  if d = 0 then { s with log.west := l } else { s with log.east := l }

/-- A word of a log window (R438): the record ring, or the interval summaries from +0x1_0000 in dailies. -/
def State.logWindow (s : State) (d o : Nat) : Word :=
  let l := s.dieLog d
  if s.dailies then
    if o < 0x4000 then
      match l.recs.find? fun r => decide (r.seq % 256 = o / 64) with
      | some r => wordAt r.bytes (o % 64)
      | none => 0
    else if 0x10000 ≤ o ∧ o < 0x30000 then
      match l.closed.find? fun m => decide (m.index % 128 = (o - 0x10000) / 1024) with
      | some m => wordAt m.bytes ((o - 0x10000) % 1024)
      | none => 0
    else 0
  else
    match l.recs.find? fun r => decide (r.seq % 4096 = o / 64) with
    | some r => wordAt r.bytes (o % 64)
    | none => 0

/-- Bytes of one recorded entry: a 32-byte header and its payload padded to 32 bytes (Table 15.5). -/
def RecEntry.size (e : RecEntry) : Nat := 32 + 32 * ceilDiv (8 * e.words.length + 64 * e.entries.length + e.data.length) 32

/-- Write a field into a word of a view. -/
def Fld.into (f : Fld) (v : Nat) (w : Word) : Word := setBits w (f.hi % 32) (f.lo % 32) v

/-- Flits that a receiver buffers for a virtual channel (R293). -/
def bufferSize (vc : Nat) : Nat := [128, 128, 384].getD vc 0

/-- Credits left of a virtual channel: the buffer's, less flits sent and not freed, both counted modulo 2^32; never above the
buffer's. -/
def Link.credits (k : Link) (vc : Nat) : Nat :=
  bufferSize vc - (signedOf 32 ((k.sent.getD vc 0 + 2 ^ 32 - k.partnerFreed.getD vc 0) % 2 ^ 32)).toNat

/-- Codeword slots that have passed since training: a codeword takes 45/17 ticks on four lanes, 60/17 on three, 90/17 on two
(Table 10.1). The count that both ends keep is its low 32 bits (R283). -/
def Link.slot (k : Link) (now lanes : Nat) : Nat := k.slotBase + (now - k.slotFrom) * 17 * lanes / 180

/-- Flit slots per frame that a link guarantees at a lane count (Table 10.1). -/
def linkSlots (lanes : Nat) : Nat := if lanes = 4 then 192 else if lanes = 3 then 144 else 96

/-- A controller's receive latency at a lane count, in ticks (R284). -/
def rxLatency (lanes : Nat) : Nat := if lanes = 4 then 24 else if lanes = 3 then 27 else 32

/-- The travel of a link at a lane count (R284). -/
def State.linkTravel (s : State) (l lanes : Nat) : Nat :=
  (s.link l).delay + 1 + 6 + rxLatency lanes + ceilDiv (s.fget (Reg.LK_CFG_NPMAX l) * 512) (linkSlots lanes)

/-- The round trip of a link (Table 10.13). -/
def State.linkRtt (s : State) (l : Nat) : Nat :=
  2 * ((s.link l).delay + 1) + 2 * (6 + rxLatency (s.fget (Reg.LK_STATUS_LANES l)))

/-- Whether a link has trained and been slated. -/
def State.slated (s : State) (l : Nat) : Bool := s.flag (Reg.TB_TRAVEL_LINK_VALID l)

/-- The highest class among the queued records. -/
def topClass : List FaultRec → Nat
  | [] => 0
  | r :: rs => max r.cls (topClass rs)

/-- What the timebase registers show. -/
def State.viewTime (s : State) (off : Nat) (w : Word) : Word :=
  let o := off - 0x100000
  if o = 0x0 then BitVec.ofNat 32 s.wallNow
  else if o = 0x4 then BitVec.ofNat 32 (s.wallNow / 2 ^ 32)
  else if o = 0x8 then BitVec.ofNat 32 (unsignedOf 64 s.planNow)
  else if o = 0xC then BitVec.ofNat 32 (unsignedOf 64 s.planNow / 2 ^ 32)
  else if o = 0x10 then BitVec.ofNat 32 s.time.offset.toNat
  else if o = 0x14 then BitVec.ofNat 32 (s.time.offset.toNat / 2 ^ 32)
  else if o = 0x18 then
    Reg.TB_STATUS_HOLDING.into (b2n (s.dev.inTake && s.time.frozen.isSome))
      (Reg.TB_STATUS_OPEN.into (b2n s.stopped) (Reg.TB_STATUS_INTAKE.into (b2n s.dev.intake) w))
  else if o = 0x2C then (if s.time.slewEnd ≤ s.wallNow then 0 else w)
  else if o = 0x40 then Reg.TB_HOLD_STAT_PEND.into s.time.gates.length w
  else if 0x100 ≤ o ∧ o < 0x140 then BitVec.ofNat 32 (travelDev s.manage.grade ((o - 0x100) / 4))
  else if 0x200 ≤ o ∧ o < 0x300 then
    let l := (o - 0x200) / 4
    if s.slated l then (Reg.TB_TRAVEL_LINK_TICKS l).into (min 0xFFFF (s.linkTravel l (s.fget (Reg.LK_STATUS_LANES l)))) w else w
  else w

/-- Where control goes from an address: arms end, bodies repeat, a finished loop pads (R189, R190). The result is the address,
the stack, the padding cycles, and the loop index to write. -/
def flow : Nat → Nat → List Ctl → Nat → Nat × List Ctl × Nat × Option (Nat × Nat)
  | 0, p, st, pad => (p, st, pad, none)
  | fuel + 1, p, st, pad =>
    match st with
    | [] => (p, [], pad, none)
    | .arm e r :: rest => if p = e then flow fuel r rest pad else (p, st, pad, none)
    | .loop start len left count max si :: rest =>
      if p = start + len then
        if left = 0 then flow fuel p rest (pad + (max - count) * len)
        else (start, .loop start len (left - 1) count max si :: rest, pad, some (si, count - left))
      else (p, st, pad, none)

/-- Where a sequencer goes from its current bundle: address, stack, padding cycles, and the loop index to write. -/
def Seq.next (q : Seq) : Nat × List Ctl × Nat × Option (Nat × Nat) :=
  if q.fresh then (q.pc, q.stack, 0, none) else flow (q.stack.length + 1) (q.jump.getD (q.pc + 1)) q.stack q.skip

/-- Whether a cluster's current bundle is over: a later cycle has been reached, or more ticks have passed than its cycles take, each
less than a tick (R29, R31). -/
def State.bundleOver (s : State) (cl : Nat) : Bool :=
  let q := s.seq cl
  decide (q.at_ + q.dur ≤ q.now) || decide (q.nowAt + q.dur < s.wallNow)

/-- Whether a cluster issues in a lull run, in loop padding or after LAST (CL_SEQ_STATE.LULL). -/
def State.inLull (s : State) (cl : Nat) : Bool :=
  let q := s.seq cl
  q.running && !q.fresh && (q.lull || (s.bundleOver cl && (q.ended || decide (0 < q.next.2.2.1))))

/-- What the sequencer registers show. -/
def State.viewSeq (s : State) (off : Nat) (w : Word) : Word :=
  let c := (off - 0x200000) / 0x100000
  if off % 0x10000 = 0x10 then
    let q := s.seq c
    (Reg.CL_SEQ_STATE_SHAPE c).into s.take.shape ((Reg.CL_SEQ_STATE_SEGMENT c).into q.cueIdx
      ((Reg.CL_SEQ_STATE_WAITING c).into (b2n q.wait.isSome) ((Reg.CL_SEQ_STATE_LULL c).into (b2n (s.inLull c)) w)))
  else w

/-- Frames for which the head of a drizzle queue has waited; MAXWAIT saturates. -/
def State.headWait (s : State) : List DrizzleReq → Nat
  | [] => 0
  | r :: _ => min 0xFFFF (s.wallNow / 512 - r.since)

/-- What the core slot registers show. -/
def State.viewSlot (s : State) (off : Nat) (w : Word) : Word :=
  let c := (off - 0x200000) / 0x100000
  let p := off % 0x100000 / 0x10000 - 1
  if off % 0x10000 ≠ 0 ∧ s.flag (Reg.CL_SLOT_ID_MAPPED c p) = false then 0
  else if off % 0x10000 = 0x20 then
    let d := (s.core (16 * c + p)).drizzle
    let busy := s.flag (Reg.CL_SCRUB_BUSY c p)
    (Reg.CL_DRZ_STAT_DEPTH c p).into (if busy then 0 else min 32 d.length)
      ((Reg.CL_DRZ_STAT_MAXWAIT c p).into (max (s.fget (Reg.CL_DRZ_STAT_MAXWAIT c p)) (if busy then 0 else s.headWait d)) w)
  else w

/-- What the link registers show. -/
def State.viewLink (s : State) (off : Nat) (w : Word) : Word :=
  let l := (off - 0xA00000) / 0x10000
  if off % 0x10000 = 0x50 then
    let k := s.link l
    if k.credited = false then w
    else (Reg.LK_CREDIT_VC2 l).into (k.credits 2) ((Reg.LK_CREDIT_VC1 l).into (k.credits 1) ((Reg.LK_CREDIT_VC0 l).into (k.credits 0) w))
  else if off % 0x10000 = 0x18 then
    if s.slated l then (Reg.LK_RTT_RTT l).into (min 0xFFFF (s.linkRtt l)) w else w
  else if off % 0x10000 = 0x4 then
    (Reg.LK_STATUS_LONG l).into (b2n (s.slated l && decide (2400 < s.linkRtt l))) w
  else w

/-- What the serving registers show. -/
def State.viewServe (s : State) (off : Nat) (w : Word) : Word :=
  let o := off - 0xE00000
  let x := s.ctx (s.fget Reg.SV_CTX_SEL_CTX)
  if o = 0x3C then Reg.SV_MIRROR_STAT_LAG.into s.serve.unacked.length w
  else if o = 0x68 then
    Reg.SV_CTX_STATE_STATE.into x.st.code (Reg.SV_CTX_STATE_MIRROR.into (b2n x.mirror)
      (Reg.SV_CTX_STATE_METER.into (if s.fget Reg.SV_CTRL_ROLE = 1 then x.meter else 0) w))
  else if o = 0x6C then BitVec.ofNat 32 x.commit
  else w

/-- What the host interface registers show. -/
def State.viewHost (s : State) (off : Nat) (w : Word) : Word :=
  if off = 0x1100000 then
    Reg.HI_STATUS_STRAP.into s.manage.straps.role.toNat (Reg.HI_STATUS_CSVALID.into (b2n s.manage.sheet.isSome)
      (Reg.HI_STATUS_XPEND.into (b2n s.take.exchange.isSome) (Reg.HI_STATUS_STAGED.into (b2n s.take.staged.isSome)
        (Reg.HI_STATUS_STATE.into s.dev.code w))))
  else w

/-- What the HI_PX registers show: LIVE while a slot answered within the last 1 ms. -/
def State.viewPx (s : State) (off : Nat) (w : Word) : Word :=
  let n := (off - 0x1101000) / 0x40
  if off % 0x40 = 0 then
    let live := match mapFind s.host.heard n with
      | some t => decide (s.wallNow ≤ t + 1000000)
      | none => false
    (Reg.HI_PX_DEV_LIVE n).into (b2n live) w
  else w

/-- What the fault collector registers show. -/
def State.viewFault (s : State) (off : Nat) (w : Word) : Word :=
  let o := off - 0x1200000
  if o = 0x0 then
    Reg.FC_STATUS_RSTATE.into s.faults.rstate.code (Reg.FC_STATUS_HCLASS.into (topClass s.faults.queue)
      (Reg.FC_STATUS_DEPTH.into s.faults.queue.length (Reg.FC_STATUS_OVF.into (b2n s.faults.overflow) w)))
  else if o = 0x58 then Reg.FC_ADMIT_STATE.into s.faults.admission.code w
  else w

/-- What the security registers show. -/
def State.viewSecurity (s : State) (off : Nat) (w : Word) : Word :=
  let o := off - 0x1500000
  let m := s.manage
  if 0x10 ≤ o ∧ o < 0x30 then
    match m.keys.getD ((o - 0x10) / 4) { hash := 0, valid := false, revoked := false, use := 0 } with
    | ⟨_, valid, revoked, use⟩ => BitVec.ofNat 32 (2 ^ 31 * b2n valid + 2 ^ 30 * b2n revoked + 2 ^ 20 * use.toNat)
  else if o = 0x30 then Reg.SC_ROLLBACK_MINVER.into m.minver w
  else w

/-- What the continuity log registers show. -/
def State.viewLog (s : State) (off : Nat) (w : Word) : Word :=
  let o := off - 0x1300000
  if o = 0x40 then BitVec.ofNat 32 s.log.west.next
  else if o = 0x44 then BitVec.ofNat 32 s.log.east.next
  else if o = 0x50 then Reg.CN_REC_HELD.into ((s.log.entries.map (RecEntry.size ·)).sum / 32) w
  else w

/-- The value that a register of BAR0 shows at a 4-byte aligned offset; offsets that no table lists read 0 (R439). -/
def State.view (s : State) (off : Nat) : Word :=
  if 0x1340000 ≤ off ∧ off < 0x13C0000 then s.logWindow ((off - 0x1340000) / 0x40000) ((off - 0x1340000) % 0x40000)
  else
    match blockOf off, rowOf off with
    | some (b, _), some _ =>
      let w := s.reg off
      match b with
      | .ident => if off = 4 then BitVec.ofNat 32 (s.manage.step.toNat * 0x10000 + s.planf * 0x100 + 4 * s.vcores) else w
      | .tb => s.viewTime off w
      | .seq => s.viewSeq off w
      | .slot => s.viewSlot off w
      | .lk => s.viewLink off w
      | .sv => s.viewServe off w
      | .hi => s.viewHost off w
      | .fc => s.viewFault off w
      | .sc => s.viewSecurity off w
      | .cn => s.viewLog off w
      | .px => s.viewPx off w
      | .hm | .fe | .pw | .dd => w
    | _, _ => 0

/-! ## The continuity log (R426 to R430) -/

/-- The die of a unit: kind 1 core (cluster × 16 + slot), 2 link, 3 stack; device-wide blocks are West (R426, Table 11.1). -/
def dieOf (kind unit : Nat) : Nat :=
  if kind = 1 then (if unit < 32 then 0 else 1)
  else if kind = 2 then (if unit < 32 then 0 else 1)
  else if kind = 3 then (if unit < 4 then 0 else 1)
  else 0

/-- The die of a BAR0 offset's block (R427). -/
def dieOfReg (off : Nat) : Nat :=
  if 0x400000 ≤ off ∧ off < 0x600000 then 1
  else if 0x880000 ≤ off ∧ off < 0x900000 then 1
  else if 0xC00000 ≤ off ∧ off < 0xE00000 then 1
  else 0

/-- The snapshot registers as a die reads them (R427). -/
def State.snapshot (s : State) (d : Nat) : List Word :=
  (upFrom 0 7).map fun k =>
    let off := s.fget (Reg.CN_SNAPREG_OFFSET k)
    if off = 0 ∨ dieOfReg off ≠ d then 0 else s.view (off / 4 * 4)

/-- Whether dailies keeps a record of an event (R426). -/
def dailiesKeeps (ev cls : Nat) : Bool := decide (3 ≤ cls) || (decide (0x84 ≤ ev) && decide (ev ≤ 0x8B))

/-- Whether a new event folds into a record (R428). -/
def LogRec.folds (r : LogRec) (ev cls unit detail : Nat) : Bool :=
  decide (r.event = ev) && decide (r.cls = cls) && decide (r.unit = unit) && decide (r.detail = detail) &&
  decide (r.rep < 0xFFFF) && decide (ev ≠ 0x86)

/-- Keep the newest `n` of a list whose newest element is last. -/
def keepLast {α : Type} (n : Nat) (l : List α) : List α := l.drop (l.length - n)

/-- Log an event on a die (R427 to R429): fold it, or write a new record. -/
def State.logOn (s : State) (d ev cls kind unit detail : Nat) : State :=
  let l := s.dieLog d
  let daily := s.dailies
  let counts := mapPut (fun _ => 0) l.cur.counts ev (satAdd 32 (mapGet (fun _ => 0) l.cur.counts ev) 1)
  let cur := if daily then { l.cur with counts := counts } else l.cur
  let l := { l with cur := cur }
  if daily && !dailiesKeeps ev cls then s.setDieLog d l
  else
    match l.recs.getLast? with
    | some r =>
      if r.folds ev cls unit detail then
        s.setDieLog d { l with recs := l.recs.dropLast ++ [{ r with rep := r.rep + 1, span := s.wallNow - r.wall }] }
      else s.setDieLog d (append l daily)
    | none => s.setDieLog d (append l daily)
where
  /-- A new record at the end of the ring, the oldest dropped from a full one. -/
  append (l : DieLog) (daily : Bool) : DieLog :=
    let snap := bitOf (s.fget Reg.CN_CFG_TRIGMASK) cls
    let plan := if s.dev.intake then s.planNow else 0
    let snaps := if snap then s.snapshot d else []
    let r : LogRec :=
      { seq := l.next, event := ev, cls := cls, holdover := s.holdover, snap := snap, inTake := s.dev.intake, rep := 0,
        wall := s.wallNow, plan := plan, span := 0, kind := kind, unit := unit, detail := detail, snaps := snaps }
    { l with next := l.next + 1, recs := keepLast (if daily then 256 else 4096) (l.recs ++ [r]) }

/-- Log an event on the die of its unit. -/
def State.logEvent (s : State) (ev cls kind unit detail : Nat) : State :=
  s.logOn (dieOf kind unit) ev cls kind unit (detail % 2 ^ 32)

/-- Keep an extreme of the open interval summary (R430). -/
def State.extreme (s : State) (kind unit k v : Nat) : State :=
  if s.dailies then
    let d := dieOf kind unit
    let l := s.dieLog d
    let old := (mapGet (fun _ => (0, 0)) l.cur.extremes k).1
    let ext := mapPut (fun _ => (0, 0)) l.cur.extremes k (min v 0xFFFFFFFF, kind * 0x4000 + unit)
    if old < v then s.setDieLog d { l with cur := { l.cur with extremes := ext } } else s
  else s

/-- An F0 notice that Table 13.2 gives no source (R366): counted and logged under a free EVENT and DETAIL (log 14). -/
def State.notice (s : State) (rule about : Nat) : State :=
  (s.bump (Reg.FC_COUNT_COUNT 0)).logEvent (Config.noticeEvent rule).toNat 0 0 0 (Config.noticeDetail rule about).toNat

/-! ## Device states (Table 12.7) -/

/-- Enter a device state, logging event 0x83 and telling management (R418). -/
def State.setDev (s : State) (d : DevState) : State :=
  if s.dev = d then s
  else
    let x := s.dev.code * 16 + d.code
    { (s.logEvent 0x83 0 0 0 x).emit (.platformEvent 0x83 x) with dev := d }

/-! ## Hold markers (R53 to R60) -/

/-- Whether a link may carry hold markers of the take: in use, in ALIGNCHK or UP, and its cabling check a match (R56, R320). -/
def State.carriesTake (s : State) (l : Nat) : Bool :=
  s.flag (Reg.LK_STATUS_INUSE l) && decide (3 ≤ s.fget (Reg.LK_STATUS_STATE l)) &&
  decide (s.fget (Reg.LK_STATUS_STATE l) ≤ 4) && decide (s.fget (Reg.LK_CABLE_RESULT l) = 1)

/-- The links of the take, in ascending order. -/
def State.takeLinks (s : State) : List Nat := (upFrom 0 64).filter (s.carriesTake ·)

/-- Send one ordered set on each link of a list. -/
def State.emitAll (s : State) (f : Nat → Out) : List Nat → State
  | [] => s
  | l :: ls => (s.emit (f l)).emitAll f ls

/-- The low 20 bits of a gate index (Table 02.4). -/
def gateLow (g : Int) : Nat := (g % 2 ^ 20).toNat

/-- Send a HOLD ordered set three times on each link of a list, as copies 0, 1 and 2 (R305). -/
def State.emitHold (s : State) (take : Nat) (g : Int) (frames reason origin : Nat) (ls : List Nat) : State :=
  let f := fun c l => Out.hold l take (gateLow g) frames reason origin c
  ((s.emitAll (f 0) ls).emitAll (f 1) ls).emitAll (f 2) ls

/-- What merging a marker into the pending-gate table found (R58 to R60). -/
inductive Merge where
  | same | changed | full | late
deriving DecidableEq, Repr

/-- Merge a length by maximum and a reason by union (R58). -/
def PendGate.merge (q : PendGate) (frames reason : Nat) : PendGate :=
  { q with frames := max q.frames frames, reasons := q.reasons ||| BitVec.ofNat 7 (2 ^ reason) }

/-- Merge a request for the gate with a given index (R58 to R60). -/
def mergeGate (gs : List PendGate) (now g : Int) (frames reason : Nat) : Merge × List PendGate :=
  if g * 4096 ≤ now then (.late, gs)
  else
    match gs.find? fun p => decide (p.gate = g) with
    | some p =>
      if frames ≤ p.frames ∧ bitOf p.reasons.toNat reason then (.same, gs)
      else (.changed, gs.map fun q => if q.gate = g then q.merge frames reason else q)
    | none =>
      if gs.length < 4 then
        let p : PendGate := { gate := g, frames := frames, reasons := BitVec.ofNat 7 (2 ^ reason) }
        (.changed, insertBy (·.gate) p gs)
      else (.full, gs)

/-- The length already merged for a gate. -/
def pendingFrames (gs : List PendGate) (g : Int) : Option Nat :=
  (gs.find? fun p => decide (p.gate = g)).map (·.frames)

/-- A request's marker at a gate (R54, R56): merged into the device's own table and sent on every link of the take. One that finds
the table full is sent and sets LATEMARK (R59). -/
def State.placeMarker (s : State) (g : Int) (frames reason : Nat) : State :=
  match mergeGate s.time.gates s.planNow g frames reason with
  | (m, gs) =>
    let s := { s with time.gates := gs }
    let s := if m = .full ∨ m = .late then s.fsetb Reg.TB_HOLD_REASON_LATEMARK true else s
    let s := if s.faults.rstate = .run then { s with faults.rstate := .pend } else s
    s.emitHold s.takeTag g frames reason s.deviceId s.takeLinks

/-! ## Fault records (R364 to R367) -/

/-- The class of a source (Table 13.2). -/
def sourceClass (src : Nat) : Nat :=
  if src < 0x07 then 1
  else if src < 0x10 then 0
  else if src < 0x20 then 2
  else if src < 0x40 then 3
  else 4

/-- Count and log an event under its source, and keep it in FC_LAST and FC_FIRST (R366, Table 13.12). -/
def State.record (s : State) (src kind unit detail : Nat) : State :=
  let cls := sourceClass src
  let s := s.bump (Reg.FC_COUNT_COUNT cls)
  let s := s.logEvent src cls kind unit detail
  if cls < 2 then s
  else
    let s := s.emit (.platformEvent src (detail % 2 ^ 32))
    let q := (s.wallNow % 2 ^ 63 + b2n s.holdover * 2 ^ 63) * 2 ^ 64 + detail % 2 ^ 32 * 2 ^ 32 + 2 ^ 31 + cls * 2 ^ 28 +
      src * 2 ^ 16 + kind * 2 ^ 14 + unit
    let s := s.fset ⟨Reg.FC_LAST, 127, 0⟩ q
    if 3 ≤ cls ∧ s.flag Reg.FC_FIRST_VALID = false then s.fset ⟨Reg.FC_FIRST, 127, 0⟩ q else s

/-- Enter FAILED (R367): the links fall silent. -/
def State.enterFailed (s : State) : State :=
  if s.dev = .failed ∨ s.dev = .off then s
  else
    let s := (s.setDev .failed)
    let t := { s.time with frozen := some s.planNow, gates := [], hold := none, stop := none }
    let s := { s with faults.rstate := .failed, time := t }
    s.emitAll (fun l => .transmitterOff l) ((upFrom 0 64).filter fun l => decide (2 ≤ s.fget (Reg.LK_STATUS_STATE l)))

/-- Discard the VC2 packets that no link has launched (R373). -/
def State.dropVc2 (s : State) : State :=
  { s with links := mapAll (fun _ => Link.initial) (fun k => { k with vc2 := [] }) s.links }

/-- Empty the landing stages and drop what is on its way to them (R373). -/
def State.emptyLandings (s : State) : State :=
  let cores := mapAll (fun _ => Core.initial) (fun c => { c with landing := [], inflight := [] }) s.cores
  let hbmStacks := mapAll (fun _ => Stack.initial) (fun k => { k with landing := [] }) s.hbmStacks
  { s with cores := cores, hbmStacks := hbmStacks }

/-- Stop plan time where it is. -/
def State.freeze (s : State) : State := { s with time.frozen := some s.planNow }

/-- Enter FENCED (R382): plan time stopped, VC2 discarded, no gate pending. -/
def State.fence (s : State) : State :=
  if s.dev.inTake && !decide (s.dev = .fenced) then
    let s := s.freeze.setDev .fenced
    let t := { s.time with gates := [], hold := none, stop := none }
    { s.dropVc2.emptyLandings with faults.rstate := .fenced, time := t }
  else s

end Sys2Proof.Machine
end

