-- ==== Sys2Proof/Machine/Packets.lean ====
section
/-! DEFINITION. Packets on their way out: label tables, paths, splitting into packets, transmit queues and the hold of VC0
packets on a changed path (R286, R292, R323 to R328). -/

namespace Sys2Proof.Machine

/-! ## Labels (Table 11.3) -/

/-- The key of a label entry: the injection table, or a link's receive table. -/
def labelKey (table : Option Nat) (i : Nat) : Nat :=
  match table with
  | none => i
  | some l => (l + 1) * 256 + i

/-- A label entry as installed. -/
def State.label (s : State) (table : Option Nat) (i : Nat) : Nat :=
  (mapGet (fun _ => (0 : DWord)) s.take.labels (labelKey table i)).toNat

/-- VALID. -/
def labelValid (e : Nat) : Bool := bitOf e 63

/-- DELIVER. -/
def labelDeliver (e : Nat) : Bool := bitOf e 62

/-- OUTLINK. -/
def labelOut (e : Nat) : Nat := bitsOf 61 56 e

/-- NEXT. -/
def labelNext (e : Nat) : Nat := bitsOf 55 48 e

/-- REMT. -/
def labelRemt (e : Nat) : Nat := bitsOf 47 32 e

/-- LEAD. -/
def labelLead (e : Nat) : Nat := bitsOf 31 16 e

/-- Whether an entry sends a packet on. -/
def labelSends (e : Nat) : Bool := labelValid e && !labelDeliver e

/-! ## Links as paths -/

/-- The plane links in ascending number (Table 11.1). -/
def planeLinks : List Nat := upFrom 0 16 ++ upFrom 32 16

/-- LK_STATUS.STATE of UP. -/
def stateUp : Nat := 4

/-- LK_STATUS.STATE of ALIGNCHK. -/
def stateAlign : Nat := 3

/-- The state of a link. -/
def State.linkState (s : State) (l : Nat) : Nat := s.fget (Reg.LK_STATUS_STATE l)

/-- Whether a link's cabling check says MATCH. -/
def State.matched (s : State) (l : Nat) : Bool := decide (s.fget (Reg.LK_CABLE_RESULT l) = 1)

/-- The link of the rack-local default route: the lowest-numbered plane link that is UP and MATCH (R327). -/
def State.defaultLink (s : State) : Option Nat :=
  planeLinks.find? fun l => decide (s.linkState l = stateUp) && s.matched l

/-- The path of a VC0 or VC1 packet by its label: link, new ROUTE, REMT. -/
def State.lowPath (s : State) (route : Nat) : Option (Nat × Nat × Nat) :=
  if route = 0xFF then s.defaultLink.map fun l => (l, 0xFF, 0)
  else
    let e := s.label none route
    if labelSends e then some (labelOut e, labelNext e, labelRemt e) else none

/-! ## Packets -/

/-- Flits of a packet that carries `n` data bytes. -/
def flitsOf (n : Nat) : Nat := (32 + n + 255) / 256

/-- Flits of a packet. -/
def Packet.flits (p : Packet) : Nat := p.nflit + 1

/-- Data bytes of the largest packet on a link: 16 flits, but NPMAX flits for VC0 and VC1 on a link in use during ARMED,
RUNNING and HOLDING (R286, R292). -/
def State.maxData (s : State) (l vc : Nat) : Nat :=
  if vc < 2 ∧ s.dev.intake = true ∧ s.flag (Reg.LK_STATUS_INUSE l) = true then 256 * s.fget (Reg.LK_CFG_NPMAX l) - 32
  else 4064

/-- Split bytes into runs of at most `m`: offset, bytes, granule flags. -/
def splitRun (m : Nat) : Nat → Nat → List Byte → List Bool → List (Nat × List Byte × List Bool)
  | 0, _, _, _ => []
  | fuel + 1, off, bs, ps =>
    if bs.isEmpty then []
    else (off, bs.take m, ps.take (m / 8)) :: splitRun m fuel (off + m) (bs.drop m) (ps.drop (m / 8))

/-- A packet with one run of data. -/
def Packet.withRun (p : Packet) (addr : Nat) (bs : List Byte) (ps : List Bool) : Packet :=
  { p with daddr := addr, data := bs, poison := ps, nflit := flitsOf bs.length - 1 }

/-- The packets of a transfer, in ascending destination address; a void transfer is one packet without data (R286). -/
def packetsOf (p : Packet) (m : Nat) (rows : List (Nat × List Byte × List Bool)) : List Packet :=
  if rows.isEmpty then [p.withRun p.daddr [] []]
  else
    (sortBy (fun r => (r.1 : Int)) rows).flatMap fun r =>
      (splitRun m r.2.1.length 0 r.2.1 r.2.2).map fun x => p.withRun (r.1 + x.1) x.2.1 x.2.2

/-! ## Transmit queues (R291, R292, R325) -/

/-- A packet that has not been sent: `launch` is the tick before which it may not start, `ready` the plan tick at which it joins
the queue. -/
def TxPacket.fresh (p : Packet) (launch ready : Int) : TxPacket :=
  { pkt := p, seq := none, rewinds := 0, launch := launch, readyAt := ready, entry := none, bad := false, inLink := none }

/-- Queue a packet at the end of its channel. -/
def Link.queue (k : Link) (t : TxPacket) : Link :=
  match t.pkt.vc with
  | 2 => { k with vc2 := k.vc2 ++ [t] }
  | 1 => { k with vc1 := k.vc1 ++ [t] }
  | _ => { k with vc0 := k.vc0 ++ [t] }

/-- Queue a packet on a link. -/
def State.queueTx (s : State) (l : Nat) (p : Packet) : State :=
  s.setLink l ((s.link l).queue (TxPacket.fresh p 0 s.planNow))

/-- The injected VC2 packet that launches first: ascending launch tick, then order of arrival (R325). -/
def firstLaunch (ts : List TxPacket) : Option TxPacket :=
  (sortBy TxPacket.launch (ts.filter fun t => t.entry.isSome)).head?

/-- The VC2 packet that starts at a packet boundary at plan tick `now`: of the first forwarded packet and the first injected one
whose launch tick has come, the one whose first flit became ready first, the forwarded one on a tie (R325, R326). -/
def pickVc2 (ts : List TxPacket) (now : Int) : Option TxPacket :=
  match ts.find? (fun t => t.entry.isNone), (firstLaunch ts).filter fun t => decide (t.launch ≤ now) with
  | some f, some i => if f.readyAt ≤ max i.launch i.readyAt then some f else some i
  | some f, none => some f
  | none, i => i

/-! ## Receiving (R282, R305) -/

/-- Update a link controller. -/
def State.onLink (s : State) (l : Nat) (f : Link → Link) : State := s.setLink l (f (s.link l))

/-- A codeword decodes on a link. -/
def State.codeword (s : State) (l : Nat) : State := s.onLink l fun k => { k with codeTick := s.wallNow }

/-- Whether a HOLD or CUT set is a further copy of the one received last on the link (R305). -/
def Link.further (k : Link) (copy : Nat) (content : List Nat) : Bool :=
  match k.lastSet with
  | some (c, x) => decide (c < copy) && decide (x = content)
  | none => false

/-- Receive one copy of a HOLD or CUT set. -/
def State.receiveSet (s : State) (l copy : Nat) (content : List Nat) : State :=
  (s.codeword l).onLink l fun k => { k with lastSet := some (copy, content) }

/-! ## Channel counts and returned credits (R293, R295) -/

/-- Add to one channel's count, modulo 2^32. -/
def addCount (cs : List Nat) (vc n : Nat) : List Nat := listSet cs vc ((cs.getD vc 0 + n) % 2 ^ 32)

/-- Take from one channel's count, modulo 2^32. -/
def subCount (cs : List Nat) (vc n : Nat) : List Nat := listSet cs vc ((cs.getD vc 0 + 2 ^ 32 - n % 2 ^ 32) % 2 ^ 32)

/-- Receive buffer space is freed: its credits return in an ACK field, which repeats the last accepted SEQ (R293, R295). -/
def State.freeFlits (s : State) (l vc n : Nat) : State :=
  let k := s.link l
  (s.setLink l { k with freed := addCount k.freed vc n }).emit (.ackSent l false k.lastAcc vc n)

/-- UDRAIN of the active reel, at most 65,536 ticks (R328). -/
def State.udrain (s : State) : Nat :=
  match s.take.active with
  | some r => min 65536 r.udrain
  | none => 0

/-- Whether new VC0 packets to a destination wait for the old path to drain. -/
def State.mustHold (s : State) (dest path : Nat) : Bool :=
  s.take.vc0Held.any (fun h => decide (h.1 = dest)) ||
  (match mapFind s.take.vc0Last dest with
   | some (old, t) => decide (old ≠ path) && decide (s.wallNow < t + s.udrain)
   | none => false)

/-- Send a VC0 packet on its path now, recording the path. -/
def State.sendOnPath (s : State) (p : Packet) (path : Nat × Nat × Nat) : State :=
  let last := mapIns s.take.vc0Last p.ddev (path.1 * 256 + path.2.1, s.wallNow)
  { s.queueTx path.1 { p with route := path.2.1, remt := path.2.2 } with take.vc0Last := last }

/-- Whether a packet begins another transfer than the packet before it: the packets of one transfer agree in all else and ascend in
address (R286). -/
def Packet.begins (q p : Packet) : Bool :=
  !(decide (q.sdev = p.sdev) && decide (q.score = p.score) && decide (q.ddev = p.ddev) && decide (q.dcore = p.dcore) &&
    decide (q.sync = p.sync) && decide (q.pland = p.pland) && decide (q.route = p.route) && decide (q.daddr < p.daddr))

/-- One F0 notice for each transfer of which packets go nowhere, naming its entry (R324). -/
def State.unrouted (s : State) : List Packet → State
  | [] => s
  | [p] => s.notice 324 p.route
  | p :: q :: ps => (if p.begins q then s.notice 324 p.route else s).unrouted (q :: ps)

/-- Send one VC0 packet on a path, or hold it while its destination's old path drains (R328). -/
def State.sendVc0 (s : State) (p : Packet) (path : Nat × Nat × Nat) : State :=
  if s.mustHold p.ddev (path.1 * 256 + path.2.1) then { s with take.vc0Held := s.take.vc0Held ++ [(p.ddev, p)] }
  else s.sendOnPath p path

/-- Send the VC0 packets of a transfer in order; a label that names no path sends nothing and logs one F0 notice (R324). -/
def State.sendVc0s (s : State) (ps : List Packet) : State :=
  match ps with
  | [] => s
  | p :: _ =>
    match s.lowPath p.route with
    | none => s.notice 324 p.route
    | some path => ps.foldl (fun s p => s.sendVc0 p path) s

/-- Send one VC1 packet. -/
def State.sendVc1 (s : State) (p : Packet) : State :=
  match s.lowPath p.route with
  | none => s.notice 324 p.route
  | some (l, r, t) => s.queueTx l { p with route := r, remt := t }

/-- The landing tick that 32 bits name: the nearest at or after plan time less 2^31 (R297). -/
def State.extendTick (s : State) (low : Nat) : Int :=
  let base := s.planNow - 2 ^ 31
  base + ((low : Int) - base) % 2 ^ 32

/-- Queue a VC2 packet under an injection entry: launched at P − LEAD (R325). -/
def State.queueVc2 (s : State) (route : Nat) (plan : Int) (p : Packet) : State :=
  let e := s.label none route
  let t := TxPacket.fresh { p with route := labelNext e, remt := labelRemt e } (plan - labelLead e) s.planNow
  s.setLink (labelOut e) ((s.link (labelOut e)).queue { t with entry := some route })

/-- Inject the packets of a scheduled transfer under an injection entry: launched at PLAND − LEAD (R325). -/
def State.injectVc2 (s : State) (route : Nat) (plan : Int) (ps : List Packet) : State :=
  let e := s.label none route
  if route ≠ 0xFF ∧ labelSends e = true then
    ps.foldl (fun s p => s.queueVc2 route plan p) s
  else s.notice 324 route

/-- Whether a waiting packet was injected under one of some injection entries. -/
def TxPacket.under (t : TxPacket) (es : List Nat) : Bool :=
  t.seq.isNone && (match t.entry with
    | some i => es.contains i
    | none => false)

/-- Whether a waiting packet's injection entry names a path as it is now. -/
def State.entrySends (s : State) (t : TxPacket) : Bool := labelSends (s.label none (t.entry.getD 0xFF))

/-- Send a waiting packet under its injection entry as it is now (R370). -/
def State.requeue (s : State) (t : TxPacket) : State :=
  s.queueVc2 (t.entry.getD 0xFF) (s.extendTick t.pkt.pland) t.pkt

/-- The VC2 packets that wait on a link under replaced injection entries travel the new paths (R370); those whose entry names no
path any more never leave, with one notice for each transfer (R324). -/
def State.reroute (s : State) (es : List Nat) (l : Nat) : State :=
  let k := s.link l
  let moved := k.vc2.filter (·.under es)
  if moved.isEmpty then s
  else
    let s := s.setLink l { k with vc2 := k.vc2.filter fun t => !t.under es }
    let gone := (moved.filter fun t => !s.entrySends t).map fun t => { t.pkt with route := t.entry.getD 0xFF }
    ((moved.filter fun t => s.entrySends t).foldl (fun s t => s.requeue t) s).unrouted gone

/-- The largest data of a VC0 packet under a label. -/
def State.lowData (s : State) (route : Nat) : Nat :=
  match s.lowPath route with
  | some (l, _, _) => s.maxData l 0
  | none => 4064

end Sys2Proof.Machine
end

