-- ==== Sys2Proof/Machine/HostPort.lean ====
section
/-! DEFINITION. What leaves for the host: posted writes and interrupts, direct or through the gateway, and the layouts of ring records
and completions (R246, R338 to R341, R346, Tables 08.9 and 12.5). -/

namespace Sys2Proof.Machine

/-- The host role in effect: 0 none, 1 direct, 2 gateway, 3 proxied (Table 12.2). -/
def State.hostRole (s : State) : Nat := s.fget Reg.HI_STATUS_HOSTROLE

/-- Whether the device presents its PCIe function (R339). -/
def State.hasFunction (s : State) : Bool := decide (s.hostRole = 1) || decide (s.hostRole = 2)

/-- Whether an access path reaches the device's registers: a PCIe access where it presents a function, REGRD and REGWR where orders
reach it, I3C always; none in OFF (R338, R339). -/
def State.pathOpen (s : State) (p : Path) : Bool :=
  decide (s.dev ≠ .off) &&
  (match p with
   | .pcie => s.hasFunction
   | .regrd => decide (s.hostRole ≠ 0)
   | .i3c => true)

/-- Whether what the device writes can reach its host now: the mailboxes are enabled, the device has a host role, and a proxied
device has the default route to its gateway (R338, R340). -/
def State.hostUp (s : State) : Bool :=
  s.flag Reg.HI_MB_CTRL_EN && decide (s.dev ≠ .off) && decide (s.hostRole ≠ 0) &&
  (decide (s.hostRole ≠ 3) || s.defaultLink.isSome)

/-- The gateway of a proxied device. -/
def State.gateway (s : State) : Nat :=
  match s.manage.sheet with
  | some sh => sh.gateway
  | none => 0

/-- Packets on the default label with given data, filled up with free bytes to a multiple of 32: the layouts of the gateway's packets
(R340) and of mirror traffic (R249) are not published (log 110). `poison` holds one flag per 8 bytes. -/
def State.sendDefault (s : State) (vc pkind dest addr : Nat) (data : List Byte) (poison : List Bool) : State :=
  let (fill, s) := s.freeBytes ((32 - data.length % 32) % 32)
  let bs := data ++ fill
  let p : Packet :=
    { vc := vc, pkind := pkind, nflit := 0, flag := false, sync := 0, ddev := dest, sdev := s.deviceId, dcore := 0,
      score := 0, route := 0xFF, remt := 0, pland := 0, daddr := addr, take := 0, data := [], poison := [], hdrPoison := false }
  let ps := packetsOf p (s.lowData 0xFF) [(addr, bs, (upFrom 0 (bs.length / 8)).map fun g => poison.getD g false)]
  if vc = 0 then s.sendVc0s ps else ps.foldl (fun (s : State) p => s.sendVc1 p) s

/-- Packets of the gateway protocol (R340). -/
def State.sendProxied (s : State) (vc pkind dest addr : Nat) (data : List Byte) : State := s.sendDefault vc pkind dest addr data []

/-- What a proxied device asks of its gateway: an access at a host address, or the interrupt of a vector. -/
def State.askGateway (s : State) (a : ProxyAsk) (addr : DWord) (data : List Byte) : State :=
  (s.emit (.proxyAsk s.gateway a addr data)).sendProxied 0 5 s.gateway (addr.toNat % 2 ^ 40) data

/-- A posted write to host memory: a proxied device's goes through its gateway (R340); with no host role nothing goes out (R338). -/
def State.hostPost (s : State) (addr : DWord) (data : List Byte) : State :=
  if s.hostRole = 3 then s.askGateway .write addr data
  else if s.hostRole = 0 then s
  else s.emit (.hostWrite addr data)

/-- An MSI-X message: a proxied device asks its gateway for it (R340). -/
def State.hostIrq (s : State) (v : Nat) : State :=
  if s.hostRole = 3 then s.askGateway .irq (BitVec.ofNat 64 v) []
  else if s.hostRole = 0 then s
  else s.emit (.msix v)

/-- A read of host memory, descriptors `first` on of a slot's order queue or `count` bytes for a device: a proxied device asks its
gateway (R340). -/
def State.hostFetch (s : State) (slot first count : Nat) : State :=
  if s.hostRole = 3 then
    s.askGateway .read (BitVec.ofNat 64 (s.fget (Reg.HI_PX_OQ_ADDR slot) + 64 * (first % 2 ^ s.fget (Reg.HI_PX_CFG_OQLOG slot)))) []
  else if s.hostRole = 0 then s
  else s.emit (.hostRead slot first count)

/-! ## Posted items and the reads that answer them (R341) -/

/-- A batch of posted writes ends: a zero-length read follows it. A proxied device's items are answered through its gateway. -/
def State.closeBatch (s : State) : State :=
  if s.host.unread = 0 ∧ s.host.proxied = [] then s
  else if s.hostRole = 3 then { s with host.unread := 0 }
  else
    let n := s.host.posted.length - (s.host.reads.map (·.own)).sum
    { s.emit .zeroRead with host.unread := 0, host.proxied := [],
                            host.reads := s.host.reads ++ [{ own := n, proxied := s.host.proxied }] }

/-- Write an item to host memory and retain it until it is delivered; 64 items make a batch. -/
def State.postItem (s : State) (addr : DWord) (data : List Byte) (i : HostItem) : State :=
  let s := s.hostPost addr data
  let s := { s with host.posted := s.host.posted ++ [i], host.unread := s.host.unread + 1 }
  if 64 ≤ s.host.unread then s.closeBatch else s

/-! ## Layouts -/

/-- A ring record's 64 bytes (Table 08.9). -/
def RingRecord.bytes (r : RingRecord) (phase : Bool) : List Byte :=
  toBytes 4 (2 ^ 31 * b2n phase + 2 ^ 27 * (r.type % 16) + 2 ^ 26 * b2n r.holdover + r.ctx % 2 ^ 15) ++ toBytes 4 r.seq ++
  toBytes 4 r.token.toNat ++ toBytes 4 r.pos ++ toBytes 8 r.wall ++ toBytes 8 r.cut ++ toBytes 8 r.meter ++ toBytes 4 r.detail ++
  toBytes 4 0 ++ toBytes 8 r.tag.toNat ++ toBytes 8 0

/-- Entry codes two to a byte, the even entry low. -/
def codeBytes : List Nat → List Byte
  | [] => []
  | [a] => toBytes 1 (a % 16)
  | a :: b :: cs => toBytes 1 (a % 16 + 16 * (b % 16)) ++ codeBytes cs

/-- A completion entry's 64 bytes (Table 12.5). -/
def Completion.bytes (c : Completion) (phase : Bool) : List Byte :=
  let codes := (codeBytes c.codes).take 24
  toBytes 8 c.seq.toNat ++ toBytes 2 c.opcode ++ toBytes 1 c.status ++ toBytes 1 (128 * b2n phase + 64 * b2n c.dup) ++
  toBytes 4 c.detail ++ toBytes 8 c.result.toNat ++ toBytes 8 (c.wall % 2 ^ 63 + 2 ^ 63 * b2n c.holdover) ++ toBytes 8 c.tag.toNat ++
  codes ++ List.replicate (24 - codes.length) 0

end Sys2Proof.Machine
end

