-- ==== Sys2Proof/Machine/Raise.lean ====
section
/-! DEFINITION. Raising events: queueing fault records, the handling of their classes, and hold requests (R53 to R60, R365 to R367,
R372, R374, R382, R406). -/

namespace Sys2Proof.Machine

/-- The MSI-X message of a queued record, where HI_PX_CFG.FVEC of the device's own slot names a vector (Table 12.21; DEDUCED,
log 45). -/
def State.faultVector (s : State) : State :=
  let v := s.fget (Reg.HI_PX_CFG_FVEC s.manage.straps.slot.toNat)
  if v ≠ 0 ∧ s.flag Reg.HI_MB_CTRL_EN = true ∧ s.manage.straps.slot.toNat < 64 then s.hostIrq v else s

/-- Queue a record (R366); a full queue raises source 0x40 and the device enters FAILED. -/
def State.enqueue (s : State) (src kind unit detail : Nat) : State :=
  if s.faults.queue.length < 64 then
    let r : FaultRec :=
      { source := src, cls := sourceClass src, kind := kind, unit := unit, detail := detail, wall := s.wallNow,
        holdover := s.holdover }
    { s with faults.queue := s.faults.queue ++ [r] }.faultVector
  else (({ s with faults.overflow := true }).record 0x40 0 0 0).enterFailed

/-- Whether a replay stop is requested or in effect (R366). -/
def State.stopWanted (s : State) : Bool :=
  s.stopped || s.time.gates.any fun p => bitOf p.reasons.toNat 6

/-- Raise an F2 to F4 event or an F0/F1 event of a source, with its handling: F3 requests the open-ended hold (R372), the
fencing sources fence (R374, R382), F4 ends in FAILED (R367). -/
def State.raise (s : State) (src kind unit detail : Nat) : State :=
  let s := s.record src kind unit detail
  let cls := sourceClass src
  if cls < 2 then s
  else if cls = 4 then (s.enqueue src kind unit detail).enterFailed
  else if src = 0x30 ∨ src = 0x31 then (s.enqueue src kind unit detail).fence
  else if cls = 3 then
    if s.stopWanted then s
    else
      let s := s.enqueue src kind unit detail
      if s.dev.inTake && !decide (src = 0x23) then s.placeMarker (s.eligibleGate / 4096) 0 6 else s
  else s.enqueue src kind unit detail

/-- Whether a request for a gate finds no place in the device's own table (R59, R60). -/
def State.overfull (s : State) (g : Int) (frames reason : Nat) : Bool :=
  match (mergeGate s.time.gates s.planNow g frames reason).1 with
  | .full | .late => true
  | .same | .changed => false

/-- A unit's hold request at a gate: its marker; a gate that the device itself cannot hold is a late marker, source 0x22, since its
plan time would part from the take's (R59, R60). -/
def State.placeRequest (s : State) (g : Int) (frames reason : Nat) : State :=
  let lost := s.overfull g frames reason
  let s := s.placeMarker g frames reason
  if lost then s.raise 0x22 0 0 (Config.faultDetail 0x22 (gateLow g)).toNat else s

/-- A unit requests a hold with reason 0x1 to 0x4 at a gate (R53, R54, R366, R462): source 0x10, queued unless the gate is
pending with an equal or greater length. -/
def State.requestHoldAt (s : State) (g : Int) (frames reason : Nat) : State :=
  if !s.dev.inTake || s.stopped then s
  else
    let absorbed := match pendingFrames s.time.gates g with
      | some f => decide (frames ≤ f)
      | none => false
    let s := s.record 0x10 0 0 (Config.faultDetail 0x10 reason).toNat
    let s := if absorbed then s else s.enqueue 0x10 0 0 (Config.faultDetail 0x10 reason).toNat
    s.placeRequest g frames reason

/-- A unit requests a hold at the first eligible gate (R54). -/
def State.requestHold (s : State) (frames reason : Nat) : State :=
  s.requestHoldAt (s.eligibleGate / 4096) frames reason

/-- While the brake is engaged in RUNNING, the power unit requests a hold, reason 0x3, at the first eligible gate, once for each
gate (R406). A FRAMES of 0 asks for one frame, since a request has 1 to 255 (R54; DESIGN CHOICE, log 105). -/
def State.brakeRequest (s : State) : State :=
  let asked := s.time.gates.any fun g => decide (g.gate * 4096 = s.eligibleGate) && bitOf g.reasons.toNat 3
  if s.flag Reg.PW_STATUS_BRAKE = true ∧ s.dev = .running ∧ asked = false then s.requestHold (max 1 (s.fget Reg.PW_BRAKE_CFG_FRAMES)) 3
  else s

/-! ## Receiving markers (R57 to R60) -/

/-- Resolve 20 bits of a gate index to the nearest index at or after the current gate (R57). -/
def resolveGate (now : Int) (low : Nat) : Int :=
  let cur := now / 4096
  cur + ((low : Int) - cur) % 2 ^ 20

end Sys2Proof.Machine
end

