-- ==== Sys2Proof/Machine/Scratch.lean ====
section
/-! DEFINITION. The scratchpad: areas, granule reads and writes with check bits and poison, and the write-back queue (R136,
R137, R145 to R152). A core is named by its key, cluster × 16 + physical slot. -/

namespace Sys2Proof.Machine

/-- Bytes of a scratchpad: addresses at or above it do not exist (R136). -/
def spadSize : Nat := 0x1800000

/-- The flat address of a scratchpad byte. -/
def spadAddr (key a : Nat) : Nat := key * 0x2000000 + a

/-- The flat index of a granule. -/
def granKey (key g : Nat) : Nat := key * 0x400000 + g

/-- Bank of an address (Table 05.2). -/
def bankOf (a : Nat) : Nat := 8 * (a / 512 % 8) + a / 64 % 8

/-- The kinds of scratchpad area (Table 05.8), a carried region's two halves apart. -/
inductive Area where
  | scratch | resident | committed | upper | window
deriving DecidableEq, Repr

/-- The area of an address by one region register. -/
def regionArea (kind base len unit : Nat) : Option Area :=
  if kind = 0 ∨ unit < base ∨ base + len ≤ unit then none
  else if kind = 1 then some .resident
  else if kind = 2 then (if unit < base + len / 2 then some .committed else some .upper)
  else some .window

/-- The area of an address by the region registers of a core (R149). -/
def State.areaOf (s : State) (key a : Nat) : Area :=
  go 16
where
  /-- Look through the last `n` region registers. -/
  go : Nat → Area
  | 0 => .scratch
  | n + 1 =>
    let k := 15 - n
    let c := key / 16
    let p := key % 16
    match regionArea (s.fget (Reg.CL_REGION_KIND c p k)) (s.fget (Reg.CL_REGION_BASE c p k))
        (s.fget (Reg.CL_REGION_LEN c p k)) (a / 4096) with
    | some r => r
    | none => go n

/-- Metadata of a granule or unit without error or poison. -/
def Meta.clean : Meta := { poison := false, check := .clean }

/-- Metadata of a scratchpad granule. -/
def State.granMeta (s : State) (key g : Nat) : Meta := mapGet (fun _ => Meta.clean) s.spadMeta (granKey key g)

/-- Store the metadata of a granule. -/
def State.setGranMeta (s : State) (key g : Nat) (m : Meta) : State :=
  { s with spadMeta := mapPut (fun _ => Meta.clean) s.spadMeta (granKey key g) m }

/-- Whether a byte's content is specified: scratch that the step has written or a scrub has left (R153), committed halves that the last
step wrote, and everything else (R151, R152). -/
def State.byteKnown (s : State) (key a : Nat) : Bool :=
  match s.areaOf key a with
  | .scratch => decide (s.epoch = 0) || (s.core key).scrubbed || mapGet (fun _ => false) s.written (spadAddr key a)
  | .committed =>
    match s.carriedOk with
    | none => true
    | some m => mapGet (fun _ => false) m (spadAddr key a)
  | _ => true

/-- A byte as a read finds it; unspecified content is a free value. -/
def State.spadByte (s : State) (key a : Nat) : Byte :=
  if s.byteKnown key a then memGet s.spad (spadAddr key a) else Config.scratchByte s.epoch (spadAddr key a)

/-- `n` bytes from an address as a read finds them. -/
def State.spadBytes (s : State) (key a : Nat) : Nat → List Byte
  | 0 => []
  | n + 1 => s.spadByte key a :: s.spadBytes key (a + 1) n

/-! ## The ECC write-back queue (R146) -/

/-- Drop the oldest correctable entry. -/
def dropCorrectable : List WriteBack → List WriteBack
  | [] => []
  | w :: ws => if w.poison then w :: dropCorrectable ws else ws

/-- Queue a write-back; `bad` marks an uncorrectable error's. A granule whose write-back waits already is not queued twice. -/
def State.queueWriteBack (s : State) (key : Nat) (w : WriteBack) (bad : Bool) : State :=
  let c := s.core key
  let drop := Reg.CL_ECC_WBDROP_COUNT (key / 16) (key % 16)
  if c.eccq.any fun v => decide (v.granule = w.granule) then s
  else if c.eccq.length < 8 then s.setCore key { c with eccq := c.eccq ++ [w] }
  else if bad && c.eccq.any (fun v => !v.poison) then
    (s.setCore key { c with eccq := dropCorrectable c.eccq ++ [w] }).bump drop
  else s.bump drop

/-! ## Granule reads (Table 05.6) -/

/-- The fault source of an uncorrectable error in an area (Table 13.2). -/
def Area.ueSource : Area → Nat
  | .scratch | .upper => 0x21
  | .resident | .committed | .window => 0x06

/-- Whether a granule's uncorrectable error has been found and its write-back still waits: it reports only once (R146). -/
def Core.foundBad (c : Core) (g : Nat) : Bool := c.eccq.any fun w => w.poison && decide (w.granule = g)

/-- An uncorrectable error is found in a granule: counted, its address kept, reported (R146). -/
def State.reportBad (s : State) (key g : Nat) : State :=
  let c := key / 16
  let p := key % 16
  let s := s.bump (Reg.CL_ECC_UE_COUNT c p)
  let s := if s.flag (Reg.CL_ECC_ADDR_VALID c p) then s
    else (s.fset (Reg.CL_ECC_ADDR_GRANULE c p) g).fsetb (Reg.CL_ECC_ADDR_VALID c p) true
  s.raise (s.areaOf key (8 * g)).ueSource 1 key (8 * g)

/-- Read a granule: its eight bytes, whether it is delivered poisoned, and what the read counts, reports and queues. -/
def State.granRead (s : State) (key g : Nat) : (List Byte × Bool) × State :=
  let c := key / 16
  let p := key % 16
  let data := s.spadBytes key (8 * g) 8
  let m := s.granMeta key g
  match m.check with
  | .clean => ((data, m.poison), s)
  | .correctable =>
    let s := (s.bump (Reg.CL_ECC_CE_COUNT c p)).raise 0x01 1 key (8 * g)
    ((data, m.poison), s.queueWriteBack key { granule := g, poison := m.poison } false)
  | .uncorrectable =>
    if (s.core key).foundBad g then ((data, true), s)
    else ((data, true), (s.reportBad key g).queueWriteBack key { granule := g, poison := true } true)

/-- Read `n` granules from one up. -/
def State.granReads (s : State) (key g : Nat) : Nat → List (List Byte × Bool) × State
  | 0 => ([], s)
  | n + 1 =>
    let (d, s) := s.granRead key g
    let (ds, s) := s.granReads key (g + 1) n
    (d :: ds, s)

/-- Read bytes [a, a + n): the bytes, and whether any granule that they lie in is poisoned. -/
def State.spadRead (s : State) (key a n : Nat) : (List Byte × List Bool) × State :=
  let g0 := a / 8
  let cnt := (a + n + 7) / 8 - g0
  let (ds, s) := s.granReads key g0 cnt
  (((ds.flatMap (·.1)).drop (a - 8 * g0) |>.take n, ds.map (·.2)), s)

/-! ## Granule writes (Table 05.7) -/

/-- Mark bytes written in the step. -/
def markWritten (m : SMap Bool) (a : Nat) : Nat → SMap Bool
  | 0 => m
  | n + 1 => markWritten (mapPut (fun _ => false) m a true) (a + 1) n

/-- A write reached a granule: its write-backs, of corrections and of landings, are cancelled (R146, R159). -/
def Core.granTouched (c : Core) (g : Nat) : Core :=
  { c with eccq := c.eccq.filter (fun w => w.granule ≠ g),
           landing := c.landing.map fun l => { l with left := l.left.filter (· ≠ g) } }

/-- Store bytes in a granule with its metadata, and mark them written. -/
def State.granStore (s : State) (key g off : Nat) (bs : List Byte) (m : Meta) : State :=
  let a := spadAddr key (8 * g + off)
  let wr := if s.epoch = 0 then s.written else markWritten s.written a bs.length
  let s := { s with spad := memWrite s.spad a bs, written := wr, carriedOk := s.carriedOk.map fun m => markWritten m a bs.length }
  (s.setGranMeta key g m).setCore key ((s.core key).granTouched g)

/-- Write part or all of a granule: bytes from offset `off` (R147). -/
def State.granWrite (s : State) (key g off : Nat) (bs : List Byte) (poison : Bool) : State :=
  if off = 0 ∧ bs.length = 8 then s.granStore key g 0 bs { poison := poison, check := .clean }
  else
    let c := key / 16
    let p := key % 16
    let m := s.granMeta key g
    match m.check with
    | .clean => if m.poison then s else s.granStore key g off bs { poison := poison, check := .clean }
    | .correctable =>
      let s := (s.bump (Reg.CL_ECC_CE_COUNT c p)).raise 0x01 1 key (8 * g)
      if m.poison then s.setGranMeta key g { poison := true, check := .clean }
      else s.granStore key g off bs { poison := poison, check := .clean }
    | .uncorrectable =>
      let s := if (s.core key).foundBad g then s else s.reportBad key g
      (s.setGranMeta key g { poison := true, check := .clean }).setCore key ((s.core key).granTouched g)

/-- Write bytes from an address, granule by granule; `poison` has one flag per granule touched. `fuel` bounds the granules. -/
def State.spadWrite (s : State) (key a : Nat) (bs : List Byte) : List Bool → State
  | [] => s
  | q :: qs =>
    let off := a % 8
    let here := bs.take (8 - off)
    if here.isEmpty then s
    else (s.granWrite key (a / 8) off here q).spadWrite key (a + here.length) (bs.drop (8 - off)) qs

/-- How many granules the bytes [a, a + n) touch. -/
def granCount (a n : Nat) : Nat := (a + n + 7) / 8 - a / 8

/-- Mark a granule poisoned, its data unchanged: the fill write of a losing write (R140). -/
def State.granPoison (s : State) (key g : Nat) : State :=
  (s.setGranMeta key g { poison := true, check := .clean }).setCore key ((s.core key).granTouched g)

/-- Mark `n` granules poisoned. -/
def State.granPoisons (s : State) (key g : Nat) : Nat → State
  | 0 => s
  | n + 1 => (s.granPoison key g).granPoisons key (g + 1) n

/-- Whether a scheduled write to [a, a + n) is barred: it reaches a resident region or a committed half (R150). A scheduled write into a
mailbox window is performed (DESIGN CHOICE, log 115). -/
def State.writeBarred (s : State) (key a n : Nat) : Bool :=
  (upFrom (a / 4096) ((a + n + 4095) / 4096 - a / 4096)).any fun u =>
    match s.areaOf key (4096 * u) with
    | .resident | .committed => true
    | _ => false

/-- Whether [a, a + n) lies in a mailbox window throughout (R142). -/
def State.inWindow (s : State) (key a n : Nat) : Bool :=
  (upFrom (a / 4096) ((a + n + 4095) / 4096 - a / 4096)).all fun u => s.areaOf key (4096 * u) == .window

/-! ## The swap of carried halves at a cut (R151) -/

/-- Where a flat address moves when [lo, lo + half) and [lo + half, lo + 2 half) change places. -/
def swapAddr (lo half a : Nat) : Nat :=
  if lo ≤ a ∧ a < lo + half then a + half else if lo + half ≤ a ∧ a < lo + 2 * half then a - half else a

/-- Move every entry of a sparse map to its new key. -/
def mapRekey {α : Type} (f : Nat → Nat) : SMap α → SMap α
  | [] => []
  | (k, v) :: m => mapIns (mapRekey f m) (f k) v

/-- The queues of a core follow its granules as they move. -/
def Core.moveGrans (c : Core) (f : Nat → Nat) : Core :=
  { c with eccq := c.eccq.map (fun w => { w with granule := f w.granule }),
           landing := c.landing.map fun l => { l with left := l.left.map f } }

/-- Swap the halves of one carried region of a core. -/
def State.swapRegion (s : State) (key k : Nat) : State :=
  let c := key / 16
  let p := key % 16
  if s.fget (Reg.CL_REGION_KIND c p k) = 2 then
    let lo := s.fget (Reg.CL_REGION_BASE c p k) * 4096
    let half := s.fget (Reg.CL_REGION_LEN c p k) * 2048
    let s := s.setCore key ((s.core key).moveGrans (swapAddr (lo / 8) (half / 8)))
    { s with spad := mapRekey (swapAddr (spadAddr key lo) half) s.spad,
             spadMeta := mapRekey (swapAddr (granKey key (lo / 8)) (half / 8)) s.spadMeta,
             written := mapRekey (swapAddr (spadAddr key lo) half) s.written }
  else s

/-- Swap every carried region of a core and flip CL_CARRY.PHASE. -/
def State.swapCarried (s : State) (key : Nat) : State :=
  let s := (upFrom 0 16).foldl (fun s k => s.swapRegion key k) s
  let f := Reg.CL_CARRY_PHASE (key / 16) (key % 16)
  s.fset f (1 - s.fget f)

end Sys2Proof.Machine
end

