-- ==== Sys2Proof/Machine/Flags.lean ====
section
/-! DEFINITION. Halts of a cluster (R195, R196) and the sticky arithmetic flags with their traps (R101). -/

namespace Sys2Proof.Machine

/-- The physical slot that carries a virtual core of a cluster. -/
def State.slotOf (s : State) (cl v : Nat) : Option Nat :=
  (upFrom 0 11).find? fun p => s.flag (Reg.CL_SLOT_ID_MAPPED cl p) && decide (s.fget (Reg.CL_SLOT_ID_VCORE cl p) = v)

/-- The keys of a cluster's mapped virtual cores, in ascending virtual core. -/
def State.coresOf (s : State) (cl : Nat) : List Nat :=
  (upFrom 0 10).filterMap fun v => (s.slotOf cl v).map fun p => 16 * cl + p

/-- The keys of every mapped core. -/
def State.mappedCores (s : State) : List Nat := (upFrom 0 4).flatMap fun cl => s.coresOf cl

/-- The virtual core of a key. -/
def State.vcoreOf (s : State) (key : Nat) : Nat := s.fget (Reg.CL_SLOT_ID_VCORE (key / 16) (key % 16))

/-- Whether a cluster is halted. -/
def State.halted (s : State) (cl : Nat) : Bool := s.flag (Reg.CL_SEQ_HALT_HALTED cl)

/-- Latch a halt's reason and virtual core. -/
def State.latchHalt (s : State) (cl reason vcore : Nat) : State :=
  (s.fset (Reg.CL_SEQ_HALT_REASON cl) reason).fset (Reg.CL_SEQ_HALT_VCORE cl) vcore

/-- Halt a cluster at a bundle address (R195, R196). `who` is the core concerned, none for a cluster-level cause. The first
cause latches and raises source 0x20; a further cause of the same cycle, which lies in the tick of the halt, latches if its code is
lower; every further cause is counted in MORE. -/
def State.haltAtAddr (s : State) (cl reason : Nat) (who : Option Nat) (addr : Nat) : State :=
  let q := s.seq cl
  let vcore := match who with
    | some key => s.vcoreOf key
    | none => 15
  if !s.halted cl then
    let s := (s.latchHalt cl reason vcore).fsetb (Reg.CL_SEQ_HALT_HALTED cl) true
    let s := (s.fset (Reg.CL_SEQ_HALT_ADDR_ADDR cl) addr).fset (Reg.CL_SEQ_HALT_TICK_TICK cl) (unsignedOf 64 s.planNow)
    let s := s.setSeq cl { q with haltAt := some q.now }
    s.raise 0x20 1 (who.getD (16 * cl + 15)) reason
  else
    let s := s.bump (Reg.CL_SEQ_HALT_MORE cl)
    if q.haltAt = some q.now ∧ s.fget (Reg.CL_SEQ_HALT_TICK_TICK cl) = unsignedOf 64 s.planNow ∧ reason < s.fget (Reg.CL_SEQ_HALT_REASON cl) then s.latchHalt cl reason vcore else s

/-- Halt a cluster at its current bundle. -/
def State.halt (s : State) (cl reason : Nat) (who : Option Nat) : State := s.haltAtAddr cl reason who (s.seq cl).pc

/-- Halt a cluster for each of a list of cluster-level causes. -/
def State.haltAll (s : State) (cl : Nat) (rs : List Nat) : State := rs.foldl (fun s r => s.halt cl r none) s

/-- Halt for the flags of a set of bits, ascending. -/
def State.trapBits (s : State) (key : Nat) (bits : BitVec 4) : State :=
  (upFrom 0 4).foldl (fun s b => if bits.getLsbD b then s.halt (key / 16) (0x60 + b) (some key) else s) s

/-- The flags that an operation would set anew and whose trap is enabled (R101). -/
def State.newTraps (s : State) (key : Nat) (fl : BitVec 4) : BitVec 4 :=
  let c := key / 16
  let p := key % 16
  fl &&& ~~~(BitVec.ofNat 4 (s.fget ⟨Reg.CL_FLAGS c p, 3, 0⟩)) &&& BitVec.ofNat 4 (s.fget (Reg.CL_TRAP_EN_EN c p))

/-- Set sticky flags. -/
def State.stick (s : State) (key : Nat) (fl : BitVec 4) : State :=
  let f : Fld := ⟨Reg.CL_FLAGS (key / 16) (key % 16), 3, 0⟩
  s.fset f (BitVec.ofNat 4 (s.fget f) ||| fl).toNat

/-- Set sticky flags, halting where one is set for the first time with its trap enabled. -/
def State.setFlags (s : State) (key : Nat) (fl : BitVec 4) : State :=
  if fl = 0 then s else (s.stick key fl).trapBits key (s.newTraps key fl)

/-- Whether the continuity checker is enabled on a cluster (R197). -/
def State.checking (s : State) (cl : Nat) : Bool := s.flag (Reg.CL_SEQ_CHK_EN cl)

end Sys2Proof.Machine
end

