-- ==== Sys2Proof/Machine/Issue.lean ====
section
/-! DEFINITION. Issue: bundles and control flow (R167 to R171, R188 to R191), pending results (R173), guards (R170) and
scheduled bank conflicts (R140). -/

namespace Sys2Proof.Machine

/-! ## Bundle memory -/

/-- The image of a cluster in the active reel. -/
def State.image (s : State) (cl : Nat) : ClusterImage :=
  match s.take.active with
  | none => { bundles := [], shapes := [] }
  | some r => ((r.clusters.find? fun p => decide (p.1 = cl)).map (·.2)).getD { bundles := [], shapes := [] }

/-- The bundle at an address, if it is loaded. -/
def State.bundle (s : State) (cl addr : Nat) : Option (BitVec 512) := (s.image cl).bundles[addr]?

/-- Header fields (Table 06.2). -/
def headKind (b : BitVec 512) : Nat := bitsOf 31 30 b.toNat

/-- LAST. -/
def headLast (b : BitVec 512) : Bool := bitOf b.toNat 29

/-- COUNT. -/
def headCount (b : BitVec 512) : Nat := bitsOf 23 0 b.toNat

/-- Whether the header breaks Table 06.2 (reason 0x02). -/
def headBad (b : BitVec 512) : Bool :=
  decide (headKind b = 3) || decide (bitsOf 28 24 b.toNat ≠ 0) || decide (headKind b = 2 ∧ headCount b = 0) ||
  decide (headKind b ≠ 2 ∧ headCount b ≠ 0)

/-! ### Reserved opcodes and reserved bits of the slots (R167, Table 06.14)

The bit fields that must be 0 for each opcode of a slot; none: a reserved opcode. -/

/-- S slot (R175, R189, R190). -/
def scalarReserved (op : Nat) : Option (List (Nat × Nat)) :=
  if op = 0 then some [(71, 0)]
  else if op ≤ 0x0B then some [(52, 0)]
  else if 0x10 ≤ op ∧ op ≤ 0x15 then some [(57, 32)]
  else if op = 0x20 then some [(59, 40), (19, 0)]
  else if op = 0x21 then some [(57, 40)]
  else none

/-- V half-slot (Tables 06.7, 06.8). -/
def vectorReserved (op : Nat) : Option (List (Nat × Nat)) :=
  if op = 0 then some [(33, 0)]
  else if op ≤ 0x0D then some [(1, 0)]
  else if 0x10 ≤ op ∧ op ≤ 0x12 then some []
  else none

/-- M slot (Table 06.9). -/
def matrixReserved (op : Nat) : Option (List (Nat × Nat)) :=
  if op = 0 then some [(71, 0)] else if op = 1 then some [(3, 0)] else none

/-- LD and ST slots (R180). -/
def moveReserved (op : Nat) : Option (List (Nat × Nat)) :=
  if op = 0 then some [(71, 0)] else if op = 1 then some [(40, 32)] else none

/-- SY slot (Tables 06.10, 07.2). A bit of the slot that no field of the operation holds is reserved (DESIGN CHOICE, log 102). -/
def syncReserved (op : Nat) : Option (List (Nat × Nat)) :=
  match op with
  | 0 => some [(71, 0)]
  | 1 => some [(54, 50), (33, 32)]
  | 2 => some [(54, 50)]
  | 3 => some []
  | 4 => some [(54, 0)]
  | 5 => some [(46, 32)]
  | 6 => some [(59, 0)]
  | 7 => some [(67, 63), (57, 0)]
  | 8 => some [(52, 0)]
  | _ => none

/-- The slots of a bundle: opcode, word, and the bits that the opcode reserves. -/
def slotWords (b : BitVec 512) : List (Nat × Nat × Option (List (Nat × Nat))) :=
  let n := b.toNat
  let wide := fun hi (f : Nat → Option (List (Nat × Nat))) => (bitsOf hi (hi - 7) n, bitsOf hi (hi - 79) n, f (bitsOf hi (hi - 7) n))
  let half := fun hi => (bitsOf hi (hi - 5) n, bitsOf hi (hi - 39) n, vectorReserved (bitsOf hi (hi - 5) n))
  [wide 111 scalarReserved, half 151, half 191, wide 271 matrixReserved, wide 351 moveReserved, wide 431 moveReserved,
   wide 511 syncReserved]

/-- The slots' decode errors that no operation carries, ascending: 0x01 for each reserved opcode, 0x03 for each slot with a reserved
bit set. The slots of a lull run are checked with its operation. -/
def slotCauses (b : BitVec 512) : List Nat :=
  if headKind b = 2 then []
  else
    let ws := slotWords b
    (ws.filter fun w => decide (w.2.2 = none)).map (fun _ => 0x01) ++
    (ws.filter fun w => (w.2.2.getD []).any fun r => decide (bitsOf r.1 r.2 w.2.1 ≠ 0)).map fun _ => 0x03

/-- Whether a bundle holds nothing to issue: no operation in a slot, no lull run, no checkpoint. No command stands for it. -/
def bundleEmpty (b : BitVec 512) : Bool :=
  (decide (headKind b = 0) || decide (headKind b = 3)) && (slotWords b).all fun w => decide (w.1 = 0) || decide (w.2.2 = none)

/-- Issue cycles of a bundle on its own (R169). -/
def headCycles (b : BitVec 512) : Nat := if headKind b = 2 then headCount b else 1

/-! ## Pending results (R173) -/

/-- Whether two targets are the same register, predicate or accumulator entry. -/
def Target.clash : Target → Target → Bool
  | .sreg a _, .sreg b _ => decide (a = b)
  | .pred a _, .pred b _ => decide (a = b)
  | .vreg a _, .vreg b _ => decide (a = b)
  | .acc a .., .acc b .. => decide (a = b)
  | _, _ => false

/-- Parity of a number's low `n` bits. -/
def parity (x : Nat) : Nat → Bool
  | 0 => false
  | n + 1 => bitOf x n ^^ parity x n

/-- An accumulator entry with fresh parity bits: one per half of its W40 value (R118). -/
def AccEntry.fresh (v : BitVec 40) (poison : Bool) : AccEntry :=
  { v := v, par0 := parity (v.toNat % 2 ^ 20) 20, par1 := parity (v.toNat / 2 ^ 20) 20, poison := poison, written := true }

/-- An accumulator entry that nothing has written. -/
def AccEntry.initial : AccEntry := { v := 0, par0 := false, par1 := false, poison := false, written := false }

/-- Perform a pending write on a core. -/
def State.perform (s : State) (key : Nat) (t : Target) : State :=
  let c := s.core key
  match t with
  | .sreg r v => s.setCore key { c with sregs := mapPut (fun _ => ⟨0, false⟩) c.sregs r v }
  | .pred r v => s.setCore key { c with preds := mapPut (fun _ => ⟨false, false⟩) c.preds r v }
  | .vreg r v => s.setCore key { c with vregs := mapPut (fun _ => ⟨0, 0⟩) c.vregs r v }
  | .acc i v p => s.setCore key { c with acc := mapPut (fun _ => AccEntry.initial) c.acc i (AccEntry.fresh v p) }
  | .bytes a bs ps => s.spadWrite key a bs ps
  | .mark a n => s.granPoisons key (a / 8) (granCount a n)
  | .flags f => s.setFlags key f
  | .halt r => s.halt (key / 16) r (some key)
  | .mismatch j p rows =>
    (rows.foldl (fun (s : State) i => s.emit (.witnessReport key j p i)) s).halt (key / 16) 0x46 (some key)
  | .witSkip n => s.bumpBy (Reg.CL_WIT_SKIP_COUNT (key / 16) (key % 16)) n

/-- Perform a list of writes in order. -/
def State.performAll (s : State) (key : Nat) : List PendWrite → State
  | [] => s
  | w :: ws => (s.perform key w.target).performAll key ws

/-- Perform every write of a core that is due by a cycle, in order of due cycle, then of issue. -/
def State.settleCore (s : State) (cycle key : Nat) : State :=
  let c := s.core key
  let due := c.pend.filter fun w => decide (w.due ≤ cycle)
  (s.setCore key { c with pend := c.pend.filter fun w => !decide (w.due ≤ cycle) }).performAll key (sortBy (fun w => (w.due : Int)) due)

/-- The cycles up to a cycle in which a write of a cluster's cores falls due, ascending. -/
def State.dueCycles (s : State) (cl cycle : Nat) : List Nat :=
  let all := (s.coresOf cl).flatMap fun key => ((s.core key).pend.filter fun w => decide (w.due ≤ cycle)).map fun w => w.due
  sortBy (fun c => (c : Int)) all.eraseDups

/-- A cluster reaches a cycle at a wall tick. -/
def Seq.reach (q : Seq) (cycle wall : Nat) : Seq :=
  if q.now < cycle then { q with now := cycle, nowAt := wall } else q

/-- A cluster reaches a cycle. -/
def State.reachCycle (s : State) (cl cycle : Nat) : State := s.setSeq cl ((s.seq cl).reach cycle s.wallNow)

/-- A cluster reaches a cycle, and what falls due in it is performed on its cores, in ascending virtual core. -/
def State.settleCycle (s : State) (cl cycle : Nat) : State :=
  (s.coresOf cl).foldl (fun s key => s.settleCore cycle key) (s.reachCycle cl cycle)

/-- Forget the accesses of earlier cycles. -/
def Core.dropUses (c : Core) (cycle : Nat) : Core :=
  { c with uses := c.uses.filter (fun u => decide (cycle ≤ u.cycle)), arrayUses := c.arrayUses.filter fun u => decide (cycle ≤ u.cycle) }

/-- Advance a cluster's local cycle count, performing what falls due cycle by cycle. -/
def State.toCycle (s : State) (cl cycle : Nat) : State :=
  let s := (s.dueCycles cl cycle).foldl (fun s c => s.settleCycle cl c) s
  ((s.coresOf cl).foldl (fun s key => s.setCore key ((s.core key).dropUses cycle)) s).reachCycle cl cycle

/-- Advance a cluster's local cycle count by `n`. -/
def State.addCycles (s : State) (cl n : Nat) : State := s.toCycle cl ((s.seq cl).now + n)

/-! ## Moving to a bundle -/

/-- Write a loop's iteration index into SI on every core (R190). -/
def State.writeIndex (s : State) (cl si index : Nat) : State :=
  (s.coresOf cl).foldl (fun s key => s.perform key (.sreg si ⟨BitVec.ofNat 64 index, false⟩)) s

/-- The check state of a bundle (R191). -/
def State.bundleCheck (s : State) (cl addr : Nat) : Check := mapGet (fun _ => Check.clean) s.bundleErr (cl * 262144 + addr)

/-- A correctable error of a bundle is corrected and counted. -/
def State.correctBundle (s : State) (cl addr : Nat) : State :=
  if s.bundleCheck cl addr = .correctable then
    let m := mapPut (fun _ => Check.clean) s.bundleErr (cl * 262144 + addr) .clean
    { s with bundleErr := m }.bump (Reg.CL_SEQ_MEM_CE cl)
  else s

/-- A sequencer that issues a bundle at cycle `t`, `passed` issue cycles after its last one. -/
def Seq.moveTo (q : Seq) (p : Nat) (st : List Ctl) (t passed : Nat) (b : BitVec 512) : Seq :=
  { q with
    fresh := false, ended := headLast b, pc := p, at_ := t, dur := max 1 (headCycles b), idle := 0, skip := 0, issued := q.issued + passed,
    used := 0, jump := none, stack := st, lull := decide (headKind b = 2) }

/-- A bundle does not issue: nothing more issues beside it. -/
def State.noBundle (s : State) (cl : Nat) : State := s.setSeq cl { s.seq cl with used := BitVec.allOnes 8 }

/-- What a bundle reports as it issues: a bad header (0x02), LAST inside an arm or a body (0x09), a reserved opcode (0x01) and a reserved
bit of a slot (0x03). The cluster halts at its end (R195). -/
def State.bundleCauses (s : State) (cl : Nat) (st : List Ctl) (b : BitVec 512) : State :=
  s.haltAll cl ((if headBad b then [0x02] else []) ++ (if headLast b && !st.isEmpty then [0x09] else []) ++ slotCauses b)

/-- Issue the bundle at address `p` in cycle `t`: an index due to its loop is written first. -/
def State.issueBundle (s : State) (cl p : Nat) (st : List Ctl) (idx : Option (Nat × Nat)) (t passed : Nat) (b : BitVec 512) : State :=
  let s := (s.correctBundle cl p).setSeq cl ((s.seq cl).moveTo p st t passed b)
  let s := (s.fset (Reg.CL_SEQ_PC_PC cl) p).toCycle cl t
  let s := match idx with
    | some (si, n) => s.writeIndex cl si n
    | none => s
  s.bundleCauses cl st b

/-- Move to the next bundle, or fail to: a segment that has ended has none, and none issues after the bundle with which the cluster
halts (R195). A bundle beyond the stream halts with 0x0A and an uncorrectable one with 0x0D, before they issue (R191). -/
def State.nextBundle (s : State) (cl : Nat) : State × Bool :=
  let q := s.seq cl
  if q.ended then (s, false)
  else
    let (p, st, pad, idx) := q.next
    let t := q.at_ + q.dur + pad + q.idle
    let s := s.toCycle cl (t - 1)
    if s.halted cl then (s.noBundle cl, false)
    else
      match s.bundle cl p with
      | none => (((s.toCycle cl t).haltAtAddr cl 0x0A none p).noBundle cl, false)
      | some b =>
        if s.bundleCheck cl p = .uncorrectable then (((s.toCycle cl t).haltAtAddr cl 0x0D none p).noBundle cl, false)
        else (s.issueBundle cl p st idx t (if q.fresh then 0 else q.dur + pad) b, true)

/-- Move on by `n` bundles. -/
def State.nextBundles (s : State) (cl : Nat) : Nat → State × Bool
  | 0 => (s, true)
  | n + 1 =>
    match s.nextBundle cl with
    | (s, true) => s.nextBundles cl n
    | (s, false) => (s, false)

/-- Whether a cluster runs a segment in a take that no replay stop stops. -/
def State.canIssue (s : State) (cl : Nat) : Bool :=
  let q := s.seq cl
  (decide (s.dev = .running) || decide (s.dev = .holding) || decide (s.dev = .draining)) && s.time.stop.isNone &&
  q.running

/-- Whether a cluster may go on to its next bundle: not halted, not stopped by a WAIT or a stalled SIEVE (R184, R195, R203). -/
def State.canAdvance (s : State) (cl : Nat) : Bool :=
  !s.halted cl && (s.seq cl).wait.isNone && (s.seq cl).stalled.isEmpty

/-- The slots of a bundle: S, V pipe 0, V pipe 1, M, LD, ST, SY, header. -/
inductive Slot where
  | s | v0 | v1 | m | ld | st | sy | head
deriving DecidableEq, Repr

/-- The bit of a slot in the mask of slots used. -/
def Slot.bit : Slot → Nat
  | .s => 0
  | .v0 => 1
  | .v1 => 2
  | .m => 3
  | .ld => 4
  | .st => 5
  | .sy => 6
  | .head => 7

/-- Issue an operation in a slot: move to its bundle and take the slot. False: it does not issue, because the cluster does not
issue, is halted at an earlier bundle, has passed the bundle's cycle, or the slot is taken. -/
def State.issue (s : State) (i : Issue) (slot : Slot) : State × Bool :=
  let cl := i.cl.val
  let q := s.seq cl
  if !s.canIssue cl then (s, false)
  else if i.adv = 0 then
    if q.fresh ∨ q.at_ ≠ q.now ∨ q.used.getLsbD slot.bit then (s, false)
    else (s.setSeq cl { q with used := q.used ||| BitVec.ofNat 8 (2 ^ slot.bit) }, true)
  else if !s.canAdvance cl then (s, false)
  else
    match s.nextBundles cl i.adv with
    | (s, true) =>
      let q := s.seq cl
      if q.at_ < q.now then (s, false)
      else (s.setSeq cl { q with used := BitVec.ofNat 8 (2 ^ slot.bit) }, true)
    | (s, false) => (s, false)

/-- An operation that issues runs `f`; one that does not leaves the state as the attempt left it. -/
def State.withIssue (s : State) (i : Issue) (slot : Slot) (f : State → State) : State :=
  match s.issue i slot with
  | (s, true) => f s
  | (s, false) => s

/-! ## Guards (R170, R175) -/

/-- Whether PG is a code of R170. -/
def pgValid (pg : BitVec 4) : Bool := decide (pg = 0) || pg.getLsbD 3

/-- A predicate of a core. -/
def State.predicate (s : State) (key n : Nat) : PVal := mapGet (fun _ => ⟨false, false⟩) (s.core key).preds n

/-- How an operation runs on a core under PG: not at all, or with everything it writes poisoned or not. A poisoned predicate
lets the operation execute. -/
def State.guard (s : State) (key : Nat) (pg : BitVec 4) : Option Bool :=
  if pg = 0 then some false
  else
    let p := s.predicate key (pg.toNat % 8)
    if p.p then some true else if p.v then some false else none

/-! ## Results of one operation on one core -/

/-- What an operation does on a core: writes with their latencies, flags, halts, and scheduled bank accesses as (cycles after
issue, address, bytes, written). -/
structure Effect where
  writes : List (Nat × Target)
  flags : BitVec 4
  halts : List Nat
  access : List (Nat × Nat × Nat × Bool)
deriving DecidableEq, Repr

/-- No effect. -/
def Effect.none : Effect := { writes := [], flags := 0, halts := [], access := [] }

/-- A halt and nothing else. -/
def Effect.stop (reason : Nat) : Effect := { writes := [], flags := 0, halts := [reason], access := [] }

/-- One write after a latency. -/
def Effect.write (lat : Nat) (t : Target) : Effect := { writes := [(lat, t)], flags := 0, halts := [], access := [] }

/-- Poison everything that a target writes (R175). -/
def Target.poisoned : Target → Target
  | .sreg r v => .sreg r { v with p := true }
  | .pred r v => .pred r { v with p := true }
  | .vreg r v => .vreg r { v with p := BitVec.allOnes 64 }
  | .acc i v _ => .acc i v true
  | .bytes a bs ps => .bytes a bs (ps.map fun _ => true)
  | t => t

/-- Poison an effect. -/
def Effect.poison (e : Effect) (b : Bool) : Effect :=
  if b then { e with writes := e.writes.map fun w => (w.1, w.2.poisoned) } else e

/-- The banks of [a, a + n). -/
def banksOf (a n : Nat) : List Nat :=
  ((upFrom (a / 64) ((a + n + 63) / 64 - a / 64)).map fun k => bankOf (64 * k)).eraseDups

/-! ### Losing accesses (R140) -/

/-- A write without [lo, lo + n): those bytes are not written, and their granules are marked. -/
def Target.without (t : Target) (lo n : Nat) : List Target :=
  match t with
  | .bytes a bs ps =>
    let l := max a lo
    let h := min (a + bs.length) (lo + n)
    if h ≤ l then [t]
    else [.bytes a (bs.take (l - a)) (ps.take (granCount a (l - a))), .mark l (h - l), .bytes h (bs.drop (h - a)) (ps.drop (h / 8 - a / 8))]
  | t => [t]

/-- Change the pending writes of some results. -/
def Core.changePend (c : Core) (tag n : Nat) (f : Target → List Target) : Core :=
  { c with pend := c.pend.flatMap fun w =>
      if tag ≤ w.tag ∧ w.tag < tag + n then (f w.target).map fun t => { w with target := t } else [w] }

/-- The granules that a target writes. -/
def Target.granules : Target → List Nat
  | .bytes a bs _ => upFrom (a / 8) (granCount a bs.length)
  | _ => []

/-- What becomes of an output of the sieve that loses an access (R140): of a write, the granules of the bank that it covers; of a read, those
made of it are poisoned. Which they are is a free value. -/
def Target.sieveLoss (t : Target) (func cycle bank : Nat) (write : Bool) : List Target :=
  let hit := fun g => Config.sieveLost func cycle g
  match t with
  | .bytes a bs ps =>
    if write then
      (t.granules.filter fun g => decide (bankOf (8 * g) = bank) && hit g).foldl (fun ts g => ts.flatMap fun x => x.without (8 * g) 8) [t]
    else [.bytes a bs ((List.zip t.granules ps).map fun x => x.2 || hit x.1)]
  | t => [t]

/-- Poison the granules of data at an address that overlap [lo, lo + n). -/
def poisonWithin (lo n a : Nat) (ps : List Bool) : List Bool :=
  (List.zip (upFrom (a / 8) ps.length) ps).map fun x => x.2 || (decide (8 * x.1 < lo + n) && decide (lo < 8 * x.1 + 8))

/-- Poison part of a transfer. -/
def Landing.poisonWithin (l : Landing) (lo n : Nat) : Landing :=
  { l with rows := l.rows.map fun r => (r.1, r.2.1, Machine.poisonWithin lo n r.1 r.2.2) }

/-- Poison part of the transfers that a core has sent under a number. -/
def poisonSent (dev core seq lo n : Nat) (ls : List Landing) : List Landing :=
  ls.map fun l => if l.srcDev = dev ∧ l.srcCore = core ∧ l.seq = seq then l.poisonWithin lo n else l

/-- Poison part of the packets that wait on a link: those of a core's transfer to be landed at P, or on VC0 of its unscheduled sends. -/
def poisonPackets (dev core : Nat) (p : Int) (lo n : Nat) (ts : List TxPacket) : List TxPacket :=
  ts.map fun t =>
    if t.pkt.sdev = dev ∧ t.pkt.score = core ∧ (t.pkt.vc = 2 → t.pkt.pland = unsignedOf 32 p) then
      { t with pkt := { t.pkt with poison := poisonWithin lo n t.pkt.daddr t.pkt.poison } }
    else t

/-- Poison part of the drizzle requests by which an unscheduled send reaches a core of this device. -/
def poisonRequests (lo n : Nat) (rs : List DrizzleReq) : List DrizzleReq :=
  rs.map fun r =>
    match r.op with
    | .write a bs ps sync => if r.order.isNone && r.inLink.isNone then { r with op := .write a bs (poisonWithin lo n a ps) sync } else r
    | .read .. => r

/-- A read of the load or store engine has lost its bank: what it sent lands poisoned. -/
def State.poisonSend (s : State) (key seq : Nat) (p : Int) (lo n : Nat) : State :=
  let dev := s.deviceId
  let core := 16 * (key / 16) + s.vcoreOf key
  let onCore := fun (c : Core) =>
    { c with landing := poisonSent dev core seq lo n c.landing, inflight := poisonSent dev core seq lo n c.inflight,
             drizzle := poisonRequests lo n c.drizzle }
  let onLink := fun (k : Link) => { k with vc0 := poisonPackets dev core p lo n k.vc0, vc2 := poisonPackets dev core p lo n k.vc2 }
  { s with
    cores := mapAll (fun _ => Core.initial) onCore s.cores
    hbmStacks := mapAll (fun _ => Stack.initial) (fun k => { k with landing := poisonSent dev core seq lo n k.landing }) s.hbmStacks
    links := mapAll (fun _ => Link.initial) onLink s.links }

/-- An access has lost its bank. -/
def State.loseAccess (s : State) (key : Nat) (u : BankUse) : State :=
  let c := s.core key
  match u.loss with
  | .result n =>
    let c := c.changePend u.tag n fun t => [t.poisoned]
    s.setCore key (if u.engine < 3 then { c with lost := c.lost ++ upFrom u.tag n } else c)
  | .bytes a n =>
    let c := c.changePend u.tag 1 fun t => t.without a n
    let mark : PendWrite := { due := u.cycle, issued := (s.seq (key / 16)).now, tag := u.tag, target := .mark a n }
    s.setCore key (if u.engine = 2 then { c with pend := c.pend ++ [mark] } else c)
  | .sieve f cycle bank write => s.setCore key (c.changePend u.tag 1 fun t => t.sieveLoss f cycle bank write)
  | .send seq p a n => s.poisonSend key seq p a n

/-! ### Conflicts -/

/-- Whether an access reaches a bank in a cycle. -/
def BankUse.reaches (u : BankUse) (cycle bank : Nat) : Bool :=
  decide (u.cycle = cycle) && decide (u.bank ≤ bank) && decide (bank < u.bank + u.banks)

/-- Whether two accesses meet at a bank. -/
def BankUse.meets (u v : BankUse) : Bool :=
  decide (u.tag ≠ v.tag) && decide (u.cycle = v.cycle) && decide (u.bank < v.bank + v.banks) && decide (v.bank < u.bank + u.banks)

/-- Precedence of an access at a bank: Table 05.4, then the lower pipe (DEDUCED, log 20). -/
def BankUse.rank (u : BankUse) : Nat := 4 * u.engine + u.pipe

/-- The sieve's access of a bank in a cycle, if it makes one (R203): a free value within its banks while it runs. -/
def State.sieveUse (s : State) (key cycle bank : Nat) : List BankUse :=
  match (s.seq (key / 16)).sieve with
  | none => []
  | some v =>
    if v.from_ < cycle ∧ cycle ≤ v.until_ ∧ (mapGet (fun _ => []) v.banks key).contains bank then
      match Config.sieveAccess v.func (cycle - v.from_) bank with
      | none => []
      | some w =>
        [{ cycle := cycle, bank := bank, banks := 1, engine := 6, pipe := 0, tag := mapGet (fun _ => 0) v.tags key,
           loss := .sieve v.func (cycle - v.from_) bank w }]
    else []

/-- The accesses that meet at a bank in a cycle, by precedence. -/
def State.usesAt (s : State) (key cycle bank : Nat) : List BankUse :=
  let c := s.core key
  sortBy (fun u => (u.rank : Int)) (((c.arrayUses ++ c.uses).filter fun u => u.reaches cycle bank) ++ s.sieveUse key cycle bank)

/-- Record a conflict in CL_CONFLICT while VALID is clear; of the conflicts that one bundle causes, the lowest bank of the earliest cycle
stays (R140). -/
def State.noteConflict (s : State) (key cycle bank winner loser : Nat) : State :=
  let c := key / 16
  let p := key % 16
  let now := (s.seq c).now
  let better := match (s.core key).noted with
    | some (i, t, b) => decide (i = now) && (decide (cycle < t) || (decide (cycle = t) && decide (bank ≤ b)))
    | none => false
  if s.flag (Reg.CL_CONFLICT_VALID c p) && !better then s
  else
    let s := s.setCore key { s.core key with noted := some (now, cycle, bank) }
    (((s.fset (Reg.CL_CONFLICT_WINNER c p) winner).fset (Reg.CL_CONFLICT_LOSER c p) loser).fset
      (Reg.CL_CONFLICT_BANK c p) bank).fsetb (Reg.CL_CONFLICT_VALID c p) true

/-- The conflict at a bank in a cycle: the first engine performs its access and every other one loses its own (R140). -/
def State.resolve (s : State) (key cycle bank : Nat) : State :=
  match s.usesAt key cycle bank with
  | w :: l :: rest => ((l :: rest).foldl (fun s u => s.loseAccess key u) s).noteConflict key cycle bank w.engine l.engine
  | _ => s

/-- The cluster halts for a conflict: with the checker's reason where it is enabled (Table 06.15; DESIGN CHOICE, log 128). -/
def State.conflictHalt (s : State) (key : Nat) : State :=
  s.halt (key / 16) (if s.checking (key / 16) then 0x80 else 0x45) (some key)

/-- The banks at which an access meets another one, ascending. The arrays' accesses do not meet each other (DESIGN CHOICE, log 27). -/
def State.meetings (s : State) (key : Nat) (u : BankUse) : List Nat :=
  let c := s.core key
  let others := if u.engine < 3 then c.uses else c.arrayUses ++ c.uses
  let own := (others.filter u.meets).map fun v => max u.bank v.bank
  let sieve := (upFrom u.bank u.banks).filter fun b => !(s.sieveUse key u.cycle b).isEmpty
  sortBy (fun b => (b : Int)) (own ++ sieve).eraseDups

/-- Resolve the conflicts of an access at some banks, and halt if there is one. -/
def State.conflicts (s : State) (key cycle : Nat) (banks : List Nat) : State :=
  if banks.isEmpty then s else (banks.foldl (fun s b => s.resolve key cycle b) s).conflictHalt key

/-- Keep an access. -/
def Core.noteUse (c : Core) (u : BankUse) : Core :=
  if u.engine < 3 then { c with arrayUses := c.arrayUses ++ [u] } else { c with uses := c.uses ++ [u] }

/-- Add a scheduled access: it conflicts with the accesses that it meets (R140, R198). -/
def State.useBank (s : State) (key : Nat) (u : BankUse) : State :=
  (s.setCore key ((s.core key).noteUse u)).conflicts key u.cycle (s.meetings key u)

/-- An access that was scheduled before a SIEVE started meets it. -/
def State.meetSieve (s : State) (key : Nat) (u : BankUse) : State :=
  s.conflicts key u.cycle ((upFrom u.bank u.banks).filter fun b => !(s.sieveUse key u.cycle b).isEmpty)

/-- The access of [a, a + n) in a cycle. -/
def bankUse (engine pipe tag cycle a n : Nat) (loss : Loss) : BankUse :=
  { cycle := cycle, bank := bankOf a, banks := (a + n + 63) / 64 - a / 64, engine := engine, pipe := pipe, tag := tag, loss := loss }

/-- Add the bank accesses of a result. -/
def State.useBanks (s : State) (key engine pipe tag issued : Nat) (accs : List (Nat × Nat × Nat × Bool)) : State :=
  accs.foldl (fun s x =>
    s.useBank key (bankUse engine pipe tag (issued + x.1) x.2.1 x.2.2.1 (if x.2.2.2 then .bytes x.2.1 x.2.2.1 else .result 1))) s

/-- Queue one result: a second write of one bundle to the same register in the same cycle is decode error 0x05 (R171). Of two writes
of one cycle from different bundles the checker refuses the later one (Table 06.15, 0x86). -/
def State.queueWrite (s : State) (key tag : Nat) (w : Nat × Target) : State :=
  let c := s.core key
  let now := (s.seq (key / 16)).now
  let twice := c.pend.filter fun p => decide (p.due = now + w.1) && p.target.clash w.2
  if twice.any fun p => decide (p.issued = now) then s.halt (key / 16) 0x05 (some key)
  else if s.checking (key / 16) && !twice.isEmpty then s.halt (key / 16) 0x86 (some key)
  else s.setCore key { c with pend := c.pend ++ [{ due := now + w.1, issued := now, tag := tag, target := w.2 }] }

/-- Apply an operation's effect on a core: results, bank accesses, flags, halts. -/
def State.applyEffect (s : State) (key engine pipe : Nat) (e : Effect) : State :=
  let c := s.core key
  let tag := c.tags
  let s := s.setCore key { c with tags := tag + 1 }
  let s := e.writes.foldl (fun s w => s.queueWrite key tag w) s
  let s := s.useBanks key engine pipe tag (s.seq (key / 16)).now e.access
  let s := s.setFlags key e.flags
  e.halts.foldl (fun s r => s.halt (key / 16) r (some key)) s

/-- Run an operation on every core of the cluster on which PG lets it execute. `f` gives the effect on a core, and the state
after the reads it makes. -/
def State.onCores (s : State) (cl : Nat) (pg : BitVec 4) (engine pipe : Nat) (f : State → Nat → Effect × State) : State :=
  (s.coresOf cl).foldl (fun s key =>
    match s.guard key pg with
    | none => s
    | some b =>
      let (e, s) := f s key
      s.applyEffect key engine pipe (e.poison b)) s

/-- The reasons of an operation's decode errors, each once: an invalid PG (R170), and those of its own fields. -/
def decodeReasons (pg : Bool) (own : List Nat) : List Nat := (if pg then own else 0x03 :: own).eraseDups

/-- Run an operation that has issued, unless it has decode errors: each of them is a cause of a halt (R196). -/
def State.decoded (s : State) (cl : Nat) (errors : List Nat) (f : State → State) : State :=
  match errors with
  | [] => f s
  | rs => s.haltAll cl rs

/-- Issue an operation that runs per core under PG. `own` are the reasons of decode errors of the operation's own fields. -/
def State.runSlot (s : State) (i : Issue) (slot : Slot) (engine pipe : Nat) (own : List Nat)
    (f : State → Nat → Effect × State) : State :=
  s.withIssue i slot fun s =>
    s.decoded i.cl.val (decodeReasons (pgValid i.pg) own) fun s => s.onCores i.cl.val i.pg engine pipe f

end Sys2Proof.Machine
end

