-- ==== Sys2Proof/Machine/Operands.lean ====
section
/-! DEFINITION. Operand forms: scalar registers, scratchpad addresses, format codes, cue-relative ticks, and the checks of the
continuity checker on reads. -/

namespace Sys2Proof.Machine

/-! ## Scalar registers (Table 06.3) -/

/-- Whether a scalar register is read-only (R172). -/
def readOnlyScalar (r : BitVec 5) : Bool := decide (r = 0) || decide (27 ≤ r.toNat)

/-- SV_CUTS, which s27 STEP equals. -/
def State.cuts (s : State) : Nat := s.fget Reg.SV_CUTS_CUTS

/-- The take seed. -/
def State.seed (s : State) : DWord :=
  match s.take.active with
  | some r => r.seed
  | none => 0

/-- Read a scalar register of a core: s0 is 0, s27 to s31 read what Table 06.3 gives them. -/
def State.sval (s : State) (key : Nat) (r : BitVec 5) : SVal :=
  let n := r.toNat
  if n = 0 then ⟨0, false⟩
  else if n = 27 then ⟨BitVec.ofNat 64 s.cuts, false⟩
  else if n = 28 then ⟨BitVec.ofNat 64 (s.vcoreOf key), false⟩
  else if n = 29 then ⟨BitVec.ofNat 64 (key / 16), false⟩
  else if n = 30 then ⟨BitVec.ofNat 64 s.deviceId, false⟩
  else if n = 31 then ⟨s.seed, false⟩
  else mapGet (fun _ => ⟨0, false⟩) (s.core key).sregs n

/-- The decode reason of a write to a scalar register, if it is read-only (0x04). -/
def writesScalar (r : BitVec 5) : List Nat := if readOnlyScalar r then [0x04] else []

/-- A sign-extended 32-bit immediate. -/
def immS (i : Word) : DWord := i.signExtend 64

/-- Vector register of a core. -/
def State.vval (s : State) (key : Nat) (r : BitVec 5) : VVal := mapGet (fun _ => ⟨0, 0⟩) (s.core key).vregs r.toNat

/-- Lane k of a vector register, as a 32-bit pattern. -/
def VVal.lane (v : VVal) (k : Nat) : Nat := (v.v.extractLsb' (32 * k) 32).toNat

/-- Poison bit of lane k: that of its 64-bit granule (R148). -/
def VVal.lanePoison (v : VVal) (k : Nat) : Bool := v.p.getLsbD (k / 2)

/-- Whether any granule is poisoned. -/
def VVal.anyPoison (v : VVal) : Bool := decide (v.p ≠ 0)

/-! ## Format codes (Table 06.5) -/

/-- The number formats that operations name. -/
inductive Format where
  | cb4 | cb6 | cb8 | i4 | i8 | bf16 | hf16 | f32
deriving DecidableEq, Repr

/-- The format of a code; 0x8 to 0xF are reserved. -/
def formatOf (c : Nat) : Option Format :=
  match c with
  | 0 => some .cb4
  | 1 => some .cb6
  | 2 => some .cb8
  | 3 => some .i4
  | 4 => some .i8
  | 5 => some .bf16
  | 6 => some .hf16
  | 7 => some .f32
  | _ => none

/-- The block format of a CB format. -/
def Format.block : Format → Option BlockFmt
  | .cb4 => some fmtCB4
  | .cb6 => some fmtCB6
  | .cb8 => some fmtCB8
  | _ => none

/-- The integer format of an integer format. -/
def Format.int : Format → Option IntFmt
  | .i4 => some fmtI4
  | .i8 => some fmtI8
  | _ => none

/-- The wide format of a floating format. -/
def Format.float : Format → Option FloatFmt
  | .bf16 => some fmtBF16
  | .hf16 => some fmtHF16
  | .f32 => some fmtF32
  | _ => none

/-! ## Scratchpad operands -/

/-- The address and size of an LDS or STS (R175): SA + IMM[29:0], 2^IMM[31:30] bytes. -/
def scalarAddr (base : DWord) (imm : Word) : Nat × Nat :=
  ((base + BitVec.ofNat 64 (imm.toNat % 2 ^ 30)).toNat, 2 ^ (imm.toNat / 2 ^ 30))

/-- Whether a scalar access is misaligned or beyond the scratchpad (reason 0x22). -/
def scalarAddrBad (a n : Nat) : Bool := decide (a % n ≠ 0) || decide (spadSize < a + n)

/-- The address of a VLD or VST (Table 06.8): s[VA] + IMM × 512. -/
def vectorAddr (base : DWord) (imm : BitVec 20) : Nat := (base + BitVec.ofNat 64 (imm.toNat * 512)).toNat

/-- Whether a wide address is misaligned or beyond the scratchpad (reason 0x22). -/
def vectorAddrBad (a : Nat) : Bool := decide (a % 512 ≠ 0) || decide (spadSize < a + 512)

/-! ## Ticks counted from the cue -/

/-- The plan tick cue + n of a cluster's segment. -/
def State.cuePlus (s : State) (cl n : Nat) : Int := (s.seq cl).cueTick + n

/-! ## The continuity checker on reads (Table 06.15) -/

/-- Whether the issue window of the current bundle straddles a landing tick (R193): it lies neither wholly before nor wholly at
or after it. -/
def State.straddles (s : State) (cl : Nat) (p : Int) : Bool :=
  let q := s.seq cl
  let b := q.issued - q.winBase
  let f := s.planf
  decide (q.winLo + 8 * b < p * f) && decide (p * f ≤ q.winHi + 10 * b)

/-- Whether a landing writes any byte of [a, a + n). -/
def Landing.covers (l : Landing) (a n : Nat) : Bool :=
  l.rows.any fun r => decide (r.1 < a + n) && decide (a < r.1 + r.2.1.length)

/-- The checker's reasons against a scheduled read of [a, a + n): a straddled landing, an unwritten scratch byte, a mailbox
window whose copy's counter no WAIT of the step named. -/
def State.readChecks (s : State) (key a n : Nat) : List Nat :=
  let cl := key / 16
  if !s.checking cl then []
  else
    let c := s.core key
    (if (c.landing ++ c.inflight).any fun l => l.covers a n && s.straddles cl l.p then [0x81] else []) ++
    (if (upFrom a n).any fun b => s.areaOf key b == .scratch && !s.byteKnown key b then [0x82] else []) ++
    (if (upFrom (a / 8) (granCount a n)).any fun g =>
        let w := mapGet (fun _ => 0) s.windowCtr (granKey key g)
        s.areaOf key (8 * g) == .window && (decide (w = 0) || !(s.seq cl).waited.contains (w - 1))
      then [0x87] else [])

/-- The checker's reason against a scheduled read of HBM: a straddled store. -/
def State.hbmChecks (s : State) (key a n : Nat) : List Nat :=
  let cl := key / 16
  if s.checking cl && s.hbmStacks.any fun k => k.2.landing.any fun l => l.covers a n && s.straddles cl l.p then [0x81] else []

/-- A scheduled read: refused by the checker, or performed. -/
def State.scheduledRead (s : State) (key a n : Nat) : Except Nat ((List Byte × List Bool) × State) :=
  match s.readChecks key a n with
  | r :: _ => .error r
  | [] => .ok (s.spadRead key a n)

end Sys2Proof.Machine
end

