-- ==== Sys2Proof/Machine/Sfu.lean ====
section
/-! DEFINITION. The special functions of R155, correctly rounded to F32 under RNE. An irrational result is given to the
rounding as a close lower value with one more bit set below it, which rounds as the exact value does (DEDUCED, log 21). -/

namespace Sys2Proof.Machine

/-- Integer square root, bit by bit: the root of the bits taken so far, from bit `b` down. -/
def isqrtFrom (n : Nat) : Nat → Nat → Nat
  | 0, r => r
  | b + 1, r => isqrtFrom n b (if (r + 2 ^ b) * (r + 2 ^ b) ≤ n then r + 2 ^ b else r)

/-- The integer square root of a number. -/
def isqrt (n : Nat) : Nat := isqrtFrom n (Nat.log2 n / 2 + 1) 0

/-- A positive value between m × 2^e and (m + 1) × 2^e, exact where `exact`. -/
def stickyNum (neg : Bool) (m : Nat) (e : Int) (exact : Bool) : Num := .fin neg (2 * m + b2n (!exact)) (e - 1)

/-- 1 / (m × 2^e). -/
def rcpNum (neg : Bool) (m : Nat) (e : Int) : Num :=
  let k := Nat.log2 m + 64
  stickyNum neg (2 ^ k / m) (-e - k) (decide (2 ^ k % m = 0))

/-- √(m × 2^e). -/
def sqrtNum (m : Nat) (e : Int) : Num :=
  let odd := decide (e % 2 ≠ 0)
  let n := (if odd then 2 * m else m) * 4 ^ 64
  let h := (if odd then e - 1 else e) / 2
  let r := isqrt n
  stickyNum false r (h - 64) (decide (r * r = n))

/-- 1 / √(m × 2^e). -/
def rsqrtNum (m : Nat) (e : Int) : Num :=
  let odd := decide (e % 2 ≠ 0)
  let n := if odd then 2 * m else m
  let h := (if odd then e - 1 else e) / 2
  let k := Nat.log2 n + 64
  let q := 4 ^ k / n
  let r := isqrt q
  stickyNum false r (-h - k) (decide (r * r * n = 4 ^ k))

/-- ln 2 × 2^192, cut to an integer. -/
def ln2Fixed : Nat := 4350955369971217654477563090224794165364344896676135745069

/-- The sum of `n` further terms t, t y / k, t y² / (k (k + 1)), … in units of 2^-192. -/
def expTerms (y : Nat) : Nat → Nat → Nat → Nat
  | 0, _, _ => 0
  | n + 1, k, t => t + expTerms y n (k + 1) (t * y / 2 ^ 192 / k)

/-- 2^(f / 2^192) for a fraction f < 2^192, in units of 2^-192. -/
def exp2Frac (f : Nat) : Nat := expTerms (f * ln2Fixed / 2 ^ 192) 60 1 (2 ^ 192)

/-- 2^x of a finite value, with the flags of R155. -/
def exp2Fin (neg : Bool) (m : Nat) (e : Int) : Nat × BitVec 4 :=
  if m = 0 then fmtF32.round .rne false 0 (.fin false 1 0)
  else if 8 < log2Of m e then (if neg then (0, flagUF) else (fmtF32.inf false, flagOF))
  else
    -- x in units of 2^-192, and whether it is exact
    let fixed : Int := if -192 ≤ e then (m : Int) * 2 ^ (e + 192).toNat else (m : Int) / 2 ^ (-192 - e).toNat
    let whole := if -192 ≤ e then true else decide ((m : Int) % 2 ^ (-192 - e).toNat = 0)
    let x := if neg then -fixed else fixed
    let ip := x / 2 ^ 192
    let fp := (x % 2 ^ 192).toNat
    fmtF32.round .rne false 0 (stickyNum false (exp2Frac fp) (ip - 192) (decide (fp = 0) && whole))

/-- EXP2. -/
def sfuExp2 : Num → Nat × BitVec 4
  | .nan => (fmtF32.nan, flagNI)
  | .inf neg => (if neg then 0 else fmtF32.inf false, 0)
  | .fin neg m e => exp2Fin neg m e

/-- EXP: EXP2 of x × 0x3FB8_AA3B rounded in F32; the rounding sets no flag of its own. -/
def sfuExp (x : Num) : Nat × BitVec 4 :=
  match x with
  | .nan => (fmtF32.nan, flagNI)
  | .inf neg => (if neg then 0 else fmtF32.inf false, 0)
  | .fin .. =>
    match f32 (fmtF32.round .rne false 0 (Num.mul false x (f32 0x3FB8AA3B))).1 with
    | .inf neg => if neg then (0, flagUF) else (fmtF32.inf false, flagOF)
    | y => sfuExp2 y

/-- RCP. -/
def sfuRcp : Num → Nat × BitVec 4
  | .nan => (fmtF32.nan, flagNI)
  | .inf neg => (b2n neg * 2 ^ 31, 0)
  | .fin neg m e => if m = 0 then (fmtF32.inf neg, 0) else fmtF32.round .rne false 0 (rcpNum neg m e)

/-- SQRT. -/
def sfuSqrt : Num → Nat × BitVec 4
  | .nan => (fmtF32.nan, flagNI)
  | .inf neg => if neg then (fmtF32.nan, flagNV) else (fmtF32.inf false, 0)
  | .fin neg m e =>
    if m = 0 then (b2n neg * 2 ^ 31, 0)
    else if neg then (fmtF32.nan, flagNV)
    else fmtF32.round .rne false 0 (sqrtNum m e)

/-- RSQRT. -/
def sfuRsqrt : Num → Nat × BitVec 4
  | .nan => (fmtF32.nan, flagNI)
  | .inf neg => if neg then (fmtF32.nan, flagNV) else (0, 0)
  | .fin neg m e =>
    if m = 0 then (fmtF32.inf neg, 0)
    else if neg then (fmtF32.nan, flagNV)
    else fmtF32.round .rne false 0 (rsqrtNum m e)

/-- The function of a code of VSFU: 0 EXP2, 1 EXP, 2 RCP, 3 SQRT, 4 RSQRT. -/
def sfuEval (fn : Nat) (x : Num) : Nat × BitVec 4 :=
  match fn with
  | 0 => sfuExp2 x
  | 1 => sfuExp x
  | 2 => sfuRcp x
  | 3 => sfuSqrt x
  | _ => sfuRsqrt x

end Sys2Proof.Machine
end

