-- ==== Sys2Proof/Machine/Vector.lean ====
section
/-! DEFINITION. The vector slot: lane arithmetic, compares, conversions, reductions, special functions, loads, stores and
accumulator reads (R154, R155, R176, R177, R463, R464). -/

namespace Sys2Proof.Machine

/-- The number whose 32-bit digits are given, lane 0 lowest. -/
def joinLanes : List Nat → Nat
  | [] => 0
  | l :: ls => l + 2 ^ 32 * joinLanes ls

/-- The number whose bits are given, bit 0 lowest. -/
def joinBits : List Bool → Nat
  | [] => 0
  | b :: bs => b2n b + 2 * joinBits bs

/-- A vector value from its lanes and granule poison bits. -/
def VVal.ofLanes (ls : List Nat) (ps : List Bool) : VVal :=
  { v := BitVec.ofNat 4096 (joinLanes ls), p := BitVec.ofNat 64 (joinBits ps) }

/-- The 128 lanes of a register. -/
def VVal.lanes (v : VVal) : List Nat := (upFrom 0 128).map v.lane

/-- The 512 bytes of a register. -/
def VVal.bytes (v : VVal) : List Byte := toBytes 512 v.v.toNat

/-- A vector value from its bytes. -/
def VVal.ofBytes (bs : List Byte) (p : BitVec 64) : VVal := { v := BitVec.ofNat 4096 (Machine.ofBytes bs), p := p }

/-- Poison of an element-wise result: the granules of its sources, together (R148). -/
def poisonOf (vs : List VVal) : BitVec 64 := vs.foldl (fun p v => p ||| v.p) 0

/-- All flags of a list of lane results. -/
def flagsOf (rs : List (Nat × BitVec 4)) : BitVec 4 := rs.foldl (fun f r => f ||| r.2) 0

/-- The rounding key of a core, s26 (R463). -/
def State.roundKey (s : State) (key : Nat) : SVal := s.sval key 26

/-- The stochastic draw of a vector operation at position j (R463). -/
def State.vdraw (s : State) (key j : Nat) : Nat :=
  let k := (s.roundKey key).v
  srDraw s.seed (k.extractLsb' 0 32) (k.extractLsb' 32 32) (BitVec.ofNat 32 j)

/-- The granules that a poisoned rounding key poisons: the first `n`, under SR only (R463). -/
def State.keyPoison (s : State) (key : Nat) (r : Round) (n : Nat) : BitVec 64 :=
  if r = .sr ∧ (s.roundKey key).p then BitVec.ofNat 64 (2 ^ n - 1) else 0

/-- Decode check of a rounding field (0x06). -/
def roundDecode (rnd : BitVec 3) : List Nat := if (roundOf rnd).isNone then [0x06] else []

/-! ## Slots and pipes -/

/-- The slot of a pipe. -/
def pipeSlot (p : Fin 2) : Slot := if p = 0 then .v0 else .v1

/-- Take a pipe for an issue interval (Table 05.9); false where the interval of the last operation has not passed (0x48). -/
def State.takePipe (s : State) (cl : Nat) (p : Fin 2) (interval : Nat) : State × Bool :=
  let now := (s.seq cl).now
  let keys := s.coresOf cl
  if keys.any fun key => decide (now < (s.core key).pipeFree.getD p.val 0) then (s, false)
  else
    (keys.foldl (fun s key =>
      let c := s.core key
      s.setCore key { c with pipeFree := listSet c.pipeFree p.val (now + interval) }) s, true)

/-- Issue a vector operation: slot, pipe interval (0x48), PG and field checks, then its effect per core. -/
def State.runVector (s : State) (i : Issue) (p : Fin 2) (interval : Nat) (own : List Nat)
    (f : State → Nat → Effect × State) : State :=
  s.withIssue i (pipeSlot p) fun s =>
    s.decoded i.cl.val (decodeReasons (pgValid i.pg) own) fun s =>
      match s.takePipe i.cl.val p interval with
      | (s, false) => s.halt i.cl.val 0x48 none
      | (s, true) => s.onCores i.cl.val i.pg 0x5 p.val f

/-- The effect of writing a vector register. -/
def vwrite (lat : Nat) (vd : BitVec 5) (v : VVal) (fl : BitVec 4) : Effect :=
  { writes := [(lat, .vreg vd.toNat v)], flags := fl, halts := [], access := [] }

/-! ## Lane arithmetic -/

/-- A lane-wise operation of two sources under a rounding mode. -/
def vecBinary (f : Round → Nat → Nat → Nat → Nat × BitVec 4) (r : Round) (vd va vb : BitVec 5) (s : State) (key : Nat) :
    Effect × State :=
  let a := s.vval key va
  let b := s.vval key vb
  let rs := (upFrom 0 128).map fun k => f r (if r = .sr then s.vdraw key k else 0) (a.lane k) (b.lane k)
  (vwrite 4 vd { v := BitVec.ofNat 4096 (joinLanes (rs.map (·.1))), p := poisonOf [a, b] ||| s.keyPoison key r 64 }
    (flagsOf rs), s)

/-- VADD. -/
def execVadd (i : Issue) (p : Fin 2) (vd va vb : BitVec 5) (rnd : BitVec 3) (s : State) :
    Host.Outcome State Fault Refusal :=
  .next (s.runVector i p 1 (roundDecode rnd) (vecBinary addF32 ((roundOf rnd).getD .rne) vd va vb))

/-- VSUB. -/
def execVsub (i : Issue) (p : Fin 2) (vd va vb : BitVec 5) (rnd : BitVec 3) (s : State) :
    Host.Outcome State Fault Refusal :=
  .next (s.runVector i p 1 (roundDecode rnd) (vecBinary subF32 ((roundOf rnd).getD .rne) vd va vb))

/-- VMUL. -/
def execVmul (i : Issue) (p : Fin 2) (vd va vb : BitVec 5) (rnd : BitVec 3) (s : State) :
    Host.Outcome State Fault Refusal :=
  .next (s.runVector i p 1 (roundDecode rnd) (vecBinary mulF32 ((roundOf rnd).getD .rne) vd va vb))

/-- The effect of VFMA. -/
def vfmaEffect (r : Round) (vd va vb vc : BitVec 5) (s : State) (key : Nat) : Effect × State :=
  let a := s.vval key va
  let b := s.vval key vb
  let c := s.vval key vc
  let rs := (upFrom 0 128).map fun k =>
    fmaF32 r (if r = .sr then s.vdraw key k else 0) (a.lane k) (b.lane k) (c.lane k)
  (vwrite 4 vd { v := BitVec.ofNat 4096 (joinLanes (rs.map (·.1))), p := poisonOf [a, b, c] ||| s.keyPoison key r 64 }
    (flagsOf rs), s)

/-- VFMA: VA × VB + VC, rounded once. -/
def execVfma (i : Issue) (p : Fin 2) (vd va vb vc : BitVec 5) (rnd : BitVec 3) (s : State) :
    Host.Outcome State Fault Refusal :=
  .next (s.runVector i p 1 (roundDecode rnd) (vfmaEffect ((roundOf rnd).getD .rne) vd va vb vc))

/-- x is below y, with −0 below +0 (IEEE 754 minimum and maximum). -/
def zeroLt (x y : Num) : Bool :=
  match x, y with
  | .fin true 0 _, .fin false 0 _ => true
  | _, _ => x.lt y

/-- IEEE 754 minimum of two F32 codes: NaN if either is (DEDUCED, log 22). -/
def minF32 (x y : Nat) : Nat × BitVec 4 :=
  if (f32 x).isNaN || (f32 y).isNaN then (fmtF32.nan, flagNI) else (if zeroLt (f32 y) (f32 x) then y else x, 0)

/-- IEEE 754 maximum of two F32 codes. -/
def maxF32 (x y : Nat) : Nat × BitVec 4 :=
  if (f32 x).isNaN || (f32 y).isNaN then (fmtF32.nan, flagNI) else (if zeroLt (f32 x) (f32 y) then y else x, 0)

/-- VMIN. -/
def execVmin (i : Issue) (p : Fin 2) (vd va vb : BitVec 5) (s : State) : Host.Outcome State Fault Refusal :=
  .next (s.runVector i p 1 [] (vecBinary (fun _ _ => minF32) .rne vd va vb))

/-- VMAX. -/
def execVmax (i : Issue) (p : Fin 2) (vd va vb : BitVec 5) (s : State) : Host.Outcome State Fault Refusal :=
  .next (s.runVector i p 1 [] (vecBinary (fun _ _ => maxF32) .rne vd va vb))

/-! ## Compares, selections, permutations -/

/-- The conditions of VCMP: 0 =, 1 ≠, 2 <, 3 ≤, 4 unordered. -/
def vcmpHolds (c : Nat) (x y : Num) : Bool :=
  match c with
  | 0 => x.eq y
  | 1 => !x.eq y
  | 2 => x.lt y
  | 3 => x.lt y || x.eq y
  | _ => x.isNaN || y.isNaN

/-- The effect of VCMP: 1.0 or +0 per lane; a NaN operand sets NI. -/
def vcmpEffect (c : Nat) (vd va vb : BitVec 5) (s : State) (key : Nat) : Effect × State :=
  let a := s.vval key va
  let b := s.vval key vb
  let rs := (upFrom 0 128).map fun k =>
    let x := f32 (a.lane k)
    let y := f32 (b.lane k)
    (if vcmpHolds c x y then 0x3F800000 else 0, flagIf (x.isNaN || y.isNaN) flagNI)
  (vwrite 2 vd { v := BitVec.ofNat 4096 (joinLanes (rs.map (·.1))), p := poisonOf [a, b] } (flagsOf rs), s)

/-- VCMP; FMT[3] nonzero or FMT[2:0] of 5 to 7 names no condition (0x03). -/
def execVcmp (i : Issue) (p : Fin 2) (vd va vb : BitVec 5) (fmt : BitVec 4) (s : State) :
    Host.Outcome State Fault Refusal :=
  .next (s.runVector i p 1 (if 5 ≤ fmt.toNat then [0x03] else []) (vcmpEffect fmt.toNat vd va vb))

/-- VSEL: VC nonzero selects VA, else VB. A NaN that selects is no operand consumed: no NI (DESIGN CHOICE, log 123). -/
def execVsel (i : Issue) (p : Fin 2) (vd va vb vc : BitVec 5) (s : State) : Host.Outcome State Fault Refusal :=
  .next (s.runVector i p 1 [] fun s key =>
    let a := s.vval key va
    let b := s.vval key vb
    let c := s.vval key vc
    let ls := (upFrom 0 128).map fun k => if (f32 (c.lane k)).isZero then b.lane k else a.lane k
    (vwrite 2 vd { v := BitVec.ofNat 4096 (joinLanes ls), p := poisonOf [a, b, c] } 0, s))

/-- VPSET: a predicate from any, or all, lanes nonzero; FMT[3] selects. A NaN lane sets no NI (DESIGN CHOICE, log 123). -/
def execVpset (i : Issue) (p : Fin 2) (vd va : BitVec 5) (fmt : BitVec 4) (s : State) :
    Host.Outcome State Fault Refusal :=
  .next (s.runVector i p 1 [] fun s key =>
    let a := s.vval key va
    let nz := a.lanes.map fun l => !(f32 l).isZero
    (.write 2 (.pred (vd.toNat % 8) ⟨if fmt.getLsbD 3 then nz.all id else nz.any id, a.anyPoison⟩), s))

/-- VPERM: lane k takes lane VB[k][6:0] of VA. -/
def execVperm (i : Issue) (p : Fin 2) (vd va vb : BitVec 5) (s : State) : Host.Outcome State Fault Refusal :=
  .next (s.runVector i p 1 [] fun s key =>
    let a := s.vval key va
    let b := s.vval key vb
    let js := (upFrom 0 128).map fun k => b.lane k % 128
    let ps := (upFrom 0 64).map fun g =>
      b.p.getLsbD g || a.lanePoison (js.getD (2 * g) 0) || a.lanePoison (js.getD (2 * g + 1) 0)
    (vwrite 3 vd (VVal.ofLanes (js.map a.lane) ps) 0, s))

/-! ## Reduction (R102) -/

/-- One level of the reduction tree: lane k op lane k + s for each of the first half. -/
def reduceLevel (f : Nat → Nat → Nat → Nat × BitVec 4) (ls : List Nat) : List (Nat × BitVec 4) :=
  let h := ls.length / 2
  (List.zip (upFrom 0 h) (List.zip (ls.take h) (ls.drop h))).map fun x => f x.1 x.2.1 x.2.2

/-- The tree from level `t` on; `f` has the level and the lane for its draw. -/
def reduceTree (f : Nat → Nat → Nat → Nat → Nat × BitVec 4) : Nat → Nat → List Nat → BitVec 4 → Nat × BitVec 4
  | 0, _, ls, fl => (ls.headD 0, fl)
  | n + 1, t, ls, fl =>
    let rs := reduceLevel (f t) ls
    reduceTree f n (t + 1) (rs.map (·.1)) (fl ||| flagsOf rs)

/-- The operation of a reduction code of VRED: 0 add, 1 min, 2 max. -/
def vredOp (c : Nat) (r : Round) (draw : Nat) (x y : Nat) : Nat × BitVec 4 :=
  match c with
  | 0 => addF32 r draw x y
  | 1 => minF32 x y
  | _ => maxF32 x y

/-- The effect of VRED: lane 0 gets the reduction, the other lanes +0. -/
def vredEffect (c : Nat) (r : Round) (vd va : BitVec 5) (s : State) (key : Nat) : Effect × State :=
  let a := s.vval key va
  let (x, fl) := reduceTree (fun t k => vredOp c r (if r = .sr then s.vdraw key (128 * t + k) else 0)) 7 0 a.lanes 0
  let kp := if c = 0 then s.keyPoison key r 1 else 0
  (vwrite 28 vd { v := BitVec.ofNat 4096 x, p := (if a.anyPoison then 1 else 0) ||| kp } fl, s)

/-- VRED; FMT of 3 to 15 names no reduction (0x03); only the sum rounds, so only it can carry a reserved RND (R96, 0x06). -/
def execVred (i : Issue) (p : Fin 2) (vd va : BitVec 5) (rnd : BitVec 3) (fmt : BitVec 4) (s : State) :
    Host.Outcome State Fault Refusal :=
  .next (s.runVector i p 7 (if 3 ≤ fmt.toNat then [0x03] else if fmt = 0 then roundDecode rnd else [])
    (vredEffect fmt.toNat ((roundOf rnd).getD .rne) vd va))

/-! ## Special functions -/

/-- VSFU's decode check: FMT of 5 to 15 (0x03), a reserved RND (0x06), a mode other than RNE or pipe 1 (0x07). -/
def vsfuDecode (p : Fin 2) (rnd : BitVec 3) (fmt : BitVec 4) : List Nat :=
  (if 5 ≤ fmt.toNat then [0x03] else []) ++ roundDecode rnd ++
  (if ((roundOf rnd).isSome ∧ rnd ≠ 0) ∨ p ≠ 0 then [0x07] else [])

/-- The effect of VSFU. -/
def vsfuEffect (fn : Nat) (vd va : BitVec 5) (s : State) (key : Nat) : Effect × State :=
  let a := s.vval key va
  let rs := a.lanes.map fun l => sfuEval fn (f32 l)
  (vwrite 16 vd { v := BitVec.ofNat 4096 (joinLanes (rs.map (·.1))), p := a.p } (flagsOf rs), s)

/-- VSFU: EXP2, EXP, RCP, SQRT, RSQRT by FMT. -/
def execVsfu (i : Issue) (p : Fin 2) (vd va : BitVec 5) (rnd : BitVec 3) (fmt : BitVec 4) (s : State) :
    Host.Outcome State Fault Refusal :=
  .next (s.runVector i p 4 (vsfuDecode p rnd fmt) (vsfuEffect fmt.toNat vd va))

/-! ## Conversions (R97, R464) -/

/-- VCVT's decode check. -/
def vcvtDecode (vb : BitVec 5) (rnd : BitVec 3) (fmt : BitVec 4) : List Nat :=
  let src := vb.toNat % 16
  let packed := vb.getLsbD 4
  let reserved := (if 8 ≤ fmt.toNat then [0x03] else []) ++ (if packed = false ∧ src ≠ 0 ∨ 8 ≤ src then [0x03] else []) ++ roundDecode rnd
  if reserved.isEmpty ∧ packed = true ∧ (src = 7 ∨ fmt.toNat < 5) then [0x21] else reserved

/-- Poison of the granules that bytes [a, a + n) of a register lie in. -/
def poisonRange (p : BitVec 64) (a n : Nat) : Bool := (upFrom (a / 8) (granCount a n)).any fun g => p.getLsbD g

/-- The 128 source values of a packed image with one poison flag each: the granules of the element's code and of its scale
bytes (R148). -/
def unpackImage (f : Format) (bs : List Byte) (p : BitVec 64) : List (Num × Bool) :=
  match f.block, f.int, f.float with
  | some b, _, _ =>
    (upFrom 0 4).flatMap fun k =>
      let base := k * b.size
      let xs := b.decode ((bs.drop base).take b.size)
      let sp := poisonRange p (base + 4 * b.width) (b.size - 4 * b.width)
      (List.zip (upFrom 0 32) xs).map fun x =>
        let lo := b.width * x.1 / 8
        (x.2, sp || poisonRange p (base + lo) ((b.width * x.1 + b.width - 1) / 8 + 1 - lo))
  | _, some g, _ =>
    let sp := poisonRange p (16 * g.width) 2
    (List.zip (upFrom 0 128) (g.decode (bs.take g.size))).map fun x =>
      (x.2, sp || poisonRange p (g.width * x.1 / 8) 1)
  | _, _, some w =>
    let n := (1 + w.ebits + w.fbits) / 8
    (upFrom 0 128).map fun k => (w.decode (ofBytes ((bs.drop (n * k)).take n)), poisonRange p (n * k) n)
  | _, _, _ => []

/-- Encode 128 values as a packed image: bytes and flags. -/
def packImage (f : Format) (r : Round) (sat : Bool) (draw : Nat → Nat) (xs : List Num) : List Byte × BitVec 4 :=
  match f.block, f.int, f.float with
  | some b, _, _ =>
    let rs := (List.zip (upFrom 0 4) (groupsOf 32 4 xs)).map fun g => b.encode r (fun i => draw (32 * g.1 + i)) g.2
    (rs.flatMap (·.1), rs.foldl (fun a x => a ||| x.2) 0)
  | _, some g, _ => g.encode r draw xs
  | _, _, some w =>
    let n := (1 + w.ebits + w.fbits) / 8
    let rs := (List.zip (upFrom 0 128) xs).map fun x => w.round r sat (draw x.1) x.2
    (rs.flatMap fun x => toBytes n x.1, rs.foldl (fun a x => a ||| x.2) (flagIf (xs.any (·.isNaN)) flagNI))
  | _, _, _ => ([], 0)

/-- Which source values feed byte b of a packed image. -/
def imageFeeds (f : Format) (b : Nat) : List Nat :=
  match f.block, f.int, f.float with
  | some k, _, _ => upFrom (32 * (b / k.size)) 32
  | _, some _, _ => upFrom 0 128
  | _, _, some w => [b / ((1 + w.ebits + w.fbits) / 8)]
  | _, _, _ => []

/-- The effect of VCVT. -/
def vcvtEffect (src : Option Format) (dst : Format) (r : Round) (sat : Bool) (vd va : BitVec 5) (s : State) (key : Nat) :
    Effect × State :=
  let a := s.vval key va
  let xs := unpackImage (src.getD .f32) a.bytes a.p
  let (bs, fl) := packImage dst r sat (fun j => if r = .sr then s.vdraw key j else 0) (xs.map (·.1))
  let bad := xs.map (·.2)
  let ps := (upFrom 0 64).map fun g =>
    (upFrom (8 * g) (min 8 (bs.length - 8 * g))).any fun b => (imageFeeds dst b).any fun k => bad.getD k false
  let out := bs ++ List.replicate (512 - bs.length) 0#8
  (vwrite 4 vd { v := BitVec.ofNat 4096 (ofBytes out),
                 p := BitVec.ofNat 64 (joinBits ps) ||| s.keyPoison key r (ceilDiv bs.length 8) } fl, s)

/-- VCVT. -/
def execVcvt (i : Issue) (p : Fin 2) (vd va vb : BitVec 5) (rnd : BitVec 3) (sat : BitVec 1) (fmt : BitVec 4) (s : State) :
    Host.Outcome State Fault Refusal :=
  .next (s.runVector i p 1 (vcvtDecode vb rnd fmt)
    (vcvtEffect (if vb.getLsbD 4 then formatOf (vb.toNat % 16) else none) ((formatOf fmt.toNat).getD .f32)
      ((roundOf rnd).getD .rne) (sat == 1) vd va))

/-! ## Scratchpad and accumulator accesses -/

/-- The effect of VLD. -/
def vldEffect (vd va : BitVec 5) (imm : BitVec 20) (s : State) (key : Nat) : Effect × State :=
  let base := s.sval key va
  let a := vectorAddr base.v imm
  if vectorAddrBad a then (.stop 0x22, s)
  else
    match s.scheduledRead key a 512 with
    | .error r => (.stop r, s)
    | .ok ((bs, ps), s) =>
      let v := VVal.ofBytes bs (if base.p then BitVec.allOnes 64 else BitVec.ofNat 64 (joinBits ps))
      ({ writes := [(8, .vreg vd.toNat v)], flags := 0, halts := [], access := [(0, a, 512, false)] }, s)

/-- VLD: a wide read into VD. -/
def execVld (i : Issue) (p : Fin 2) (vd va : BitVec 5) (imm : BitVec 20) (s : State) :
    Host.Outcome State Fault Refusal :=
  .next (s.runVector i p 1 [] (vldEffect vd va imm))

/-- The effect of VST. -/
def vstEffect (vd va : BitVec 5) (imm : BitVec 20) (s : State) (key : Nat) : Effect × State :=
  let base := s.sval key va
  let a := vectorAddr base.v imm
  let v := s.vval key vd
  if vectorAddrBad a then (.stop 0x22, s)
  else if s.writeBarred key a 512 then (.stop 0x23, s)
  else
    ({ writes := [(1, .bytes a v.bytes ((upFrom 0 64).map fun g => base.p || v.p.getLsbD g))], flags := 0, halts := [],
       access := [(1, a, 512, true)] }, s)

/-- VST: a wide write of VD. -/
def execVst (i : Issue) (p : Fin 2) (vd va : BitVec 5) (imm : BitVec 20) (s : State) :
    Host.Outcome State Fault Refusal :=
  .next (s.runVector i p 1 [] (vstEffect vd va imm))

/-- Entries of an accumulator buffer (R114). -/
def accEntries : Nat := 45056

/-- An accumulator entry of a core; entry e of buffer n is at n × 45,056 + e. -/
def State.accEntry (s : State) (key i : Nat) : AccEntry := mapGet (fun _ => AccEntry.initial) (s.core key).acc i

/-- Whether an entry's parity bits disagree with its value (R118). -/
def AccEntry.parityBad (e : AccEntry) : Bool :=
  (e.par0 != parity (e.v.toNat % 2 ^ 20) 20) || (e.par1 != parity (e.v.toNat / 2 ^ 20) 20)

/-- Read an entry: its value and poison; a parity error poisons and is reported (R117, R118). -/
def State.accRead (s : State) (key i : Nat) : (Nat × Bool) × State :=
  let e := s.accEntry key i
  if e.parityBad then ((e.v.toNat, true), s.raise 0x21 1 key (Config.faultDetail 0x21 i).toNat) else ((e.v.toNat, e.poison), s)

/-- Read `n` entries. -/
def State.accReads (s : State) (key i : Nat) : Nat → List (Nat × Bool) × State
  | 0 => ([], s)
  | n + 1 =>
    let (x, s) := s.accRead key i
    let (xs, s) := s.accReads key (i + 1) n
    (x :: xs, s)

/-- Whether a pass of a running matrix operation is still to write one of the entries (Table 06.15, 0x83). -/
def State.accPending (s : State) (key lo n : Nat) : Bool :=
  (s.core key).pend.any fun w =>
    match w.target with
    | .acc i .. => decide (lo ≤ i) && decide (i < lo + n)
    | _ => false

/-- The effect of VACC: 128 entries converted to F32 under RNE. -/
def vaccEffect (vd va : BitVec 5) (imm : BitVec 20) (s : State) (key : Nat) : Effect × State :=
  let base := s.sval key va
  let n := imm.toNat / 2 ^ 18
  let e := (base.v + BitVec.ofNat 64 (imm.toNat % 2 ^ 18 * 128)).toNat
  if accEntries < e + 128 then (.stop 0x2A, s)
  else if s.checking (key / 16) && s.accPending key (n * accEntries + e) 128 then (.stop 0x83, s)
  else
    let (xs, s) := s.accReads key (n * accEntries + e) 128
    let rs := xs.map fun x =>
      let v := fmtW40.decode x.1
      let (c, fl) := fmtF32.round .rne false 0 v
      (c, fl ||| flagIf v.isNaN flagNI)
    let ps := (upFrom 0 64).map fun g =>
      base.p || (xs.getD (2 * g) (0, false)).2 || (xs.getD (2 * g + 1) (0, false)).2
    (vwrite 8 vd (VVal.ofLanes (rs.map (·.1)) ps) (flagsOf rs), s)

/-- VACC. -/
def execVacc (i : Issue) (p : Fin 2) (vd va : BitVec 5) (imm : BitVec 20) (s : State) :
    Host.Outcome State Fault Refusal :=
  .next (s.runVector i p 1 [] (vaccEffect vd va imm))

end Sys2Proof.Machine
end

