-- ==== Sys2Proof/Machine/Matrix.lean ====
section
/-! DEFINITION. The matrix arrays: geometry and checks of a matrix operation, the canonical fold, passes, the matrix slot and the
fades (R103 to R133, R178, R179). -/

namespace Sys2Proof.Machine

/-! ## Geometry (Tables 04.1 to 04.6) -/

/-- Weight modes (R104). -/
inductive WeightMode where
  | dual | single | quarter
deriving DecidableEq, Repr

/-- The weight mode of a (stationary, streamed) pair; other pairs are not permitted (R88). -/
def pairMode (sf af : Format) : Option WeightMode :=
  match sf, af with
  | .cb4, .cb4 => some .dual
  | .i4, .i4 => some .dual
  | .cb4, .cb8 => some .single
  | .cb8, .cb4 => some .single
  | .cb6, .cb6 => some .single
  | .cb8, .cb8 => some .single
  | .i8, .i8 => some .single
  | .bf16, .bf16 => some .quarter
  | .hf16, .hf16 => some .quarter
  | _, _ => none

/-- Pass geometry of an operation: logical K per pass, slice width, round trip, row interval, weight-load time. -/
structure Geometry where
  dk : Nat
  wn : Nat
  trip : Nat
  row : Nat
  load : Nat
deriving DecidableEq, Repr

/-- Bytes of a unit image of the stationary operand (R79, R84, Table 04.6); `sp` is the SPARSE code. -/
def unitBytes (f : Format) (sp : Nat) : Nat :=
  match f.block, f.int with
  | some b, _ =>
    let scale := if b.micro then 2 else 1
    if sp = 0 then b.size else if sp = 1 then 2 * b.width + scale + 4 else b.width + scale + 2
  | _, some g => g.size
  | _, _ => if sp = 0 then 64 else if sp = 1 then 36 else 18

/-- Elements of logical K per combine unit (Table 03.5). -/
def unitLen (f : Format) : Nat := if f.int.isSome then 128 else 32

/-- The geometry of an operation (Tables 04.3 to 04.5); the load time is the pass image over 4,096 bits per cycle. -/
def geometry (sf : Format) (mode : WeightMode) (stratus : Bool) (sp : Nat) : Geometry :=
  let d := if stratus then 32 else 128
  let dk := if sp = 0 then d else if sp = 3 then 4 * d else 2 * d
  let w := (if stratus then 512 else 128) * (if mode = .dual then 2 else 1)
  let wn := if sp = 3 then w / 2 else w
  let image := wn * (dk / unitLen sf) * unitBytes sf sp
  { dk := dk, wn := wn, trip := if stratus then 40 else 160,
    row := if mode = .quarter then 4 else if stratus && mode == .dual then 2 else 1,
    load := ceilDiv image 512 * (if sp = 3 then 2 else 1) }

/-- Rows of the largest M-chunk. -/
def Geometry.mc (g : Geometry) : Nat := accEntries / g.wn

/-- M, K and N of an operation: value / 32 − 1 in 7 bits (R178). -/
def MmaBits.rows (b : MmaBits) : Nat := 32 * (b.m.toNat + 1)

/-- K. -/
def MmaBits.depth (b : MmaBits) : Nat := 32 * (b.k.toNat + 1)

/-- N. -/
def MmaBits.cols (b : MmaBits) : Nat := 32 * (b.n.toNat + 1)

/-- The stationary format. -/
def MmaBits.sf (b : MmaBits) : Format := (formatOf b.sfmt.toNat).getD .cb4

/-- The streamed format. -/
def MmaBits.af (b : MmaBits) : Format := (formatOf b.afmt.toNat).getD .cb4

/-- The format of the output. -/
def MmaBits.tf (b : MmaBits) : Format := (formatOf b.tfmt.toNat).getD .f32

/-- The weight mode. -/
def MmaBits.mode (b : MmaBits) : WeightMode := (pairMode b.sf b.af).getD .single

/-- The geometry. -/
def MmaBits.geo (b : MmaBits) : Geometry := geometry b.sf b.mode (b.form == 1) b.sparse.toNat

/-- Whether the results go to the scratchpad. -/
def MmaBits.toOut (b : MmaBits) : Bool := b.dest == 0

/-! ## The canonical fold (R107) -/

/-- N-slices of an operation. -/
def MmaBits.slices (b : MmaBits) : Nat := ceilDiv b.cols b.geo.wn

/-- Rounds: slices by four arrays. -/
def MmaBits.rounds (b : MmaBits) : Nat := ceilDiv b.slices 4

/-- K-chunks. -/
def MmaBits.kchunks (b : MmaBits) : Nat := ceilDiv b.depth b.geo.dk

/-- M-chunks. -/
def MmaBits.mchunks (b : MmaBits) : Nat := ceilDiv b.rows b.geo.mc

/-- Passes of the fold. -/
def MmaBits.passes (b : MmaBits) : Nat := b.mchunks * (b.rounds * b.kchunks)

/-- The M-chunk, round and K-chunk of pass `p`. -/
def MmaBits.passAt (b : MmaBits) (p : Nat) : Nat × Nat × Nat :=
  (p / (b.rounds * b.kchunks), p / b.kchunks % b.rounds, p % b.kchunks)

/-- The number in the fold of (M-chunk, round, K-chunk). -/
def MmaBits.passOf (b : MmaBits) (mc rd kc : Nat) : Nat := (mc * b.rounds + rd) * b.kchunks + kc

/-- Rows of an M-chunk. -/
def MmaBits.chunkRows (b : MmaBits) (mc : Nat) : Nat := min b.geo.mc (b.rows - mc * b.geo.mc)

/-- The witness cycles after `n` cycles of rows: ceil(n / 128) when WIT is 1. -/
def MmaBits.witCycles (b : MmaBits) (n : Nat) : Nat := if b.wit = 1 then ceilDiv n 128 else 0

/-- Cycles of a pass's rows, witness comparisons included. -/
def MmaBits.rowCycles (b : MmaBits) (rows : Nat) : Nat := b.geo.row * rows + b.witCycles (b.geo.row * rows)

/-- S_p: the spacing from pass `p` to the next (R108). -/
def MmaBits.spacing (b : MmaBits) (p : Nat) : Nat :=
  max (b.rowCycles (b.chunkRows (b.passAt p).1)) (max b.geo.trip b.geo.load)

/-- The sum of S_p for `n` passes from pass `p`. -/
def MmaBits.spacings (b : MmaBits) (p : Nat) : Nat → Nat
  | 0 => 0
  | n + 1 => b.spacing p + b.spacings (p + 1) n

/-- Cycles from the start of A0's first pass to the operation's last accumulator write, stagger included (R108). -/
def MmaBits.runLength (b : MmaBits) : Nat :=
  24 + b.spacings 0 (b.passes - 1) + b.rowCycles (b.chunkRows (b.mchunks - 1)) + b.geo.trip

/-- C: the operation's length from issue; `cold` says that the arrays fade in first (R108, R126). -/
def MmaBits.length (b : MmaBits) (cold : Bool) : Nat := max b.geo.load (if cold then 32 else 0) + b.runLength

/-! ## Checks (R105, R178) -/

/-- Decode errors: a reserved format or rounding mode. -/
def MmaBits.decodeErrors (b : MmaBits) : List Nat :=
  (if 8 ≤ b.sfmt.toNat ∨ 8 ≤ b.afmt.toNat ∨ 8 ≤ b.tfmt.toNat then [0x03] else []) ++
  (if (roundOf b.rnd).isNone then [0x06] else [])

/-- Whether a combination of parameters is forbidden (R105, R113, R115, R123, R132). -/
def MmaBits.forbidden (b : MmaBits) : Bool :=
  (b.sf.int.isSome && (b.form == 1 || b.sparse != 0 || decide (b.depth % 128 ≠ 0))) ||
  (b.wit == 1 && decide (b.mode = .quarter)) ||
  ((b.dest == 1 || b.accum == 1) && (decide (b.geo.mc < b.rows) || decide (4 * b.geo.wn < b.cols)))

/-- The parameter checks, on every core: pair, then combination. -/
def MmaBits.paramErrors (b : MmaBits) : List Nat :=
  if (pairMode b.sf b.af).isNone then [0x21] else if b.forbidden then [0x20] else []

/-- Bytes of one image of a block column of A or OUT (R179). -/
def imageBytes (f : Format) : Nat :=
  match f.block, f.int, f.float with
  | some b, _, _ => b.size
  | _, some g, _ => g.size
  | _, _, some w => 32 * ((1 + w.ebits + w.fbits) / 8)
  | _, _, _ => 0

/-- Bytes of a block column of `rows` rows, padded to a multiple of 512. -/
def columnBytes (f : Format) (rows : Nat) : Nat := ceilDiv (rows * imageBytes f) 512 * 512

/-- Whether an operand of `n` bytes at an address is misaligned or beyond the scratchpad. -/
def operandBad (a n : Nat) : Bool := decide (a % 512 ≠ 0) || decide (spadSize < a + n)

/-- Bytes of A. -/
def MmaBits.aBytes (b : MmaBits) : Nat := b.depth / unitLen b.af * columnBytes b.af b.rows

/-- Bytes of B: the pass images of one M-chunk. -/
def MmaBits.bBytes (b : MmaBits) : Nat := b.slices * b.kchunks * (b.geo.load * 512)

/-- Bytes of OUT. -/
def MmaBits.oBytes (b : MmaBits) : Nat := ceilDiv b.cols (unitLen b.tf) * columnBytes b.tf b.rows

/-- The checks on values taken from scalars, on a core that executes (R178). -/
def MmaBits.scalarErrors (b : MmaBits) (a w o : Nat) : List Nat :=
  (if operandBad a b.aBytes || operandBad w b.bBytes || (b.toOut && operandBad o b.oBytes) then [0x22] else []) ++
  (if !b.toOut && decide (accEntries < o + b.rows * b.geo.wn) then [0x2A] else [])

/-! ## The matrix slot (R110) -/

/-- The cycles at which each array starts its first pass when A0 starts at `t`: the stagger of R128. -/
def stagger (t : Nat) : List Nat := [t, t + 8, t + 16, t + 24]

/-- The cycle at which array `j` starts the operation's last pass. -/
def MmaRun.lastStart (r : MmaRun) (j : Nat) : Nat :=
  let n := r.next.getD j 0
  let P := r.bits.passes
  let t := r.slotAt.getD j 0
  if n = P then t - r.bits.spacing (P - 1) else t + r.bits.spacings n (P - 1 - n)

/-- The slot S_p after the last pass on array `j`. -/
def MmaRun.slotAfter (r : MmaRun) (j : Nat) : Nat := r.lastStart j + r.bits.spacing (r.bits.passes - 1)

/-- Whether every pass of an operation has started. -/
def MmaRun.allStarted (r : MmaRun) : Bool := r.next.all fun n => decide (n = r.bits.passes)

/-- Give a run its timing: taken up at `start`, A0's first pass at `first`. -/
def MmaRun.timed (r : MmaRun) (start first : Nat) (slots : List Nat) : MmaRun :=
  { r with start := start, slotAt := slots, endAt := first + r.bits.runLength }

/-- Timing of an operation that starts as if issued at `t`. -/
def MmaRun.asIssued (r : MmaRun) (t : Nat) (cold : Bool) : MmaRun :=
  let first := t + max r.bits.geo.load (if cold then 32 else 0)
  r.timed t first (stagger first)

/-- Timing of an operation issued at `now` while another of the same FORM runs: the third and fourth case of R110. -/
def MmaRun.afterSame (r run : MmaRun) (now : Nat) : MmaRun :=
  let slots := (upFrom 0 4).map run.slotAfter
  if now ≤ run.lastStart 0 then r.timed (slots.getD 0 0) (slots.getD 0 0) slots
  else
    let own := stagger (now + r.bits.geo.load)
    let starts := List.zipWith max own slots
    r.timed (starts.getD 0 0) (starts.getD 0 0) starts

/-- Timing of an operation that becomes pending behind a running one (R110). -/
def MmaRun.behind (r run : MmaRun) (now : Nat) : MmaRun :=
  if run.bits.fade = 1 then r.asIssued (run.endAt + 32) true
  else if run.bits.form ≠ r.bits.form then r.asIssued (run.endAt + 12) false
  else r.afterSame run now

/-- The running operation of a core at a cycle: one whose passes have all started and whose length has passed is over. -/
def Core.runningAt (c : Core) (now : Nat) : Option MmaRun :=
  match c.running with
  | some r => if r.allStarted && decide (r.endAt ≤ now) then none else some r
  | none => none

/-- When a fade-out ends, if one is under way at a cycle: an operation waits for it (R126). -/
def Core.fadeEnd (c : Core) (now : Nat) : Option Nat :=
  match c.running, c.fadeUntil with
  | some r, f =>
    if r.bits.fade = 1 ∧ r.allStarted = true ∧ r.endAt ≤ now ∧ now < r.endAt + 32 then some (r.endAt + 32)
    else f.bind fun t => if now < t then some t else none
  | none, f => f.bind fun t => if now < t then some t else none

/-- Whether the arrays are cold for an operation that starts now. -/
def Core.isCold (c : Core) : Bool :=
  decide (c.warm ≠ 0xF) || c.fadeUntil.isSome || (match c.running with
    | some r => decide (r.bits.fade = 1)
    | none => false)

/-- An operation runs: every array of the core is warm from its first pass on, those without a slice too (DESIGN CHOICE, log 117: R126
speaks of the pass that makes an array warm, and not of an array that idles through the operation), and none waits for a hold's end. -/
def Core.runs (c : Core) (r : MmaRun) : Core := { c with running := some r, warm := 0xF, fadeUntil := none, holdFaded := 0 }

/-- Put an operation into the matrix slot. -/
def Core.takeMma (c : Core) (r : MmaRun) (now : Nat) : Core :=
  match c.runningAt now with
  | some run => { c with waiting := some (r.behind run now) }
  | none =>
    match c.fadeEnd now with
    | some t => { c with running := none, waiting := some (r.asIssued t true) }
    | none => c.runs (r.asIssued now c.isCold)

/-- The run of an operation on a core, before its timing is known. -/
def mmaRun (s : State) (key now : Nat) (b : MmaBits) (off poison : Bool) : MmaRun :=
  let a := s.sval key b.sa
  let w := s.sval key b.sb
  let o := s.sval key b.so
  let t := s.sval key b.st
  { bits := b, aAddr := a.v.toNat, bAddr := w.v.toNat, outAddr := o.v.toNat, tensor := t.v.toNat % 2 ^ 32, off := off,
    poison := poison || a.p || w.p || o.p || (t.p && b.toOut && decide (b.rnd = 4)), issue := now, start := now,
    next := [0, 0, 0, 0], slotAt := [], endAt := 0, tag := (s.core key).tags }

/-- The run that an operation issued now gets on a core under PG. -/
def State.mmaRunOn (s : State) (key : Nat) (pg : BitVec 4) (b : MmaBits) : MmaRun :=
  let g := s.guard key pg
  mmaRun s key (s.seq (key / 16)).now b g.isNone (g.getD false)

/-! ### Bank accesses of the arrays (R109, Table 05.4)

Their cycles are given for the load of a first pass into a free array alone; the others are free values (log 27). -/

/-- Whether an array has a slice in a round. -/
def MmaRun.sliced (r : MmaRun) (rd j : Nat) : Bool := !r.off && decide (4 * rd + j < r.bits.slices)

/-- Address of the pass image of (round, K-chunk, array) (R179). -/
def MmaRun.imageAt (r : MmaRun) (rd kc j : Nat) : Nat :=
  let active := min 4 (r.bits.slices - 4 * rd)
  r.bAddr + (4 * rd * r.bits.kchunks + kc * active + j) * (r.bits.geo.load * 512)

/-- The tag of the results of pass `p` on array `j`. -/
def MmaRun.tagOf (r : MmaRun) (p j : Nat) : Nat := r.tag + 4 * p + j

/-- Schedule the load of pass `p` on array `j`: one wide access each cycle, within `slack` cycles of the first in which it may begin. -/
def State.useLoad (s : State) (key : Nat) (r : MmaRun) (p j first slack : Nat) : State :=
  let (_, rd, kc) := r.bits.passAt p
  let from_ := first + Config.loadSlack slack % (slack + 1)
  if p < r.bits.passes ∧ r.sliced rd j = true then
    (upFrom 0 r.bits.geo.load).foldl (fun s k =>
      s.useBank key (bankUse 0 j (r.tagOf p j) (from_ + k) (r.imageAt rd kc j + 512 * k) 512 (.result 1))) s
  else s

/-- The cycle from which array `j` may load the first pass of an operation: its shadow registers are free once an operation before it on
the same core has started its last pass. -/
def MmaRun.loadFrom (r : MmaRun) (before : Option MmaRun) (j : Nat) : Nat :=
  max (r.issue + 8 * j) (max (r.start - r.bits.geo.load) (match before with
    | some run => run.lastStart j
    | none => 0))

/-- Schedule the loads of an operation's first pass. -/
def State.useFirstLoads (s : State) (key : Nat) (before : Option MmaRun) (r : MmaRun) : State :=
  (upFrom 0 4).foldl (fun s j =>
    let e := r.loadFrom before j
    s.useLoad key r 0 j e (r.slotAt.getD j 0 - (e + r.bits.geo.load))) s

/-- Issue a matrix operation on one core: it enters the matrix slot, and its first loads are scheduled. -/
def State.mmaOnCore (s : State) (key : Nat) (pg : BitVec 4) (b : MmaBits) : State :=
  let now := (s.seq (key / 16)).now
  let before := (s.core key).runningAt now
  let k := (s.core key).takeMma (s.mmaRunOn key pg b) now
  let s := s.setCore key { k with tags := k.tags + 4 * b.passes }
  match k.waiting, k.running with
  | some w, _ => s.useFirstLoads key before w
  | none, some r => s.useFirstLoads key none r
  | none, none => s

/-- The errors of the values that a core takes from its scalars: none where it is guarded off. -/
def State.mmaScalars (s : State) (pg : BitVec 4) (b : MmaBits) (key : Nat) : List (Nat × Option Nat) :=
  let r := s.mmaRunOn key pg b
  if r.off then [] else (b.scalarErrors r.aAddr r.bAddr r.outAddr).map fun e => (e, some key)

/-- What halts the cluster for a matrix operation, with the core concerned: decode errors; else errors of its parameters; else those of the
cores' scalars; and a matrix slot that is full (0x44). -/
def State.mmaErrors (s : State) (cl : Nat) (pg : BitVec 4) (b : MmaBits) : List (Nat × Option Nat) :=
  let decode := decodeReasons (pgValid pg) b.decodeErrors
  let params := if decode.isEmpty then b.paramErrors else []
  let common := (decode ++ params).map fun e => (e, none)
  common ++ (if common.isEmpty then (s.coresOf cl).flatMap (s.mmaScalars pg b) else []) ++
    (if (s.coresOf cl).any fun key => (s.core key).waiting.isSome then [(0x44, none)] else [])

/-- Issue a matrix operation on a cluster: on every core, or on none where it is in error. -/
def State.issueMma (s : State) (cl : Nat) (pg : BitVec 4) (b : MmaBits) : State :=
  match s.mmaErrors cl pg b with
  | [] => (s.coresOf cl).foldl (fun s key => s.mmaOnCore key pg b) s
  | errs => errs.foldl (fun s e => s.halt cl e.1 e.2) s

/-- MMA. -/
def execMma (i : Issue) (b : MmaBits) (s : State) : Host.Outcome State Fault Refusal :=
  .next (s.withIssue i .m fun s => s.issueMma i.cl.val i.pg b)

/-! ## Unit images (R79, R84, R121, R179) -/

/-- Whether a granule reads as poisoned, without performing the read. -/
def State.granBad (s : State) (key g : Nat) : Bool :=
  let m := s.granMeta key g
  m.poison || m.check == .uncorrectable

/-- Bytes and poison of an image, without the read's own effects. -/
def State.peekImage (s : State) (key a n : Nat) : List Byte × Bool :=
  (s.spadBytes key a n, (upFrom (a / 8) (granCount a n)).any fun g => s.granBad key g)

/-- The 32 codes of a sparse image: stored code t goes to the position that its metadata names (R121). -/
def sparseCodes (per width md codes : Nat) : List Nat :=
  (upFrom 0 32).map fun pos =>
    match (upFrom 0 (8 * per)).find? fun t => decide (4 * (t / per) + md / 4 ^ t % 4 = pos) with
    | some t => codes / 2 ^ (width * t) % 2 ^ width
    | none => 0

/-- The number made of codes of one width, the first lowest. -/
def joinCodes (width : Nat) : List Nat → Nat
  | [] => 0
  | c :: cs => c + 2 ^ width * joinCodes width cs

/-- Bits of a stored element. -/
def elementBits (f : Format) : Nat :=
  match f.block with
  | some b => b.width
  | none => 16

/-- Bytes of the scale of a stored block. -/
def scaleBytes (f : Format) : Nat :=
  match f.block with
  | some b => if b.micro then 2 else 1
  | none => 0

/-- Expand a sparse image to a dense one; `per` elements of each group are stored. -/
def expandSparse (f : Format) (per : Nat) (img : List Byte) : List Byte :=
  let w := elementBits f
  let cb := per * w
  let codes := ofBytes (img.take cb)
  let md := ofBytes (img.drop (cb + scaleBytes f))
  toBytes (4 * w) (joinCodes w (sparseCodes per w md codes)) ++ (img.drop cb).take (scaleBytes f)

/-- Whether a 2:4 image has a group whose indices are not ascending (R122). -/
def indicesBad (f : Format) (img : List Byte) : Bool :=
  let md := ofBytes (img.drop (2 * elementBits f + scaleBytes f))
  (upFrom 0 8).any fun g => decide (md / 16 ^ g / 4 % 4 ≤ md / 16 ^ g % 4)

/-- A stationary unit image in dense form, and whether its indices are bad; what an array makes of bad indices is a free value
(R122 says only that the outputs are poisoned). -/
def stationary (f : Format) (sp : Nat) (img : List Byte) : List Byte × Bool :=
  if sp = 0 then (img, false)
  else if sp = 1 then
    if indicesBad f img then ((upFrom 0 (imageBytes f)).map fun k => Config.repeatedIndex (ofBytes img) k, true)
    else (expandSparse f 2 img, false)
  else (expandSparse f 1 img, false)

/-- Whether a block image is a NaN block. -/
def nanBlock (b : BlockFmt) (img : List Byte) : Bool := img.getD (4 * b.width) 0 == 0xFF

/-- The values of a run of 32 wide elements. -/
def wideRun (w : FloatFmt) (img : List Byte) : List Num :=
  (upFrom 0 32).map fun k => w.decode (ofBytes ((img.drop (2 * k)).take 2))

/-- The exact value of a combine unit with its flags (R89 to R92); the images are dense. -/
def unitValue (af sf : Format) (a b : List Byte) : Num × BitVec 4 :=
  match af.block, sf.block, af.int, af.float with
  | some fa, some fb, _, _ =>
    if nanBlock fa a || nanBlock fb b then (.nan, flagNI) else blockUnitF (fa.decode a) (fb.decode b)
  | _, _, some g, _ => intUnitF (g.ints a) (g.ints b) (g.scale a) (g.scale b)
  | _, _, _, some w => windowUnitF (wideRun w a) (wideRun w b)
  | _, _, _, _ => (.zero, 0)

/-! ## A pass on one array -/

/-- Units per column of a pass. -/
def MmaBits.unitsPer (b : MmaBits) : Nat := b.geo.dk / unitLen b.sf

/-- One unit of a pass: row, column of the slice, unit of the K-chunk. -/
def State.passUnit (s : State) (key : Nat) (r : MmaRun) (rd kc j row c u : Nat) : (Num × BitVec 4) × Bool × Bool :=
  let b := r.bits
  let kb := kc * b.unitsPer + u
  let (ai, ap) := s.peekImage key (r.aAddr + kb * columnBytes b.af b.rows + row * imageBytes b.af) (imageBytes b.af)
  let ub := unitBytes b.sf b.sparse.toNat
  let (wi, wp) := s.peekImage key (r.imageAt rd kc j + (c * b.unitsPer + u) * ub) ub
  let (w, bad) := stationary b.sf b.sparse.toNat wi
  (unitValue b.af b.sf ai w, ap || wp, bad)

/-- Units of the K-chunk that lie within the operation's K. -/
def MmaBits.unitsIn (b : MmaBits) (kc : Nat) : Nat := min b.unitsPer (b.depth / unitLen b.sf - kc * b.unitsPer)

/-- The prime of the witness columns: 2^31 − 1. -/
def witnessPrime : Nat := 2 ^ 31 - 1

/-- ρ: the residue of a dyadic rational (R132). -/
def Num.residue : Num → Nat
  | .fin neg m e =>
    let x := m % witnessPrime * 2 ^ (e % 31).toNat % witnessPrime
    if neg then (witnessPrime - x) % witnessPrime else x
  | _ => 0

/-- What combining the units of one output element gives: code, flags, poison, a unit that is NaN or infinite, bad indices,
and the sum of the units' residues. -/
structure Combined where
  code : Nat
  flags : BitVec 4
  poison : Bool
  skip : Bool
  bad : Bool
  sum : Nat
deriving DecidableEq, Repr

/-- Combine units in ascending logical K (R93). -/
def State.combineUnits (s : State) (key : Nat) (r : MmaRun) (rd kc j row c : Nat) (x : Combined) : Nat → Nat → Combined
  | _, 0 => x
  | u, n + 1 =>
    let ((v, fu), p, bad) := s.passUnit key r rd kc j row c u
    let (code, fl) := combineW40 x.code v fu
    s.combineUnits key r rd kc j row c
      { code := code, flags := x.flags ||| fl, poison := x.poison || p, skip := x.skip || v.isNaN || v.isInf,
        bad := x.bad || bad, sum := (x.sum + v.residue) % witnessPrime } (u + 1) n

/-- The pending write of an accumulator entry that prevails at a cycle, if there is one. -/
def pendingAcc (pend : List PendWrite) (i cycle : Nat) : Option (BitVec 40 × Bool) :=
  (pend.foldl (fun best w =>
    match w.target with
    | .acc k v p =>
      if k = i ∧ w.due ≤ cycle then
        match best with
        | some (d, _) => if d ≤ w.due then some (w.due, v, p) else best
        | none => some (w.due, v, p)
      else best
    | _ => best) none).map (·.2)

/-- An entry as an accumulate finds it at a cycle: +0 where nothing has written it in the step (R116). -/
def State.accStart (s : State) (key i cycle : Nat) : Nat × Bool :=
  match pendingAcc (s.core key).pend i cycle with
  | some (v, p) => (v.toNat, p)
  | none =>
    let e := s.accEntry key i
    if e.written then (e.v.toNat, e.poison || e.parityBad) else (0, false)

/-- An output of a pass: entry index, due cycle, row, column of the slice, what was combined. -/
structure PassOut where
  index : Nat
  due : Nat
  row : Nat
  col : Nat
  res : Combined
deriving DecidableEq, Repr

/-- One pass of the fold on one array: M-chunk, round, K-chunk, array, start cycle. -/
structure PassId where
  mc : Nat
  rd : Nat
  kc : Nat
  arr : Nat
  at_ : Nat
deriving DecidableEq, Repr

/-- The number of a pass in the fold. -/
def MmaBits.passNo (b : MmaBits) (p : PassId) : Nat := b.passOf p.mc p.rd p.kc

/-- The cycle at which a row of a pass is written: its last cycle of entry plus the round trip, witness cycles included. -/
def MmaBits.rowDue (b : MmaBits) (start row : Nat) : Nat := start + b.rowCycles (row + 1) + b.geo.trip

/-- The base entry: 0 when the results go to the scratchpad (R115). -/
def MmaRun.base (r : MmaRun) : Nat := if r.bits.toOut then 0 else r.outAddr

/-- Columns of the slice of (round, array) that lie within N. -/
def MmaBits.sliceCols (b : MmaBits) (rd j : Nat) : Nat := min b.geo.wn (b.cols - (4 * rd + j) * b.geo.wn)

/-- One output element of a pass (R93, R116, R119). -/
def State.passElement (s : State) (key : Nat) (r : MmaRun) (p : PassId) (row c : Nat) : PassOut :=
  let b := r.bits
  let due := b.rowDue p.at_ row
  let index := p.arr * accEntries + r.base + row * b.geo.wn + c
  let (v, q) := if p.kc = 0 ∧ b.accum = 0 then (0, false) else s.accStart key index due
  let x0 : Combined := { code := v, flags := 0, poison := q || r.poison, skip := false, bad := false, sum := 0 }
  { index := index, due := due, row := row, col := c,
    res := s.combineUnits key r p.rd p.kc p.arr (p.mc * b.geo.mc + row) c x0 0 (b.unitsIn p.kc) }

/-- All outputs of a pass, row by row. -/
def State.passOutputs (s : State) (key : Nat) (r : MmaRun) (p : PassId) : List PassOut :=
  (upFrom 0 (r.bits.chunkRows p.mc)).flatMap fun row =>
    (upFrom 0 (r.bits.sliceCols p.rd p.arr)).map fun c => s.passElement key r p row c

/-! ## Conversion out (R97, R179) -/

/-- Encode one image of the output: a block, an integer group, or 32 wide values. -/
def encodeUnit (f : Format) (r : Round) (sat : Bool) (draw : Nat → Nat) (xs : List Num) : List Byte × BitVec 4 :=
  match f.block, f.int, f.float with
  | some b, _, _ => b.encode r draw xs
  | _, some g, _ => g.encode r draw xs
  | _, _, some w =>
    let n := (1 + w.ebits + w.fbits) / 8
    let rs := (List.zip (upFrom 0 32) xs).map fun x => w.round r sat (draw x.1) x.2
    (rs.flatMap fun x => toBytes n x.1, rs.foldl (fun a x => a ||| x.2) (flagIf (xs.any (·.isNaN)) flagNI))
  | _, _, _ => ([], 0)

/-- A converted row of one block column: address, bytes, poison of each granule touched, due cycle, flags. -/
structure OutRow where
  addr : Nat
  bytes : List Byte
  poison : List Bool
  due : Nat
  flags : BitVec 4
deriving DecidableEq, Repr

/-- The value of an output element when its row is converted: by this pass, or by another array's of the same round. -/
def State.outValue (s : State) (key : Nat) (r : MmaRun) (p : PassId) (outs : List PassOut) (row n : Nat) : Nat × Bool :=
  let b := r.bits
  let sl := n / b.geo.wn
  let index := sl % 4 * accEntries + row * b.geo.wn + n % b.geo.wn
  match outs.find? fun o => decide (o.index = index) with
  | some o => (o.res.code, o.res.poison)
  | none => s.accStart key index (b.rowDue p.at_ row)

/-- Poison of the granules of a converted image at an address: a wide value poisons its own granule; the scale of a block or group
depends on every element, so one poisons the whole image (R119). -/
def imagePoison (f : Format) (a n : Nat) (ps : List Bool) : List Bool :=
  match f.float with
  | some w =>
    let k := 64 / (1 + w.ebits + w.fbits)
    (upFrom 0 (granCount a n)).map fun g => ((ps.drop (k * g)).take k).any id
  | none => List.replicate (granCount a n) (ps.any id)

/-- The rows of one block column: a granule that two rows share is written whole with the later one (DEDUCED, log 103). `tail` is
what the rows so far leave of it, `q` its poison. -/
def joinRows (tail : List Byte) (q : Bool) : List OutRow → List OutRow
  | [] => []
  | o :: os =>
    let a := o.addr - tail.length
    let bs := tail ++ o.bytes
    let keep := if os.isEmpty then bs.length else (a + bs.length) / 8 * 8 - a
    let ps := match o.poison with
      | p :: r => (p || (!tail.isEmpty && q)) :: r
      | [] => []
    { o with addr := a, bytes := bs.take keep, poison := ps.take (granCount a keep) } ::
      joinRows (bs.drop keep) (ps.getLastD false) os

/-- Convert one row of one block column; columns beyond N enter as +0. -/
def State.convertRow (s : State) (key : Nat) (r : MmaRun) (p : PassId) (outs : List PassOut) (col row : Nat) : OutRow :=
  let b := r.bits
  let u := unitLen b.tf
  let i := p.mc * b.geo.mc + row
  let vals := (upFrom 0 u).map fun k =>
    if col * u + k < b.cols then s.outValue key r p outs row (col * u + k) else (0, false)
  let rnd := (roundOf b.rnd).getD .rne
  let draw := fun k => if rnd = .sr then
    srDraw s.seed (BitVec.ofNat 32 r.tensor) (BitVec.ofNat 32 i) (BitVec.ofNat 32 (col * u + k)) else 0
  let (bs, fl) := encodeUnit b.tf rnd (b.sat == 1) draw (vals.map fun v => fmtW40.decode v.1)
  let a := r.outAddr + col * columnBytes b.tf b.rows + i * imageBytes b.tf
  { addr := a, bytes := bs, poison := imagePoison b.tf a bs.length (vals.map (·.2)), due := b.rowDue p.at_ row + 24, flags := fl }

/-- The block columns whose last present column lies in a pass's slice. -/
def MmaBits.columnsDone (b : MmaBits) (rd j : Nat) : List Nat :=
  let lo := (4 * rd + j) * b.geo.wn
  let hi := lo + b.sliceCols rd j
  let u := unitLen b.tf
  (upFrom (lo / u) (ceilDiv hi u - lo / u)).filter fun c =>
    decide (lo ≤ min ((c + 1) * u) b.cols - 1) && decide (min ((c + 1) * u) b.cols ≤ hi)

/-- The rows that a pass converts: none but in the last K-chunk of an operation whose results go to the scratchpad. -/
def State.passRows (s : State) (key : Nat) (r : MmaRun) (p : PassId) (outs : List PassOut) : List OutRow :=
  if r.bits.toOut && decide (p.kc + 1 = r.bits.kchunks) then
    (r.bits.columnsDone p.rd p.arr).flatMap fun c =>
      joinRows [] false ((upFrom 0 (r.bits.chunkRows p.mc)).map fun row => s.convertRow key r p outs c row)
  else []

/-! ## Performing a pass -/

/-- Queue a write of a pass; matrix writes of one entry never fall due in one cycle, so nothing is compared. -/
def Core.queue (c : Core) (due issued tag : Nat) (t : Target) : Core :=
  { c with pend := c.pend ++ [{ due := due, issued := issued, tag := tag, target := t }] }

/-- Queue one converted row, or a halt where the write is barred (R150). -/
def State.queueRow (s : State) (key now tag : Nat) (trap : Bool) (o : OutRow) : State :=
  let c := s.core key
  if s.writeBarred key o.addr o.bytes.length then s.setCore key (c.queue o.due now tag (.halt 0x23))
  else
    s.setCore key (c.queue o.due now tag
      (.bytes o.addr o.bytes (o.poison.map fun p => p || trap)))

/-- Perform the reads of a pass with their own effects: its stationary image, and on A0 the streamed rows of the K-chunk. -/
def State.passReads (s : State) (key : Nat) (r : MmaRun) (p : PassId) : State :=
  let b := r.bits
  let (_, s) := s.spadRead key (r.imageAt p.rd p.kc p.arr) (b.geo.load * 512)
  if p.arr = 0 then
    (upFrom 0 (b.unitsIn p.kc)).foldl (fun s u =>
      let a := r.aAddr + (p.kc * b.unitsPer + u) * columnBytes b.af b.rows + p.mc * b.geo.mc * imageBytes b.af
      (s.spadRead key a (b.chunkRows p.mc * imageBytes b.af)).2) s
  else s

/-- Report the parity errors of the entries that a pass accumulates onto (R118). -/
def State.passParity (s : State) (key : Nat) (r : MmaRun) (p : PassId) (outs : List PassOut) : State :=
  if p.kc = 0 ∧ r.bits.accum = 0 then s
  else
    outs.foldl (fun s o =>
      let e := s.accEntry key o.index
      if e.written && e.parityBad && (pendingAcc (s.core key).pend o.index o.due).isNone then s.raise 0x21 1 key (Config.faultDetail 0x21 o.index).toNat
      else s) s

/-- Rows of a pass whose witness comparison is skipped (R132). -/
def skippedRows (rows : Nat) (outs : List PassOut) : Nat :=
  ((upFrom 0 rows).filter fun i => outs.any fun o => decide (o.row = i) && o.res.skip).length

/-! ### The witness (R132, R133) -/

/-- The elements of a dense image, as the array multiplies them. -/
def imageValues (f : Format) (img : List Byte) : List Num :=
  match f.block, f.int with
  | some b, _ => b.decode img
  | _, some g => g.decode img
  | _, _ => []

/-- c_k for the rows k of one unit: the sums of the residues of the slice's weights. -/
def State.witnessColumn (s : State) (key : Nat) (r : MmaRun) (p : PassId) (u : Nat) : List Nat :=
  let b := r.bits
  let ub := unitBytes b.sf b.sparse.toNat
  (upFrom 0 (b.sliceCols p.rd p.arr)).foldl (fun sums c =>
    let img := (s.peekImage key (r.imageAt p.rd p.kc p.arr + (c * b.unitsPer + u) * ub) ub).1
    let vals := (imageValues b.sf (stationary b.sf b.sparse.toNat img).1).map (·.residue)
    List.zipWith (fun x y => (x + y) % witnessPrime) sums vals) (List.replicate (unitLen b.sf) 0)

/-- The witness column's sum for a row of A: over logical K, ρ(a_k) × c_k. -/
def State.witnessSum (s : State) (key : Nat) (r : MmaRun) (p : PassId) (row : Nat) : Nat :=
  let b := r.bits
  (upFrom 0 (b.unitsIn p.kc)).foldl (fun sum u =>
    let a := r.aAddr + (p.kc * b.unitsPer + u) * columnBytes b.af b.rows + (p.mc * b.geo.mc + row) * imageBytes b.af
    let as := (imageValues b.af (s.peekImage key a (imageBytes b.af)).1).map (·.residue)
    (List.zipWith (· * ·) as (s.witnessColumn key r p u)).foldl (fun x y => (x + y) % witnessPrime) sum) 0

/-- The rows of a pass whose comparison mismatches: the array's own sum over every unit and column, with what has disturbed it. -/
def State.mismatched (s : State) (key : Nat) (r : MmaRun) (p : PassId) (outs : List PassOut) : List Nat :=
  let b := r.bits
  if b.wit = 0 then []
  else
    (upFrom 0 (b.chunkRows p.mc)).filter fun i =>
      let mine := outs.filter fun o => decide (o.row = i)
      let upset := ((s.core key).upsets.filter fun u => decide (u.arr = p.arr) && decide (u.row = i)).map (·.residue)
      !(mine.any fun o => o.res.skip) &&
        decide (((mine.map fun o => o.res.sum).sum + upset.sum) % witnessPrime ≠ s.witnessSum key r p i)

/-! ### Results -/

/-- Rows of a 512-byte piece: the last cycle in which one of them lands, and the bytes from the first to the last of them. -/
def pieceSpan (rows : List OutRow) (k : Nat) : Nat × Nat × Nat :=
  let mine := rows.filter fun o => decide (o.addr < 512 * (k + 1)) && decide (512 * k < o.addr + o.bytes.length)
  let lo := max (512 * k) ((mine.map (·.addr)).min?.getD 0)
  let hi := min (512 * (k + 1)) ((mine.map fun o => o.addr + o.bytes.length).max?.getD 0)
  ((mine.map (·.due)).max?.getD 0, lo, hi - lo)

/-- Schedule the writes of a pass's converted rows: a wide access for each 512 bytes, with the last row that it holds (log 27). -/
def State.useOutputs (s : State) (key : Nat) (r : MmaRun) (p : PassId) (rows : List OutRow) : State :=
  let pieces := (rows.flatMap fun o => upFrom (o.addr / 512) ((o.addr + o.bytes.length + 511) / 512 - o.addr / 512)).eraseDups
  pieces.foldl (fun s k =>
    let (due, lo, n) := pieceSpan rows k
    s.useBank key (bankUse 2 p.arr (r.tagOf (r.bits.passNo p) p.arr) due (512 * k) 512 (.bytes lo n))) s

/-- Queue everything a pass writes: entries, converted rows, flags, skipped witness rows, what the witness found, a halt. Its outputs are
poisoned where a read of it has lost its bank, its witness mismatches, or it traps (R101, R122, R133, R140). -/
def State.queuePass (s : State) (key : Nat) (r : MmaRun) (p : PassId) (outs : List PassOut) (rows : List OutRow) : State :=
  let b := r.bits
  let now := (s.seq (key / 16)).now
  let tag := r.tagOf (b.passNo p) p.arr
  let wrong := s.mismatched key r p outs
  let fl := rows.foldl (fun f o => f ||| o.flags) (outs.foldl (fun f o => f ||| o.res.flags) 0)
  let bad := outs.any (·.res.bad)
  let trap := decide (s.newTraps key fl ≠ 0) || bad || !wrong.isEmpty || (s.core key).lost.contains tag
  let m := b.chunkRows p.mc
  let last := b.rowDue p.at_ (m - 1)
  let endAt := if rows.isEmpty then last else last + 24
  let c := outs.foldl (fun c o =>
    c.queue o.due now tag (.acc o.index (BitVec.ofNat 40 o.res.code) (o.res.poison || trap))) (s.core key)
  let s := s.setCore key c
  let s := rows.foldl (fun s o => s.queueRow key now tag trap o) s
  let c := s.core key
  let c := if b.wit = 1 then c.queue last now tag (.witSkip (skippedRows m outs)) else c
  let c := if bad then c.queue endAt now tag (.halt 0x24) else c
  let c := if wrong.isEmpty then c else c.queue endAt now tag (.mismatch p.arr (b.passNo p) wrong)
  s.setCore key { c.queue endAt now tag (.flags fl) with upsets := c.upsets.filter fun u => decide (u.arr ≠ p.arr) }

/-- Schedule the wide reads of the rows that A0 streams to every array in a pass: in which of its cycles each falls is a free value
(log 27). -/
def State.useStream (s : State) (key : Nat) (r : MmaRun) (p : PassId) : State :=
  let b := r.bits
  let wides := (upFrom 0 (b.unitsIn p.kc)).flatMap fun u =>
    let a := r.aAddr + (p.kc * b.unitsPer + u) * columnBytes b.af b.rows + p.mc * b.geo.mc * imageBytes b.af
    upFrom (a / 512) ((a + b.chunkRows p.mc * imageBytes b.af + 511) / 512 - a / 512)
  if p.arr = 0 then
    (List.zip (upFrom 0 wides.length) wides).foldl (fun s w =>
      s.useBank key (bankUse 1 0 (r.tagOf (b.passNo p) 0) (p.at_ + Config.streamCycle w.1 % b.rowCycles (b.chunkRows p.mc)) (512 * w.2) 512
        (.result 4))) s
  else s

/-- Perform a pass on one array: its reads, its results, and the accesses of its own and of the load of the next pass, which overlaps it
(R108). -/
def State.runPass (s : State) (key : Nat) (r : MmaRun) (p : PassId) : State :=
  if !r.sliced p.rd p.arr then s
  else
    let outs := s.passOutputs key r p
    let rows := s.passRows key r p outs
    let s := ((s.passReads key r p).passParity key r p outs).useStream key r p
    ((s.queuePass key r p outs rows).useOutputs key r p (rows.filter fun o => !s.writeBarred key o.addr o.bytes.length))

/-- The checker's reasons against the reads of a pass (Table 06.15). -/
def State.passChecks (s : State) (key : Nat) (r : MmaRun) (p : PassId) : List Nat :=
  if !r.sliced p.rd p.arr then []
  else
    s.readChecks key (r.imageAt p.rd p.kc p.arr) (r.bits.geo.load * 512) ++
    (upFrom 0 (r.bits.unitsIn p.kc)).flatMap fun u =>
      s.readChecks key (r.aAddr + (p.kc * r.bits.unitsPer + u) * columnBytes r.bits.af r.bits.rows +
        p.mc * r.bits.geo.mc * imageBytes r.bits.af) (r.bits.chunkRows p.mc * imageBytes r.bits.af)

/-- Whether the arrays of a cluster start passes: in a take, with no halt and no take fault under way (R131). -/
def State.arraysRun (s : State) (cl : Nat) : Bool :=
  !s.halted cl && !s.stopWanted && (decide (s.dev = .running) || decide (s.dev = .holding) || decide (s.dev = .draining))

/-- The pass that an array starts now, if one is due: its predecessors in the fold have started and S_p has elapsed. -/
def State.duePass (s : State) (key j : Nat) : Option (MmaRun × PassId) :=
  match (s.core key).running with
  | none => none
  | some r =>
    let p := r.next.getD j 0
    let t := r.slotAt.getD j 0
    if p < r.bits.passes ∧ t ≤ (s.seq (key / 16)).now ∧ (j = 0 ∨ p < r.next.getD (j - 1) 0) ∧ s.arraysRun (key / 16) = true then
      let (mc, rd, kc) := r.bits.passAt p
      some (r, { mc := mc, rd := rd, kc := kc, arr := j, at_ := t })
    else none

/-- The operation after array `j` has started its next pass. -/
def MmaRun.started (r : MmaRun) (j : Nat) : MmaRun :=
  let p := r.next.getD j 0
  { r with next := listSet r.next j (p + 1), slotAt := listSet r.slotAt j (r.slotAt.getD j 0 + r.bits.spacing p) }

/-- Start the next pass of an array. -/
def State.startPass (s : State) (key j : Nat) : State :=
  match s.duePass key j with
  | none => s
  | some (r, p) =>
    match s.passChecks key r p with
    | e :: _ => s.halt (key / 16) e (some key)
    | [] =>
      let s := s.runPass key r p
      let s := s.setCore key { s.core key with running := some (r.started j) }
      let n := r.bits.passNo p
      s.useLoad key r (n + 1) j p.at_ (r.bits.spacing n - r.bits.geo.load)

/-- PASS_START. -/
def execPassStart (c : CoreId) (adv : Nat) (array : Fin 4) (s : State) : Host.Outcome State Fault Refusal :=
  .next ((s.addCycles c.cl.val adv).startPass c.key array.val)

/-! ## The end of an operation -/

/-- The running operation is over: the slot is free, and a fade-out starts if FADE asks for one. -/
def Core.mmaDone (c : Core) (now : Nat) : Core :=
  match c.running with
  | some r =>
    if r.allStarted && decide (r.endAt ≤ now) then
      { c with running := none, fadeUntil := if r.bits.fade = 1 then some (r.endAt + 32) else c.fadeUntil }
    else c
  | none => c

/-- The arrays of a core that are warm and idle at a hold fade out, in 32 cycles (R126, R129). -/
def Core.fadeIdle (c : Core) (now : Nat) : Core :=
  if c.running.isNone && c.waiting.isNone && c.fadeUntil.isNone && decide (c.warm ≠ 0) then
    { c with holdFaded := c.holdFaded ||| c.warm, fadeUntil := some (now + 32) }
  else c

/-- The arrays that a hold faded out are warm again as plan time resumes. -/
def Core.fadeBack (c : Core) : Core :=
  if c.holdFaded = 0 then c else { c with warm := c.warm ||| c.holdFaded, holdFaded := 0, fadeUntil := none }

/-- MMA_COMPLETE. During a hold, arrays that are then warm and idle fade out. -/
def execMmaComplete (c : CoreId) (adv : Nat) (s : State) : Host.Outcome State Fault Refusal :=
  let s := s.addCycles c.cl.val adv
  let k := (s.core c.key).mmaDone (s.seq c.cl.val).now
  .next (s.setCore c.key (if s.time.hold.isSome then k.fadeIdle (s.seq c.cl.val).now else k))

/-- Take up the pending operation: its cycle has come and every pass of the running one has started. -/
def Core.takeUp (c : Core) (now : Nat) : Core :=
  match c.waiting with
  | some w =>
    let free := match c.running with
      | some r => r.allStarted
      | none => true
    if w.start ≤ now ∧ free = true then
      { c.runs w with waiting := none }
    else c
  | none => c

/-- PENDING_TAKEUP. -/
def execPendingTakeup (c : CoreId) (adv : Nat) (s : State) : Host.Outcome State Fault Refusal :=
  let s := s.addCycles c.cl.val adv
  .next (if s.arraysRun c.cl.val then s.setCore c.key ((s.core c.key).takeUp (s.seq c.cl.val).now) else s)

/-- The fade-out is over: the arrays are cold. -/
def Core.faded (c : Core) (now : Nat) : Core :=
  match c.fadeUntil with
  | some t => if t ≤ now then { c with warm := 0, fadeUntil := none } else c
  | none => c

/-- Whether a core's arrays are still at work at a cut (R130): an operation waits or has passes to start, or its last cycle has not come. -/
def State.arraysBusy (s : State) (key : Nat) : Bool :=
  let c := s.core key
  let q := s.seq (key / 16)
  c.waiting.isSome || (match c.running with
    | some r => !r.allStarted || (decide (q.now < r.endAt) && !Config.passOver (r.endAt - q.now) (s.wallNow - q.nowAt))
    | none => false)

/-- A core as a take leaves it: no operation and no access is under way, and a fade-out is over. -/
def Core.takeOver (c : Core) : Core :=
  let faded := c.fadeUntil.isSome || (match c.running with
    | some r => decide (r.bits.fade = 1)
    | none => false)
  { c with running := none, waiting := none, warm := if faded then 0 else c.warm &&& ~~~c.holdFaded, holdFaded := 0, fadeUntil := none,
           pipeFree := [0, 0], uses := [], arrayUses := [], lost := [], lastFlagP := [] }

/-- What the cores of a cluster have under way completes. -/
def State.settleAll (s : State) (cl : Nat) : State :=
  s.toCycle cl (((s.coresOf cl).flatMap fun key => (s.core key).pend.map (·.due)).foldl max 0)

/-- FADE_OUT_END. -/
def execFadeOutEnd (c : CoreId) (adv : Nat) (s : State) : Host.Outcome State Fault Refusal :=
  let s := s.addCycles c.cl.val adv
  .next (s.setCore c.key ((s.core c.key).faded (s.seq c.cl.val).now))

end Sys2Proof.Machine
end

