-- ==== Sys2Proof/Machine/Record.lean ====
section
/-! DEFINITION. Record mode: the external inputs that a take records (R433, R436, Table 15.5). -/

namespace Sys2Proof.Machine

/-- CN_REC.STATE: 1 recording, 2 replaying, 3 ended. -/
def State.recState (s : State) : Nat := s.fget Reg.CN_REC_STATE

/-- Bytes of entries held on the device. -/
def State.recHeld (s : State) : Nat :=
  (s.log.entries.map (RecEntry.size ·)).sum + (s.log.stepEntries.map (RecEntry.size ·)).sum

/-- Record mode stops because its store is full (R436). -/
def State.recBroken (s : State) : State :=
  ((s.fset Reg.CN_REC_STATE 0).fsetb Reg.CN_REC_BROKEN true).logEvent 0x89 0 0 0 0

/-- An entry of Table 15.5 taken now. -/
def State.recEntry (s : State) (kind : Nat) (plan : Int) (words : List DWord) (entries : List StepEntry) (data : List Byte) :
    RecEntry :=
  { kind := kind, plan := plan, cut := s.fget Reg.SV_CUTS_CUTS, wall := s.wallNow, words := words, entries := entries,
    data := data }

/-- Record an external input: it joins the step's entries, which the cut releases in plan order. -/
def State.recordInput (s : State) (kind : Nat) (plan : Int) (words : List DWord) (entries : List StepEntry)
    (data : List Byte) : State :=
  if s.recState ≠ 1 then s
  else
    let e := s.recEntry kind plan words entries data
    if 2 ^ 20 < s.recHeld + e.size then s.recBroken
    else { s with log.stepEntries := s.log.stepEntries ++ [e] }.bump Reg.CN_REC_COUNT_COUNT

/-- The step's entries wait to be written to the host, in plan order. -/
def State.flushRecord (s : State) : State :=
  { s with log.entries := s.log.entries ++ sortBy (fun e => e.plan) s.log.stepEntries, log.stepEntries := [] }

/-- The first stream entry that meets a test, and the state without it; an empty stream is ended (R435). -/
def State.streamTake (s : State) (f : RecEntry → Bool) : Option RecEntry × State :=
  match s.log.stream.find? f with
  | none => (none, s)
  | some e =>
    let rest := dropFirst f s.log.stream
    let s := { s with log.stream := rest }.bump Reg.CN_REC_COUNT_COUNT
    (some e, if rest.isEmpty then s.fset Reg.CN_REC_STATE 3 else s)

/-- A step replay takes the settle's entries, ring heads and trigger edges again (R231, R379): they are recorded once. -/
def State.unrecord (s : State) : State := { s with log.stepEntries := s.log.stepEntries.filter fun e => 4 ≤ e.kind }

end Sys2Proof.Machine
end

