-- ==== Sys2Proof/Machine/Control.lean ====
section
/-! DEFINITION. Control flow and the header's kinds: lull runs, checkpoints with the overrun forecast, balanced branches and
static loops (R46, R169, R188 to R190). -/

namespace Sys2Proof.Machine

/-! ## Uniform control values (R188) -/

/-- The values of a control scalar on the cluster's cores, in ascending virtual core. -/
def State.controlVals (s : State) (cl : Nat) (r : BitVec 5) : List SVal := (s.coresOf cl).map fun key => s.sval key r

/-- Halt for a poisoned or non-uniform control value; `f` is what the sequencer compares. -/
def State.checkUniform {α : Type} [DecidableEq α] (s : State) (cl : Nat) (vals : List SVal) (f : DWord → α) : State × Bool :=
  let poisoned := vals.any (·.p)
  let first := f (vals.headD ⟨0, false⟩).v
  let mixed := vals.any fun x => !decide (f x.v = first)
  let s := if poisoned then s.halt cl 0x27 none else s
  let s := if mixed then s.halt cl 0x43 none else s
  (s, !poisoned && !mixed)

/-- Change the sequencer of a cluster. -/
def State.onSeq (s : State) (cl : Nat) (f : Seq → Seq) : State := s.setSeq cl (f (s.seq cl))

/-! ## Lull runs (R169) -/

/-- Whether the header of a cluster's current bundle is bad: it has been reported as the bundle issued. -/
def State.headReported (s : State) (cl : Nat) : Bool := (s.bundle cl (s.seq cl).pc).any headBad

/-- A lull run: `count` issue cycles with the cores' clocks gated; a slot that is not a no-op, or COUNT 0, halts, once for the bundle. -/
def State.lullRun (s : State) (cl count : Nat) (slotsZero : Bool) : State :=
  if count = 0 ∨ slotsZero = false then (if s.headReported cl then s else s.halt cl 0x02 none)
  else s.onSeq cl fun q => { q with dur := count, lull := true }

/-- LULL_RUN. -/
def execLullRun (i : Issue) (count : BitVec 24) (slotsZero : Bool) (s : State) : Host.Outcome State Fault Refusal :=
  .next (s.withIssue i .head fun s => s.lullRun i.cl.val count.toNat slotsZero)

/-! ## The overrun forecast (R46) -/

/-- The operation of a bundle's S slot. -/
def slotOp (b : BitVec 512) : Nat := bitsOf 111 104 b.toNat

/-- Issue cycles of a segment from its first bundle: a lull run counts COUNT, a branch 3 + LEN, a loop 1 + MAX × BODY
(R43, R169, R189, R190). -/
def segCycles : Nat → List (BitVec 512) → Nat
  | 0, _ => 0
  | _, [] => 0
  | fuel + 1, b :: bs =>
    if slotOp b = 0x20 then 3 + bitsOf 71 52 b.toNat + segCycles fuel (bs.drop (2 * bitsOf 71 52 b.toNat))
    else if slotOp b = 0x21 then
      1 + bitsOf 51 32 b.toNat * bitsOf 71 52 b.toNat + segCycles fuel (bs.drop (bitsOf 71 52 b.toNat))
    else if headLast b then headCycles b
    else headCycles b + segCycles fuel bs

/-- The cue table entry of a cluster in the current step shape. -/
def State.cueEntry (s : State) (cl i : Nat) : Option CueEntry :=
  ((s.image cl).shapes[s.take.shape]?).bind fun sh => sh.cues[i]?

/-- The length of the current step shape, in ticks. -/
def State.stepTicks (s : State) (cl : Nat) : Nat :=
  match (s.image cl).shapes[s.take.shape]? with
  | some sh => sh.gates * 4096
  | none => 0

/-- Plan tick of the cue after the current segment's: the next entry of the table, else the end of the step. -/
def State.nextCueTick (s : State) (cl : Nat) : Int :=
  match s.cueEntry cl ((s.seq cl).cueIdx + 1) with
  | some e => s.take.lastCut + e.tick
  | none => s.take.lastCut + s.stepTicks cl

/-- Issue cycles of the current segment. -/
def State.segmentBundles (s : State) (cl : Nat) : Nat :=
  match s.cueEntry cl (s.seq cl).cueIdx with
  | some e => segCycles ((s.image cl).bundles.length + 1) ((s.image cl).bundles.drop e.addr)
  | none => 0

/-- The regions that execute a cluster's segment: its mapped core slots and its sequencer (Table 14.15). -/
def State.regionsOf (s : State) (cl : Nat) : List Nat :=
  (s.coresOf cl).map (fun key => cl * 11 + key % 16) ++ [44 + cl]

/-- The plan tick at which work of `remaining` cycles finishes on a region whose cycles are stretched by `st` / 256. -/
def State.finishTick (s : State) (region remaining st : Nat) : Int :=
  let ratio := s.fget (Reg.PW_BARO_RATIO region)
  s.planNow + ceilDiv (remaining * (10 * (256 + st))) (s.planf * ratio) + 3

/-- The stretch of a region's cycles now, in 1/256 of a period: a quarter while the brake is engaged (R406), up to a quarter while
a barometer is exhausted (R31); how much is then a free value. -/
def State.stretchOf (s : State) (region : Nat) : Nat × State :=
  if s.flag Reg.PW_STATUS_BRAKE then (64, s)
  else if s.fget (Reg.PW_BARO_BAND region) = 2 then
    let (n, s) := s.draw
    ((Config.freeWord n).toNat % 65, s)
  else (0, s)

/-- Request a hold for an overrun, or record that no hold can help (R46). -/
def State.forecastAt (s : State) (cl : Nat) (finish : Int) : State :=
  let next := s.nextCueTick cl
  if finish ≤ next then s
  else
    let frames := ceilDiv (finish - next).toNat 512
    let g := s.eligibleGate
    if g ≤ next ∧ frames ≤ 255 ∧ s.stopped = false then s.requestHoldAt (g / 4096) frames 2
    else s.notice 46 cl

/-- Bundles that a segment has issued: none before its first one. -/
def Seq.begun (q : Seq) : Nat := if q.fresh then 0 else q.issued + 1

/-- The forecast of one region executing a cluster's segment. -/
def State.forecast (s : State) (cl region : Nat) : State :=
  let remaining := s.segmentBundles cl - (s.seq cl).begun
  let (st, s) := s.stretchOf region
  s.forecastAt cl (s.finishTick region remaining st)

/-- Every region executing a cluster's segment evaluates the forecast. -/
def State.forecastAll (s : State) (cl : Nat) : State := (s.regionsOf cl).foldl (fun s r => s.forecast cl r) s

/-- CHECKPOINT: every region executing the segment evaluates the forecast. -/
def execCheckpoint (i : Issue) (s : State) : Host.Outcome State Fault Refusal :=
  .next (s.withIssue i .head fun s => s.forecastAll i.cl.val)

/-- Whether a region stretches its cycles: the brake is engaged, or its barometer exhausted (R31, R406). -/
def State.stretching (s : State) (region : Nat) : Bool :=
  s.flag Reg.PW_STATUS_BRAKE || decide (s.fget (Reg.PW_BARO_BAND region) = 2)

/-- Note that regions stretch a cycle of a cluster's segment. At the first stretched cycle of the segment every region executing it
evaluates the forecast, and at a region's own first one that region (R46). -/
def State.noteStretch (s : State) (cl : Nat) (regions : List Nat) : State :=
  let was := (s.seq cl).stretched
  let new := regions.filter fun r => !bitOf was r
  let s := s.onSeq cl fun q => { q with stretched := q.stretched ||| new.foldl (fun m r => m ||| 2 ^ r) 0 }
  if new.isEmpty then s
  else if was = 0 then s.forecastAll cl
  else new.foldl (fun s r => s.forecast cl r) s

/-! ## Branches and loops -/

/-- The conditions of BRB: 0 zero, 1 nonzero, 2 negative, 3 non-negative. -/
def brbHolds (c : Nat) (v : DWord) : Bool :=
  match c with
  | 0 => decide (v = 0)
  | 1 => decide (v ≠ 0)
  | 2 => v.msb
  | _ => !v.msb

/-- Decode errors of a control operation: PG (0x03), those of its own, and nesting (0x08). -/
def State.controlDecode (s : State) (i : Issue) (own : List Nat) : List Nat :=
  decodeReasons (pgValid i.pg) (own ++ if 8 ≤ (s.seq i.cl.val).stack.length then [0x08] else [])

/-- Run a control operation after its decode checks. -/
def State.runControl (s : State) (i : Issue) (own : List Nat) (f : State → State) : State :=
  s.withIssue i .s fun s => s.decoded i.cl.val (s.controlDecode i own) f

/-- Enter an arm of a branch: the taken arm follows the branch, the other arm follows it; 2 cycles of lull come first. -/
def Seq.enterArm (q : Seq) (taken : Bool) (len : Nat) : Seq :=
  let a := if taken then q.pc + 1 else q.pc + 1 + len
  { q with dur := q.dur + 2, jump := some a, stack := .arm (a + len) (q.pc + 1 + 2 * len) :: q.stack }

/-- The effect of BRB. -/
def State.branch (s : State) (cl : Nat) (sc : BitVec 5) (cond : BitVec 3) (len : BitVec 20) : State :=
  let vals := s.controlVals cl sc
  let (s, ok) := s.checkUniform cl vals (brbHolds cond.toNat)
  if ok then s.onSeq cl fun q => q.enterArm (brbHolds cond.toNat (vals.headD ⟨0, false⟩).v) len.toNat else s

/-- BRB; a COND of 4 to 7 names no condition (0x03). -/
def execBrb (i : Issue) (sc : BitVec 5) (cond : BitVec 3) (len : BitVec 20) (s : State) :
    Host.Outcome State Fault Refusal :=
  .next (s.runControl i (if 4 ≤ cond.toNat then [0x03] else []) fun s => s.branch i.cl.val sc cond len)

/-- Start a loop of `count` > 0 iterations of a body that is not empty. -/
def Seq.enterLoop (q : Seq) (count body max si : Nat) : Seq :=
  { q with jump := some (q.pc + 1), stack := .loop (q.pc + 1) body (count - 1) count max si :: q.stack }

/-- Skip a loop: no iteration, or an empty body. -/
def Seq.skipLoop (q : Seq) (body max : Nat) : Seq :=
  { q with skip := max * body, jump := some (q.pc + 1 + body) }

/-- Write the iteration index into SI, before the next bundle. -/
def State.queueIndex (s : State) (cl si index : Nat) : State :=
  (s.coresOf cl).foldl (fun s key =>
    s.applyEffect key 0x7 0 (.write 1 (.sreg si ⟨BitVec.ofNat 64 index, false⟩))) s

/-- The effect of LOOP on a uniform, unpoisoned count. -/
def State.enterCount (s : State) (cl : Nat) (si : BitVec 5) (body max count : Nat) : State :=
  if max < count then s.halt cl 0x26 none
  else if count = 0 then s.onSeq cl fun q => q.skipLoop body max
  else if body = 0 then (s.queueIndex cl si.toNat (count - 1)).onSeq cl fun q => q.skipLoop body max
  else (s.queueIndex cl si.toNat 0).onSeq cl fun q => q.enterLoop count body max si.toNat

/-- The effect of LOOP. -/
def State.startLoop (s : State) (cl : Nat) (sn si : BitVec 5) (body max : BitVec 20) : State :=
  let vals := s.controlVals cl sn
  let (s, ok) := s.checkUniform cl vals id
  if ok then s.enterCount cl si body.toNat max.toNat (vals.headD ⟨0, false⟩).v.toNat
  else if vals.any (fun x => decide (max.toNat < x.v.toNat)) then s.halt cl 0x26 none
  else s

/-- LOOP. -/
def execLoop (i : Issue) (sn si : BitVec 5) (body max : BitVec 20) (s : State) : Host.Outcome State Fault Refusal :=
  .next (s.runControl i (writesScalar si) fun s => s.startLoop i.cl.val sn si body max)

/-! ## Bundles that no command stands for (R43, R169) -/

/-- Whether a segment is still executing. -/
def Seq.executing (q : Seq) : Bool := q.running && !q.ended

/-- The address of the next bundle. -/
def Seq.nextAddr (q : Seq) : Nat := q.next.1

/-- Whether a cluster's next bundle issues before a plan tick: surely where even the latest window does (R193), else the clocks
decide, a free value (log 102). -/
def State.reaches (s : State) (cl : Nat) (t : Int) : Bool × State :=
  let q := s.seq cl
  let b := q.issued + (if q.fresh then 0 else q.dur + q.next.2.2.1) - q.winBase
  if q.stretched = 0 ∧ q.winHi + 10 * b < t * s.planf then (true, s)
  else
    let (n, s) := s.draw
    ((Config.freeWord n).getLsbD 0, s)

/-- Whether the next bundle of a cluster issues without a command: it holds nothing to issue, or lies beyond the stream. -/
def State.nextEmpty (s : State) (cl : Nat) : Bool :=
  (s.seq cl).executing && s.canIssue cl && s.canAdvance cl && (s.bundle cl (s.seq cl).nextAddr).all bundleEmpty

/-- Pass the bundles that hold nothing to issue and that a cluster reaches before a plan tick. -/
def State.passEmpty (s : State) (cl : Nat) (t : Int) : Nat → State
  | 0 => s
  | fuel + 1 =>
    if s.nextEmpty cl then
      match s.reaches cl t with
      | (true, s) => (s.nextBundle cl).1.passEmpty cl t fuel
      | (false, s) => s
    else s

/-- Pass them up to a plan tick: a segment has at most as many bundles as issue cycles. -/
def State.runTo (s : State) (cl : Nat) (t : Int) : State := s.passEmpty cl t (s.segmentBundles cl + 1)

end Sys2Proof.Machine
end

