-- ==== Sys2Proof/Machine/Hbm.lean ====
section
/-! DEFINITION. HBM: units with check bits and poison, reads and writes with their effects, weight regions, retired rows
(R254, R260 to R265, R387). -/

namespace Sys2Proof.Machine

/-- Bytes of HBM: addresses at or above it do not exist (R254). -/
def hbmSize : Nat := 2 ^ 39

/-- The stack of an address. -/
def stackOf (a : Nat) : Nat := a / 2 ^ 36

/-- The channel of an address. -/
def channelOf (a : Nat) : Nat := a / 512 % 32

/-- Metadata of a 32-byte unit. -/
def State.unitMeta (s : State) (u : Nat) : Meta := mapGet (fun _ => Meta.clean) s.hbmMeta u

/-- Store the metadata of a unit. -/
def State.setUnitMeta (s : State) (u : Nat) (m : Meta) : State :=
  { s with hbmMeta := mapPut (fun _ => Meta.clean) s.hbmMeta u m }

/-- Whether two ranges overlap. -/
def overlaps (a n b m : Nat) : Bool := decide (a < b + m) && decide (b < a + n)

/-- Whether a range meets a weight region (R265). -/
def State.inWeights (s : State) (a n : Nat) : Bool := s.fetch.regions.any fun r => overlaps a n r.1 r.2

/-- Whether a range meets a retired row (R387). -/
def State.isRetired (s : State) (a n : Nat) : Bool := s.manage.retired.any fun r => overlaps a n r.1 r.2

/-- A write reached a unit: its poison write-back and the patrol's write-back are cancelled (R261, R263). -/
def State.unitTouched (s : State) (u : Nat) : State :=
  let i := stackOf (32 * u)
  let k := s.stack i
  let found := match k.found with
    | some (v, _) => if v = u then none else k.found
    | none => none
  s.setStack i { k with pwb := k.pwb.filter (· ≠ u), found := found }

/-- Write a whole unit; a write to a retired row is dropped. -/
def State.unitWrite (s : State) (u : Nat) (bs : List Byte) (poison : Bool) : State :=
  if s.isRetired (32 * u) 32 then s
  else
    let s := { s with hbm := memWrite s.hbm (32 * u) bs }
    (s.setUnitMeta u { poison := poison, check := .clean }).unitTouched u

/-- Write units from one up: 32 bytes and four granule flags each. -/
def State.unitWrites (s : State) (u : Nat) (bs : List Byte) (ps : List Bool) : Nat → State
  | 0 => s
  | n + 1 => (s.unitWrite u (bs.take 32) ((ps.take 4).any id)).unitWrites (u + 1) (bs.drop 32) (ps.drop 4) n

/-- Write bytes from a 32-byte aligned address, with one poison flag per 8 bytes. -/
def State.hbmWrite (s : State) (a : Nat) (bs : List Byte) (ps : List Bool) : State :=
  s.unitWrites (a / 32) bs ps (bs.length / 32)

/-! ## Reads (R261) -/

/-- Whether the frame at an address holds committed KV of some context; `pages` answers it for the serving engine. -/
def State.committedPage (s : State) (a : Nat) : Bool :=
  let base := s.fget Reg.SV_POOL_BASE_BASE
  let stride := 32 * s.fget Reg.SV_POOL_STRIDE_STRIDE
  let area := s.fget Reg.SV_AREA_BASE
  let rank := s.fget Reg.SV_KV_CFG_KRANK
  let nrank := s.fget Reg.SV_KV_CFG_NRANK + 1
  if stride = 0 ∨ a < base then false
  else
    let frame := (a - base) / stride
    decide (frame < s.fget Reg.SV_POOL_PAGES_PAGES) && s.serve.ctxs.any fun x =>
      (upFrom 0 (ceilDiv x.2.commit (64 * nrank))).any fun l =>
        decide (64 * (l * nrank + rank) < x.2.commit) &&
        decide (ofBytes (memRead s.hbm (area + 0x10000000 + x.1 * 32768 + 4 * l) 4) = 0x80000000 + frame)

/-- The fault source of an uncorrectable unit (Table 13.2). -/
def State.hbmUeSource (s : State) (a : Nat) : Nat := if s.inWeights a 32 || s.committedPage a then 0x06 else 0x21

/-- Note an uncorrectable unit: count, first address, report. -/
def State.unitUe (s : State) (u : Nat) : State :=
  let i := stackOf (32 * u)
  let s := s.bump (Reg.HM_UE_COUNT i)
  let s := if s.flag (Reg.HM_ERR_ADDR_VALID i) then s
    else (s.fset (Reg.HM_ERR_ADDR_UNIT i) u).fsetb (Reg.HM_ERR_ADDR_VALID i) true
  s.raise (s.hbmUeSource (32 * u)) 3 i (Config.faultDetail (s.hbmUeSource (32 * u)) u).toNat

/-- A row joins the repair record once (R264). -/
def State.rowForRepair (s : State) (u : Nat) : State :=
  let i := stackOf (32 * u)
  let k := s.stack i
  let row := Config.hbmRow u
  if k.repair.contains row then s
  else (s.setStack i { k with repair := k.repair ++ [row] }).bump (Reg.HM_REPAIR_PENDING i)

/-- Note a correctable unit: count, report, and the row's count of the patrol pass. -/
def State.unitCe (s : State) (u : Nat) : State :=
  let i := stackOf (32 * u)
  let s := (s.bump (Reg.HM_CE_COUNT i)).raise 0x01 3 i (Config.faultDetail 0x01 u).toNat
  let k := s.stack i
  let row := Config.hbmRow u
  let n := mapGet (fun _ => 0) k.ceRows row + 1
  let s := s.setStack i { k with ceRows := mapPut (fun _ => 0) k.ceRows row n }
  if n = 4 then s.rowForRepair u else s

/-- Read a unit: its bytes, whether it is delivered poisoned, and what the read counts, reports and queues. -/
def State.unitRead (s : State) (u : Nat) : (List Byte × Bool) × State :=
  let data := memRead s.hbm (32 * u) 32
  if s.isRetired (32 * u) 32 then ((data, true), s)
  else
    let m := s.unitMeta u
    match m.check with
    | .clean => ((data, m.poison), s)
    | .correctable => ((data, m.poison), s.unitCe u)
    | .uncorrectable =>
      let s := (s.unitUe u).rowForRepair u
      let i := stackOf (32 * u)
      let k := s.stack i
      ((data, true), if k.pwb.contains u then s else s.setStack i { k with pwb := k.pwb ++ [u] })

/-- Read `n` units from one up: the bytes and one poison flag per unit. -/
def State.unitReads (s : State) (u : Nat) : Nat → (List Byte × List Bool) × State
  | 0 => (([], []), s)
  | n + 1 =>
    let ((d, p), s) := s.unitRead u
    let ((ds, ps), s) := s.unitReads (u + 1) n
    ((d ++ ds, p :: ps), s)

/-- Read bytes [a, a + n): the bytes, and one poison flag per unit touched. -/
def State.hbmRead (s : State) (a n : Nat) : (List Byte × List Bool) × State :=
  let u0 := a / 32
  let ((bs, ps), s) := s.unitReads u0 ((a + n + 31) / 32 - u0)
  (((bs.drop (a - 32 * u0)).take n, ps), s)

/-- Write bytes into one unit from byte `off` of it: a part of a unit is written by reading the rest, whose poison stays (R262). -/
def State.unitPatch (s : State) (u off : Nat) (bs : List Byte) : State :=
  if bs.length = 32 then s.unitWrite u bs false
  else
    let ((old, p), s) := s.unitRead u
    s.unitWrite u (old.take off ++ bs ++ old.drop (off + bs.length)) p

/-- Write bytes over `n` units, from byte `off` of the first. -/
def State.unitPatches (s : State) (u off : Nat) (bs : List Byte) : Nat → State
  | 0 => s
  | n + 1 => (s.unitPatch u off (bs.take (32 - off))).unitPatches (u + 1) 0 (bs.drop (32 - off)) n

/-- Write bytes at any address, as whole units. -/
def State.hbmPatch (s : State) (a : Nat) (bs : List Byte) : State :=
  s.unitPatches (a / 32) (a % 32) bs ((a % 32 + bs.length + 31) / 32)

/-- An unscheduled write: one that meets a weight region fails with a notice (R265). -/
def State.hbmPut (s : State) (a : Nat) (bs : List Byte) : State :=
  if s.inWeights a bs.length then s.notice 265 a else s.hbmPatch a bs

/-- An unscheduled write of bytes with one poison flag per unit that they were read from: whole units keep their flags (R262, R265). -/
def State.hbmPutUnits (s : State) (a : Nat) (bs : List Byte) (ps : List Bool) : State :=
  if s.inWeights a bs.length then s.notice 265 a
  else if a % 32 = 0 ∧ bs.length % 32 = 0 then s.hbmWrite a bs (ps.flatMap fun p => [p, p, p, p])
  else s.hbmPatch a bs

/-- Zero `n` units from one up, with fresh check bits; what was to be written back to them is cancelled (R261, R263). -/
def State.unitsClear (s : State) (u n : Nat) : State :=
  let mine := fun (v : Nat) => decide (u ≤ v) && decide (v < u + n)
  let clear := fun (k : Stack) => { k with pwb := k.pwb.filter fun v => !mine v, found := k.found.filter fun f => !mine f.1 }
  { s with hbm := mapClear s.hbm (32 * u) (32 * n), hbmMeta := mapClear s.hbmMeta u n,
           hbmStacks := mapAll (fun _ => Stack.initial) clear s.hbmStacks }

/-- Rows that were repaired: their content is destroyed, bytes and check bits alike (R264), to values that are open (log 69). -/
def State.rowsDestroyed (s : State) : List (Nat × Nat) → State
  | [] => s
  | (a, n) :: rs =>
    let (k, s) := s.draw
    let check := fun u => match (Config.repairedCheck k u).toNat with
      | 0 => Check.clean
      | 1 => .correctable
      | _ => .uncorrectable
    let s := { s with hbm := memWrite s.hbm a ((upFrom a n).map (Config.repairedByte k)) }
    ((upFrom (a / 32) (n / 32)).foldl (fun (s : State) u =>
      (s.setUnitMeta u { poison := Config.repairedPoison k u, check := check u }).unitTouched u) s).rowsDestroyed rs

/-- One flag per 8-byte granule from one flag per unit. -/
def granFlags (ps : List Bool) : List Bool := ps.flatMap fun p => [p, p, p, p]

/-- Count scheduled traffic of the current frame on a stack (HM_SCHED.PEAK). -/
def State.scheduledTraffic (s : State) (a n : Nat) : State :=
  let i := stackOf a
  let k := s.stack i
  let frame := s.wallNow / 512
  let units := (a + n + 511) / 512 - a / 512
  let count := if k.schedFrame = frame then k.schedCount + units else units
  (s.setStack i { k with schedFrame := frame, schedCount := count }).peak (Reg.HM_SCHED_PEAK i) count

end Sys2Proof.Machine
end

