-- ==== Sys2Proof/Machine/Mailbox.lean ====
section
/-! DEFINITION. Receiving an order and completing it (R343 to R347). -/

namespace Sys2Proof.Machine

/-- Completion statuses (Table 12.5). -/
inductive Status where
  | ok | gap | stale | state | malformed | refused | failed | cancelled | busy
deriving DecidableEq, Repr

/-- STATUS of a completion. -/
def Status.code : Status → Nat
  | .ok => 0
  | .gap => 1
  | .stale => 2
  | .state => 3
  | .malformed => 4
  | .refused => 5
  | .failed => 6
  | .cancelled => 7
  | .busy => 8

/-- What an order ends with: STATUS, DETAIL, RESULT, and for SERVE its entry codes. -/
structure Verdict where
  status : Status
  detail : Nat
  result : DWord
  codes : List Nat
deriving DecidableEq, Repr

/-- A verdict without result. -/
def Verdict.plain (st : Status) (detail : Nat) : Verdict := { status := st, detail := detail, result := 0, codes := [] }

/-- The completion entry of an order that ends now (Table 12.5). -/
def State.completion (s : State) (opcode : Nat) (seq tag : DWord) (v : Verdict) : Completion :=
  { seq := seq, opcode := opcode, status := v.status.code, detail := v.detail, result := v.result, wall := s.wallNow,
    holdover := s.holdover, tag := tag, dup := false, codes := v.codes }

/-- HI_MB_NEXT. -/
def State.nextSeq (s : State) : Nat := s.fget Reg.HI_MB_NEXT_NEXT

/-- Queue a completion for posting. -/
def State.post (s : State) (c : Completion) : State := { s with host.ready := s.host.ready ++ [c] }

/-- Complete an accepted order: its completion is retained while it is among the last 1,024 accepted (R345). -/
def State.complete (s : State) (opcode : Nat) (seq tag : DWord) (v : Verdict) : State :=
  let c := s.completion opcode seq tag v
  let kept := (s.host.kept ++ [c]).filter fun k => decide (s.nextSeq ≤ k.seq.toNat + 1024)
  let bg := s.host.background.filter fun b => b.seq ≠ seq
  { s with host.ready := s.host.ready ++ [c], host.kept := kept, host.background := bg }

/-- Start an order in the background (R347). -/
def State.background (s : State) (opcode : Nat) (o : Order) : State :=
  { s with host.background := s.host.background ++ [{ opcode := opcode, seq := o.seq, tag := o.tag }] }

/-- The background order with an opcode, if one runs. -/
def State.running? (s : State) (opcode : Nat) : Option Background :=
  s.host.background.find? fun b => decide (b.opcode = opcode)

/-- Complete the background order with a SEQ, if it has not completed. -/
def State.finishSeq (s : State) (seq : DWord) (v : Verdict) : State :=
  match s.host.background.find? fun b => decide (b.seq = seq) with
  | some b => s.complete b.opcode b.seq b.tag v
  | none => s

/-- Complete the background order with an opcode, if one runs. -/
def State.finishOp (s : State) (opcode : Nat) (v : Verdict) : State :=
  match s.running? opcode with
  | some b => s.complete b.opcode b.seq b.tag v
  | none => s

/-- A SEQ below HI_MB_NEXT (R344): a retained completion is posted again, a copy of an order under way is discarded, and any
other is STALE. -/
def State.resent (s : State) (o : Order) (opcode : Nat) : State :=
  match s.host.kept.find? fun c => decide (c.seq = o.seq) with
  | some c => (s.bump Reg.HI_DUPS_COUNT).post { c with dup := true }
  | none =>
    if s.host.background.any fun b => decide (b.seq = o.seq) then s.bump Reg.HI_DUPS_COUNT
    else s.post (s.completion opcode o.seq o.tag (.plain .stale 0))

/-- Accept the order expected next: HI_MB_NEXT advances and the order is counted. -/
def State.accept (s : State) : State := (s.fset Reg.HI_MB_NEXT_NEXT (s.nextSeq + 1)).bump Reg.HI_ORDERS_COUNT

/-- The HI_PX slot of the device itself. -/
def State.ownSlot (s : State) : Nat := s.manage.straps.slot.toNat

/-- The doorbell counts of a slot. -/
def State.bell (s : State) (n : Nat) : Bell := mapGet (fun _ => Bell.initial) s.host.bells n

/-- Store the doorbell counts of a slot. -/
def State.setBell (s : State) (n : Nat) (b : Bell) : State :=
  { s with host.bells := mapPut (fun _ => Bell.initial) s.host.bells n b }

/-- A posted descriptor has been received. -/
def State.descriptorTaken (s : State) : State :=
  let b := s.bell s.ownSlot
  if b.oqHead = b.oqTail then s else s.setBell s.ownSlot { b with oqHead := (b.oqHead + 1) % 2 ^ 32 }

/-- Whether the straps contradict each other: both processors refuse all director-only actions (R401). -/
def State.contra (s : State) : Bool := decide (s.manage.procW.estate = .contra) || decide (s.manage.procE.estate = .contra)

/-- A management processor: 0 West, 1 East. -/
def State.proc (s : State) (d : Nat) : Processor := if d = 0 then s.manage.procW else s.manage.procE

/-- Whether the director has lost the other processor (R400). -/
def State.isolated (s : State) : Bool := decide ((s.proc (s.fget Reg.DD_STATUS_DIRECTOR)).estate = .isolated)

/-- Opcodes that must act on both dies' blocks: LOAD, UNLOAD, FETCH, SCREEN, ADMIT, UPD_ACTIVATE, UPD_CONFIRM (R400). -/
def farOrders : List Nat := [0x01, 0x02, 0x03, 0x11, 0x13, 0x1A, 0x1B]

/-- A director-only request is refused and counted; the order's DETAIL is a free value. -/
def State.refuseDirector (s : State) (o : Order) (opcode : Nat) : State :=
  let (n, s) := s.draw
  (s.bump Reg.DD_REFUSED_COUNT).complete opcode o.seq o.tag (.plain .refused (Config.freeWord n).toNat)

/-- An accepted order in a state that admits it or not. -/
def State.executeOrder (s : State) (o : Order) (opcode : Nat) (admits : State → Bool) (f : State → State) : State :=
  if s.contra && decide (opcode ≠ 0x0E) then s.refuseDirector o opcode
  else if !admits s then s.complete opcode o.seq o.tag (.plain .state 0)
  else if s.isolated && farOrders.contains opcode then s.complete opcode o.seq o.tag (.plain .failed 0x50)
  else f s

/-- Receipt of an order (R344): `run` is what the accepted order does. A device that is OFF, or has no host role (R338), receives
none. -/
def State.receiveBy (s : State) (o : Order) (opcode : Nat) (run : State → State) : State :=
  if s.dev = .off ∨ s.hostRole = 0 then s
  else
    let s := s.descriptorTaken
    if o.seq.toNat = s.nextSeq then run s.accept
    else if o.seq.toNat < s.nextSeq then s.resent o opcode
    else s.post (s.completion opcode o.seq o.tag (.plain .gap 0))

/-- Receipt of an order of Table 12.6 (R347): the accepted order executes `f` in a state that admits it. In CONTRA only RESET
executes, and a director in ISOLATED fails what must act on the far die (R399 to R401). -/
def State.receive (s : State) (o : Order) (opcode : Nat) (admits : State → Bool) (f : State → State) : State :=
  s.receiveBy o opcode fun s => s.executeOrder o opcode admits f

/-- Complete the order at once. -/
def State.done (s : State) (opcode : Nat) (o : Order) (v : Verdict) : State := s.complete opcode o.seq o.tag v

/-- An order that consumes its SEQ and completes MALFORMED in any state but OFF (R347). -/
def State.malformed (s : State) (o : Order) (opcode : Nat) : State :=
  s.receiveBy o opcode fun s => if s.contra then s.refuseDirector o opcode else s.done opcode o (.plain .malformed 0)

/-- MALFORMED_ORDER: a descriptor of 60 bytes and its CRC. One that is formed as R342 asks has no effect here: its order is a command
of its own (DESIGN CHOICE, log 119). -/
def execMalformedOrder (descriptor : List Byte) (crc : Word) (s : State) : Host.Outcome State Fault Refusal :=
  let d := descriptorOf descriptor crc
  .next (if d.formed then s else s.malformed d.order d.opcode)

end Sys2Proof.Machine
end

