-- ==== Sys2Proof/Machine/Landing.lean ====
section
/-! DEFINITION. Landing stages, sync counters, the drizzle port and the write-backs (R47 to R49, R139 to R147, R153, R159 to
R162, R183). -/

namespace Sys2Proof.Machine

/-! ## Sync counters (R183) -/

/-- The field of a device counter: bits [12:11] name the cluster. -/
def syncField (ctr : Nat) : Fld := Reg.CL_SYNC_VALUE (ctr / 2048) (ctr % 2048)

/-- The value of a counter. -/
def State.counter (s : State) (ctr : Nat) : Nat := s.fget (syncField ctr)

/-- A counter has value `n` at plan tick `t`: a WAIT on it that this satisfies keeps the tick (R184, R193). -/
def WaitState.sees (w : WaitState) (ctr n : Nat) (t : Int) : WaitState :=
  if w.ctr = ctr ∧ w.met = none ∧ w.target.toNat ≤ n then { w with met := some (max t w.since) } else w

/-- Give a counter a value at a plan tick. -/
def State.setCounter (s : State) (ctr n : Nat) (t : Int) : State :=
  let s := s.fset (syncField ctr) (n % 2 ^ 32)
  s.onSeq (ctr / 2048) fun q => { q with wait := q.wait.map fun w => w.sees ctr (n % 2 ^ 32) t }

/-- Add to a counter, modulo 2^32, at a plan tick. -/
def State.addCounter (s : State) (ctr n : Nat) (t : Int) : State := s.setCounter ctr (s.counter ctr + n) t

/-- Apply a scheduled SIG or SETC. -/
def State.applySched (s : State) (e : Sched) : State :=
  if e.set then s.setCounter e.ctr e.val.toNat e.due else s.addCounter e.ctr e.val.toNat e.due

/-- Order of the scheduled changes: by tick, a SETC before the increments of its tick (R183). -/
def Sched.rank (e : Sched) : Int := 2 * e.due + (if e.set then 0 else 1)

/-- Apply, in order, the scheduled changes that meet a test, and drop them. -/
def State.runSched (s : State) (f : Sched → Bool) : State :=
  let now := sortBy Sched.rank (s.take.sched.filter f)
  let s := { s with take.sched := s.take.sched.filter fun e => !f e }
  now.foldl (fun s e => s.applySched e) s

/-- A flagged landing at P increments its counter, after what was scheduled on the counter until then. -/
def State.countLanding (s : State) (ctr : Nat) (p : Int) : State :=
  (s.runSched fun e => decide (e.ctr = ctr) && decide (e.due ≤ p)).addCounter ctr 1 p

/-! ## Cores by number -/

/-- The key of a core named by DCORE: cluster [5:4], virtual core [3:0]. -/
def State.coreOfDcore (s : State) (d : Nat) : Option Nat :=
  (s.slotOf (d / 16) (d % 16)).map fun p => 16 * (d / 16) + p

/-- DCORE of a core's key. -/
def State.dcoreOf (s : State) (key : Nat) : Nat := 16 * (key / 16) + s.vcoreOf key

/-! ## Landings -/

/-- Bytes of a landing. -/
def Landing.bytes (l : Landing) : Nat := (l.rows.map fun r => r.2.1.length).sum

/-- Order of two landings that write one granule (R160): P, then source device, cluster and core, then issue. -/
def Landing.prevails (a b : Landing) : Bool :=
  if a.p ≠ b.p then decide (b.p < a.p)
  else if a.srcDev ≠ b.srcDev then decide (b.srcDev < a.srcDev)
  else if a.srcCore ≠ b.srcCore then decide (b.srcCore < a.srcCore)
  else decide (b.seq < a.seq)

/-- Granules that a landing writes. -/
def Landing.granules (l : Landing) : List Nat := l.rows.flatMap fun r => upFrom (r.1 / 8) (granCount r.1 r.2.1.length)

/-- The stage's occupancy: transfers, and bytes, of landings whose data has arrived and is not all written back. -/
def stageUse (ls : List Landing) : Nat × Nat :=
  let held := ls.filter fun l => (l.arrived || decide (0 < l.got)) && (!l.released || !l.left.isEmpty)
  (held.length, (held.map (·.bytes)).sum)

/-- Whether a stage has room for a transfer of `n` bytes: 512 transfers and 2 MiB (R159). -/
def stageRoom (ls : List Landing) (n : Nat) : Bool :=
  decide ((stageUse ls).1 < 512) && decide ((stageUse ls).2 + n ≤ 2 ^ 21)

/-- Note a core's stage peaks. -/
def State.stagePeaks (s : State) (key : Nat) : State :=
  let (n, b) := stageUse (s.core key).landing
  (s.peak (Reg.CL_LAND_STAT_PEAKXFER (key / 16) (key % 16)) n).peak (Reg.CL_LAND_STAT_PEAKROWS (key / 16) (key % 16))
    (ceilDiv b 512)

/-- A transfer that found the stage full: its data is discarded, so it lands late. -/
def Landing.dropped (l : Landing) : Landing := { l with rows := [], arrived := false }

/-- Put a transfer's data into a core's landing stage. -/
def State.stageLanding (s : State) (key : Nat) (l : Landing) : State :=
  let c := s.core key
  let l := if stageRoom c.landing l.bytes then { l with arrived := true, got := l.need } else l.dropped
  (s.setCore key { c with landing := c.landing ++ [l] }).stagePeaks key

/-- Put a transfer on its way to a core's landing stage. -/
def State.sendLanding (s : State) (key : Nat) (l : Landing) : State :=
  let c := s.core key
  s.setCore key { c with inflight := c.inflight ++ [l] }

/-! ## Arrival (R159) -/

/-- Remove the element at an index. -/
def dropIndex {α : Type} : List α → Nat → List α
  | [], _ => []
  | _ :: l, 0 => l
  | x :: l, n + 1 => x :: dropIndex l n

/-- The transfers on their way to HBM controllers are numbered stack × 65,536 + position. -/
def hbmIndex (index : Nat) : Nat × Nat := (index / 65536, index % 65536)

/-- An on-device transfer reaches a core's landing stage. -/
def State.arriveCore (s : State) (key index : Nat) : State :=
  let c := s.core key
  match c.inflight[index]? with
  | none => s
  | some l => (s.setCore key { c with inflight := dropIndex c.inflight index }).stageLanding key l

/-- A store reaches the landing register of an HBM controller. -/
def State.arriveHbm (s : State) (index : Nat) : State :=
  let (i, n) := hbmIndex index
  let k := s.stack i
  match k.landing[n]? with
  | none => s
  | some l => s.setStack i { k with landing := listSet k.landing n { l with arrived := true, got := l.need } }

/-- LANDING_ARRIVAL. -/
def execLandingArrival (dst : Option CoreId) (index : Nat) (s : State) : Host.Outcome State Fault Refusal :=
  match dst with
  | some c => .next (s.arriveCore c.key index)
  | none => .next (s.arriveHbm index)

/-! ## Release at P (R47, R48, R160) -/

/-- Write the bytes of a landing's row into the granules that no landing of higher order has taken. -/
def State.landRow (s : State) (key : Nat) (taken : List Nat) (addr : Nat) (bs : List Byte) (ps : List Bool) : State :=
  (upFrom 0 (granCount addr bs.length)).foldl (fun s k =>
    let g := addr / 8 + k
    if taken.contains g then s else s.granWrite key g 0 ((bs.drop (8 * k)).take 8) (ps.getD k false)) s

/-- Write the rows of a landing; a row in a resident region or a committed half is not written and halts (R150). -/
def State.landRows (s : State) (key : Nat) (taken : List Nat) : List (Nat × List Byte × List Bool) → State
  | [] => s
  | r :: rs =>
    let s := if s.writeBarred key r.1 r.2.1.length then s.halt (key / 16) 0x23 (some key)
      else s.landRow key taken r.1 r.2.1 r.2.2
    s.landRows key taken rs

/-- The granules that landings of higher order than `l` have landed on and not yet written back. -/
def takenOver (ls : List Landing) (l : Landing) : List Nat :=
  (ls.filter fun m => m.released && m.prevails l).flatMap (·.left)

/-- Whether the checker reports a landing: another of equal P writes one of its granules (Table 06.15, 0x84). -/
def State.landClash (s : State) (key : Nat) (l : Landing) : Bool :=
  let c := s.core key
  s.checking (key / 16) && (c.landing ++ c.inflight).any fun m =>
    decide (m.p = l.p) && !(m == l) && m.granules.any fun g => l.granules.contains g

/-- Release a complete transfer at a core: its data becomes visible, its counter counts, a decode error halts (R165). -/
def State.landComplete (s : State) (key index : Nat) (l : Landing) : State :=
  let c := s.core key
  let s := s.setCore key { c with landing := listSet c.landing index { l with released := true } }
  let s := s.landRows key (takenOver c.landing l) l.rows
  let c := s.core key
  let done : Landing := { l with released := true, left := l.granules }
  let s := s.setCore key { c with landing := if l.rows.isEmpty then dropIndex c.landing index else listSet c.landing index done }
  let s := if l.flag then s.countLanding l.sync l.p else s
  if l.decodeErr then s.halt (key / 16) 0x25 (some key) else s

/-- Whether a landing is the transfer that a landing register expects. -/
def Expect.names (e : Expect) (l : Landing) : Bool :=
  decide (l.kind = 3) && decide (l.srcDev = e.srcDev) && decide (l.srcCore = e.srcCore) && decide (l.p = e.p)

/-- Whether a transfer's data has arrived in full, as far as the landing register expects it (R48). -/
def Landing.full (l : Landing) (expect : Option Expect) : Bool :=
  l.arrived && (match expect with
    | some e => decide (e.bytes ≤ l.got)
    | none => true)

/-- Release, or find late, the transfer at an index of a core's landing stage. -/
def State.releaseStaged (s : State) (key index : Nat) (l : Landing) (expect : Option Expect) : State :=
  if l.released ∨ s.planNow < l.p then s
  else if !l.full expect then
    let c := s.core key
    (s.setCore key { c with landing := dropIndex c.landing index }).halt (key / 16) 0x47 (some key)
  else if s.landClash key l then
    let c := s.core key
    (s.setCore key { c with landing := dropIndex c.landing index }).halt (key / 16) 0x84 (some key)
  else s.landComplete key index l

/-- Find late the transfer at an index of those still on their way. -/
def State.releaseInflight (s : State) (key index : Nat) (l : Landing) : State :=
  if s.planNow < l.p then s
  else
    let c := s.core key
    (s.setCore key { c with inflight := dropIndex c.inflight index }).halt (key / 16) 0x47 (some key)

/-- P of a transfer to a core: the stage's transfers are numbered first, then those on their way. -/
def State.releaseCore (s : State) (key index : Nat) : State :=
  let c := s.core key
  match c.landing[index]? with
  | some l => s.releaseStaged key index l none
  | none =>
    match c.inflight[index - c.landing.length]? with
    | some l => s.releaseInflight key (index - c.landing.length) l
    | none => s

/-- P of a transfer of another device that the core's landing register expects: one of which nothing has arrived is late as well. -/
def State.releaseExpected (s : State) (key index : Nat) (e : Expect) : State :=
  if s.planNow < e.p then s
  else
    match ((s.core key).landing[index]?).filter e.names with
    | some l => s.releaseStaged key index l (some e)
    | none => s.halt (key / 16) 0x47 (some key)

/-- Write a store's rows to HBM; a store that meets a weight region is not performed (R265). -/
def State.storeRows (s : State) (rows : List (Nat × List Byte × List Bool)) : State :=
  match rows.find? fun r => s.inWeights r.1 r.2.1.length with
  | some r => (s.fsetb (Reg.HM_STATUS_WPROT (stackOf r.1)) true).raise 0x27 3 (stackOf r.1) (Config.faultDetail 0x27 r.1).toNat
  | none => rows.foldl (fun (s : State) r => s.hbmWrite r.1 r.2.1 r.2.2) s

/-- P of one store that has left the HBM controller's landing register; a late one halts the cluster that sent it (DEDUCED, log 30). -/
def State.performStore (s : State) (l : Landing) : State :=
  if !l.arrived then s.halt (l.srcCore / 16) 0x47 (s.coreOfDcore l.srcCore)
  else
    let s := s.storeRows l.rows
    if l.flag then s.countLanding l.sync l.p else s

/-- Insert a store into a list, before the first one that prevails over it. -/
def insertStore (l : Landing) : List Landing → List Landing
  | [] => [l]
  | m :: ms => if m.prevails l then l :: m :: ms else m :: insertStore l ms

/-- P of a store in an HBM controller. A store of equal P over which it prevails is performed first (R160). -/
def State.releaseHbm (s : State) (index : Nat) : State :=
  let (i, n) := hbmIndex index
  let k := s.stack i
  match k.landing[n]? with
  | none => s
  | some l =>
    if s.planNow < l.p then s
    else
      let first := fun (m : Landing) => decide (m.p = l.p) && !(m == l) && l.prevails m
      let batch := (k.landing.filter first).foldl (fun ms m => insertStore m ms) []
      let rest := (dropIndex k.landing n).filter fun m => !first m
      (batch ++ [l]).foldl (fun s m => s.performStore m) (s.setStack i { k with landing := rest })

/-- Perform the stores of an HBM controller that are due by a tick: `fuel` at most. -/
def State.releaseHbmDue (s : State) (i : Nat) (t : Int) : Nat → State
  | 0 => s
  | fuel + 1 =>
    match (s.stack i).landing.findIdx? fun l => decide (l.p ≤ t) with
    | none => s
    | some n => (s.releaseHbm (65536 * i + n)).releaseHbmDue i t fuel

/-- Perform the stores of every HBM controller that are due by a tick. -/
def State.storesBy (s : State) (t : Int) : State :=
  s.hbmStacks.foldl (fun s k => s.releaseHbmDue k.1 t k.2.landing.length) s

/-- Before an unscheduled access, a patrol or a poison write-back: a scheduled write that meets it is performed first (R255). -/
def State.storesFirst (s : State) : State :=
  let ticks := s.hbmStacks.flatMap fun k => (k.2.landing.map (·.p)).filter fun p => decide (p ≤ s.planNow)
  (sortBy id ticks.eraseDups).foldl (fun (s : State) t => s.storesBy t) s

/-- LANDING_RELEASE. Its `expect` is what the landing register holds of a transfer of another device (R355), none for a transfer whose
size is known from its source on this device. -/
def execLandingRelease (dst : Option CoreId) (what : LandingRef) (s : State) : Host.Outcome State Fault Refusal :=
  match dst, what.expect with
  | some c, some e => .next (s.releaseExpected c.key what.index e)
  | some c, none => .next (s.releaseCore c.key what.index)
  | none, _ => .next (s.releaseHbm what.index)

/-! ## Write-backs of landed data and of ECC corrections (R139, R146, R159) -/

/-- A landed granule is written back: it leaves the stage, and a landing with none left leaves with it. -/
def Core.landedBack (c : Core) (g : Nat) : Core :=
  let ls := c.landing.map fun l => { l with left := l.left.filter (· ≠ g) }
  { c with landing := ls.filter fun l => !(l.released && l.left.isEmpty) }

/-- Whether a scheduled access takes a bank in `n` cycles from the cluster's current one: as far as that cycle lies in this tick of wall
time (R139). -/
def State.bankTaken (s : State) (key bank n : Nat) : Bool :=
  let q := s.seq (key / 16)
  decide (q.nowAt = s.wallNow) && (upFrom q.now n).any fun c => !(s.usesAt key c bank).isEmpty

/-- Whether a landed granule waits to be written back to a bank. -/
def Core.landingWants (c : Core) (bank : Nat) : Bool := c.landing.any fun l => l.left.any fun g => decide (bankOf (8 * g) = bank)

/-- Whether an ECC write-back waits for a bank. -/
def Core.eccWants (c : Core) (bank : Nat) : Bool := c.eccq.any fun w => decide (bankOf (8 * w.granule) = bank)

/-- LANDING_WRITEBACK. The data is in the bank from P on, so only the stage changes. It waits while a scheduled access takes its bank. -/
def execLandingWriteback (c : CoreId) (granule : Nat) (s : State) : Host.Outcome State Fault Refusal :=
  .next (if s.bankTaken c.key (bankOf (8 * granule)) 1 then s else s.setCore c.key ((s.core c.key).landedBack granule))

/-- The oldest ECC write-back is performed: fresh check bits, and poison for an uncorrectable granule. It waits while a scheduled access
takes its bank, or a landing write-back wants it (R139). -/
def State.eccBack (s : State) (key : Nat) : State :=
  let c := s.core key
  match c.eccq with
  | [] => s
  | w :: ws =>
    let b := bankOf (8 * w.granule)
    if s.bankTaken key b 1 || c.landingWants b then s
    else (s.setCore key { c with eccq := ws }).setGranMeta key w.granule { poison := w.poison, check := .clean }

/-- ECC_WRITEBACK. -/
def execEccWriteback (c : CoreId) (s : State) : Host.Outcome State Fault Refusal := .next (s.eccBack c.key)

/-! ## The drizzle port (R141 to R144, R147) -/

/-- Bytes that a request moves. -/
def DrizzleOp.size : DrizzleOp → Nat
  | .read _ n _ => n
  | .write _ bs _ _ => bs.length

/-- First address of a request. -/
def DrizzleOp.addr : DrizzleOp → Nat
  | .read a _ _ => a
  | .write a _ _ _ => a

/-- The bytes of the next access at an address with `n` bytes to go: wide, narrow or partial (Table 05.3). -/
def accessSize (a n : Nat) : Nat :=
  if a % 512 = 0 ∧ 512 ≤ n then 512
  else if a % 8 = 0 ∧ 8 ≤ n then 8
  else min n (8 - a % 8)

/-- Accept a request into a core's queue; beyond 32 it is held back at its source in order. `signals` is the counter that its copy
signals with its last byte, `order` is the SEQ of the copy order
that asks for it, `last` marks the copy's last request, `inLink` the link in whose receive buffer it waits while it is held back. -/
def State.drizzleFrom (s : State) (key : Nat) (op : DrizzleOp) (signals : Option Nat) (order : Option DWord) (last : Bool)
    (inLink : Option (Nat × Nat × Nat)) : State :=
  let c := s.core key
  let r : DrizzleReq :=
    { op := op, signals := signals, done := 0, since := s.wallNow / 512, reported := false, got := [], order := order, last := last, inLink := inLink }
  s.setCore key { c with drizzle := c.drizzle ++ [r] }

/-- Accept a request of a source on this device. -/
def State.drizzle (s : State) (key : Nat) (op : DrizzleOp) (signals : Option Nat) (order : Option DWord) (last : Bool) : State :=
  s.drizzleFrom key op signals order last none

/-- The counter that a request itself increments. -/
def DrizzleOp.signals : DrizzleOp → Option Nat
  | .read .. => none
  | .write _ _ _ sync => sync

/-- A queued request whose packet no longer waits in a receive buffer. -/
def DrizzleReq.admitted (r : DrizzleReq) : DrizzleReq := { r with inLink := none }

/-- The head request leaves, having waited its frames: the next one becomes the head in this frame, and the request that enters the queue
of 32 frees its packet's receive buffer (R293). -/
def State.drizzlePop (s : State) (key : Nat) (r : DrizzleReq) (rest : List DrizzleReq) : State :=
  let wait := s.wallNow / 512 - r.since
  let s := (s.peak (Reg.CL_DRZ_STAT_MAXWAIT (key / 16) (key % 16)) wait).extreme 1 key 5 wait
  let q := match rest with
    | [] => []
    | h :: t => { h with since := s.wallNow / 512 } :: t
  match q[31]? with
  | some r =>
    let s := s.setCore key { s.core key with drizzle := listSet q 31 r.admitted }
    match r.inLink with
    | some (l, vc, n) => s.freeFlits l vc n
    | none => s
  | none => s.setCore key { s.core key with drizzle := q }

/-- DRIZZLE_REQUEST: up to 4,096 bytes within the scratchpad. An address that does not exist stops the machine. -/
def execDrizzleRequest (c : CoreId) (r : DrizzleOp) (s : State) : Host.Outcome State Fault Refusal :=
  if spadSize < r.addr + r.size then .fault .noSuchAddress
  else if r.size = 0 ∨ 4096 < r.size then .next s
  else .next (s.drizzle c.key r r.signals none true)

/-- Whether the port may write [a, a + n) now: during ARMED, RUNNING and HOLDING only into a mailbox window (R142). -/
def State.drizzleMay (s : State) (key a n : Nat) : Bool := !s.dev.intake || s.inWindow key a n

/-- Remember which counter a copy into a window signals, for the checker's rule 0x87. -/
def markWindow (m : SMap Nat) (g ctr : Nat) : Nat → SMap Nat
  | 0 => m
  | n + 1 => markWindow (mapPut (fun _ => 0) m g (ctr + 1)) (g + 1) ctr n

/-- A scratchpad copy has written its last byte: record mode takes it as an external input, and its order completes. -/
def State.copyDone (s : State) (seq : DWord) : State :=
  let s := match s.host.copies.find? fun c => decide (c.1 = seq) with
    | some (_, args, data) =>
      { s with host.copies := s.host.copies.filter fun c => decide (c.1 ≠ seq) }.recordInput 4
        (if s.dev.inTake then s.planNow else 0) args [] data
    | none => s
  s.finishSeq seq (.plain .ok 0)

/-- Finish the head request: the next one becomes the head in this frame; a read's data goes to its host address, a flagged
write counts. -/
def State.drizzleDone (s : State) (key : Nat) (r : DrizzleReq) (rest : List DrizzleReq) : State :=
  let s := s.drizzlePop key r rest
  let s := match r.op with
    | .read _ _ host =>
      let s := s.hostPost host r.got
      match r.signals with
      | some ctr => if r.last then s.addCounter ctr 1 s.planNow else s
      | none => s
    | .write _ _ _ sync =>
      match sync with
      | some ctr => s.addCounter ctr 1 s.planNow
      | none => s
  match r.order with
  | some seq => if r.last then s.copyDone seq else s
  | none => s

/-- Refuse the head request's write: it completes with an error and an F0 notice (R142). The order's DETAIL is a free value. -/
def State.drizzleRefuse (s : State) (key : Nat) (r : DrizzleReq) (rest : List DrizzleReq) : State :=
  let s := (s.drizzlePop key r rest).notice 142 r.op.addr
  match r.order with
  | some seq =>
    let (n, s) := s.draw
    { s with host.copies := s.host.copies.filter fun c => decide (c.1 ≠ seq) }.finishSeq seq (.plain .failed (Config.freeWord n).toNat)
  | none => s

/-- Replace the head request. -/
def Core.withHead (c : Core) (r : DrizzleReq) (rest : List DrizzleReq) : Core := { c with drizzle := r :: rest }

/-- Note that the request's access is made, and finish it with its last byte. -/
def State.drizzleNext (s : State) (key : Nat) (r : DrizzleReq) (rest : List DrizzleReq) : State :=
  if r.op.size ≤ r.done then s.drizzleDone key r rest
  else s.setCore key ((s.core key).withHead r rest)

/-- Perform the next access of a read. -/
def State.drizzleRead (s : State) (key : Nat) (r : DrizzleReq) (rest : List DrizzleReq) (a m : Nat) : State :=
  let ((bs, _), s) := s.spadRead key a m
  s.drizzleNext key { r with done := r.done + m, got := r.got ++ bs } rest

/-- Perform the next access of a write. -/
def State.drizzleWrite (s : State) (key : Nat) (r : DrizzleReq) (rest : List DrizzleReq) (a m : Nat) (bs : List Byte)
    (ps : List Bool) : State :=
  let s := s.spadWrite key a ((bs.drop r.done).take m) ((upFrom (r.done / 8) (granCount a m)).map fun g => ps.getD g false)
  let s := match r.signals with
    | some ctr => { s with windowCtr := markWindow s.windowCtr (granKey key (a / 8)) ctr (granCount a m) }
    | none => s
  s.drizzleNext key { r with done := r.done + m } rest

/-- The head request's next access. -/
def State.drizzleStep (s : State) (key : Nat) : State :=
  match (s.core key).drizzle with
  | [] => s
  | r :: rest =>
    let a := r.op.addr + r.done
    let m := accessSize a (r.op.size - r.done)
    match r.op with
    | .read .. => s.drizzleRead key r rest a m
    | .write _ bs ps _ =>
      if s.drizzleMay key a m then s.drizzleWrite key r rest a m bs ps else s.drizzleRefuse key r rest

/-- Whether the head request's next access waits (R139, R141): a scheduled access takes one of its banks, in both cycles of a partial
access, or a write-back wants it. -/
def State.drizzleWaits (s : State) (key : Nat) : Bool :=
  let c := s.core key
  match c.drizzle with
  | [] => true
  | r :: _ =>
    let a := r.op.addr + r.done
    let m := accessSize a (r.op.size - r.done)
    (banksOf a m).any fun b => s.bankTaken key b (if m < 8 then 2 else 1) || c.landingWants b || c.eccWants b

/-- Whether a core is being scrubbed: no drizzle request is served (R153). -/
def State.scrubbing (s : State) (key : Nat) : Bool := s.flag (Reg.CL_SCRUB_BUSY (key / 16) (key % 16))

/-- DRIZZLE_ACCESS. -/
def execDrizzleAccess (c : CoreId) (s : State) : Host.Outcome State Fault Refusal :=
  .next (if s.scrubbing c.key || s.drizzleWaits c.key then s else s.drizzleStep c.key)

/-- Perform every access of a core's queue down to `left` requests: `fuel` accesses at most. -/
def State.drizzleAll (s : State) (key left : Nat) : Nat → State
  | 0 => s
  | fuel + 1 => if (s.core key).drizzle.length ≤ left then s else (s.drizzleStep key).drizzleAll key left fuel

/-- The head request has waited WDOG frames: STARVED and one F0 notice of source 0x08 (R144). -/
def State.watchdog (s : State) (key : Nat) : State :=
  let c := s.core key
  let w := s.fget (Reg.CL_DRZ_CFG_WDOG (key / 16) (key % 16))
  match c.drizzle with
  | [] => s
  | r :: rest =>
    if w = 0 ∨ r.reported = true ∨ s.scrubbing key = true ∨ s.wallNow / 512 < r.since + w then s
    else
      let s := s.setCore key (c.withHead { r with reported := true } rest)
      (s.fsetb (Reg.CL_DRZ_STAT_STARVED (key / 16) (key % 16)) true).raise 0x08 1 key (Config.faultDetail 0x08 key).toNat

/-- DRIZZLE_WATCHDOG. -/
def execDrizzleWatchdog (c : CoreId) (s : State) : Host.Outcome State Fault Refusal := .next (s.watchdog c.key)

/-! ## Scrub (R153, R266) -/

/-- A core's scrub ends: its storage, accumulators and registers are zero, DONE is set, and the port serves the requests held back
meanwhile (R153). -/
def State.scrubCoreDone (s : State) (key : Nat) : State :=
  let c := key / 16
  let p := key % 16
  if s.scrubbing key then
    let s := { s with spad := mapClear s.spad (spadAddr key 0) 0x2000000,
                      spadMeta := mapClear s.spadMeta (granKey key 0) 0x400000,
                      written := mapClear s.written (spadAddr key 0) 0x2000000 }
    let held := match (s.core key).drizzle with
      | [] => []
      | r :: rs => { r with since := s.wallNow / 512 } :: rs
    let s := s.setCore key { Core.initial with drizzle := held, scrubbed := true }
    (s.fsetb (Reg.CL_SCRUB_BUSY c p) false).fsetb (Reg.CL_SCRUB_DONE c p) true
  else s

/-- A stack's scrub ends: every unit is zero with fresh check bits. -/
def State.scrubStackDone (s : State) (i : Nat) : State :=
  if s.flag (Reg.HM_SCRUB_BUSY i) then
    let s := { s with hbm := mapClear s.hbm (i * 2 ^ 36) (2 ^ 36), hbmMeta := mapClear s.hbmMeta (i * 2 ^ 31) (2 ^ 31) }
    let k := s.stack i
    let s := s.setStack i { k with pwb := [], found := none }
    (s.fsetb (Reg.HM_SCRUB_BUSY i) false).fsetb (Reg.HM_SCRUB_DONE i) true
  else s

/-- Start the scrub of a core: the requests accepted into its queue complete, the landing stage is discarded. -/
def State.scrubCoreStart (s : State) (key : Nat) : State :=
  let s := s.drizzleAll key ((s.core key).drizzle.length - 32) (32 * 4096)
  let c := s.core key
  let s := s.setCore key { c with landing := [], inflight := [], eccq := [], pend := [] }
  (s.fsetb (Reg.CL_SCRUB_BUSY (key / 16) (key % 16)) true).fsetb (Reg.CL_SCRUB_DONE (key / 16) (key % 16)) false

/-- Start the scrub of a stack. -/
def State.scrubStackStart (s : State) (i : Nat) : State :=
  (s.fsetb (Reg.HM_SCRUB_BUSY i) true).fsetb (Reg.HM_SCRUB_DONE i) false

end Sys2Proof.Machine
end

