-- ==== Sys2Proof/Machine/Transfer.lean ====
section
/-! DEFINITION. The load and store slots: descriptors, rows, index lists, the page walker, the gather unit and the weight decoder
(R156 to R165, R180, R181, R243, R267 to R269). -/

namespace Sys2Proof.Machine

/-! ## Descriptors (Table 05.10) -/

/-- A descriptor's fields. -/
structure Desc where
  kind : Nat
  flag : Bool
  sync : Nat
  landofs : Nat
  ddev : Nat
  dcore : Nat
  route : Nat
  daddr : Nat
  saddr : Nat
  len : Nat
  rows : Nat
  sstride : Nat
  dstride : Nat
deriving DecidableEq, Repr

/-- The fields of 256 bits. -/
def descOf (b : BitVec 256) : Desc :=
  let n := b.toNat
  { kind := bitsOf 255 252 n, flag := bitOf n 251, sync := bitsOf 247 235 n, landofs := bitsOf 231 200 n,
    ddev := bitsOf 199 182 n, dcore := bitsOf 181 176 n, route := bitsOf 175 168 n, daddr := bitsOf 167 128 n,
    saddr := bitsOf 127 88 n, len := bitsOf 87 64 n, rows := bitsOf 63 48 n, sstride := bitsOf 47 24 n,
    dstride := bitsOf 23 0 n }

/-- The image of a core in a reel, by cluster × 16 + virtual core. -/
def Reel.coreImage (r : Reel) (k : Nat) : CoreImage :=
  ((r.cores.find? fun p => decide (p.1 = k)).map (·.2)).getD { descs := [], regions := [], trapEn := 0, resident := [] }

/-- A core's descriptor; an index that is not loaded reads 0, as the scrubbed descriptor memory does (R153). -/
def State.desc (s : State) (key i : Nat) : Desc :=
  let bits := match s.take.active with
    | none => 0
    | some r => (((r.coreImage (16 * (key / 16) + s.vcoreOf key)).descs.find? fun p => decide (p.1 = i)).map (·.2)).getD 0
  descOf bits

/-- Whether a kind belongs to the LD slot. -/
def loadKind (k : Nat) : Bool := k == 0 || k == 4 || k == 5 || k == 6

/-- Whether a kind belongs to the ST slot. -/
def storeKind (k : Nat) : Bool := k == 1 || k == 2 || k == 3 || k == 7

/-- The operands of an XFER on a core: descriptor, source and destination address, landing tick, poison. -/
structure XferArgs where
  d : Desc
  sa : Nat
  da : Nat
  p : Int
  poison : Bool
deriving DecidableEq, Repr

/-- The operands of an XFER on a core (R158, R180). A poisoned offset poisons the data. -/
def State.xferArgs (s : State) (key : Nat) (desc : BitVec 12) (sadr dadr treg : BitVec 5) (timm : Word) (poison : Bool) :
    XferArgs :=
  let d := s.desc key desc.toNat
  let a := s.sval key sadr
  let b := s.sval key dadr
  let t := s.sval key treg
  { d := d, sa := (BitVec.ofNat 64 d.saddr + a.v).toNat, da := (BitVec.ofNat 64 d.daddr + b.v).toNat,
    p := s.cuePlus (key / 16) d.landofs + t.v.toInt + timm.toNat, poison := poison || a.p || b.p || t.p }

/-- Whether rows of `len` bytes at a stride fit below a limit, aligned. -/
def rowsFit (a stride n len align limit : Nat) : Bool :=
  n == 0 || (a % align == 0 && decide (a + (n - 1) * stride + len ≤ limit))

/-- Whether an XFER's addresses lie in its spaces, aligned (R157; reason 0x29). -/
def XferArgs.fits (x : XferArgs) : Bool :=
  let d := x.d
  let ss := 64 * d.sstride
  let ds := 64 * d.dstride
  let toSpad := rowsFit x.da ds d.rows d.len 8 spadSize
  match d.kind with
  | 0 => rowsFit x.sa ss d.rows d.len 32 hbmSize && toSpad
  | 1 => rowsFit x.sa ss d.rows d.len 8 spadSize && rowsFit x.da ds d.rows d.len 32 hbmSize
  | 4 => x.sa % 32 == 0 && decide (x.sa < hbmSize) && toSpad
  | 5 => rowsFit ss 8 d.rows 8 8 spadSize && x.sa % 32 == 0 && toSpad
  | 6 => rowsFit ss 8 d.rows 8 8 spadSize && x.sa % 32 == 0 && decide (x.sa < hbmSize) && toSpad
  | _ => rowsFit x.sa ss d.rows d.len 8 spadSize && toSpad

/-! ## Rows -/

/-- Rows read: destination address, bytes, one poison flag per 8 bytes. -/
abbrev Rows := List (Nat × List Byte × List Bool)

/-- Read rows of the scratchpad from `a`, destined to `da`. The checker may refuse a read. -/
def State.readSpadRows (s : State) (key : Nat) (d : Desc) (a da : Nat) : Nat → Except Nat (Rows × State)
  | 0 => .ok ([], s)
  | n + 1 => do
    let (x, s) ← s.scheduledRead key a d.len
    let (rs, s) ← s.readSpadRows key d (a + 64 * d.sstride) (da + 64 * d.dstride) n
    .ok ((da, x.1, x.2) :: rs, s)

/-- A scheduled read of HBM: refused by the checker with its reason, or performed; a poisoned unit delivers four poisoned granules (R148). -/
def State.readHbmRow (s : State) (key a n : Nat) : Except Nat ((List Byte × List Bool) × State) :=
  match s.hbmChecks key a n with
  | r :: _ => .error r
  | [] =>
    let ((bs, ps), s) := s.hbmRead a n
    .ok ((bs, granFlags ps), s.scheduledTraffic a n)

/-- Read rows of HBM. -/
def State.readHbmRows (s : State) (key : Nat) (d : Desc) (a da : Nat) : Nat → Except Nat (Rows × State)
  | 0 => .ok ([], s)
  | n + 1 => do
    let (x, s) ← s.readHbmRow key a d.len
    let (rs, s) ← s.readHbmRows key d (a + 64 * d.sstride) (da + 64 * d.dstride) n
    .ok ((da, x.1, x.2) :: rs, s)

/-- A row that lands poisoned at P, its data open (log 10). -/
def XferArgs.poisonRow (x : XferArgs) (da : Nat) : Nat × List Byte × List Bool :=
  (da, (upFrom da x.d.len).map fun a => Config.poisonByte a x.p, List.replicate (x.d.len / 8) true)

/-- A zero row. -/
def zeroRow (d : Desc) (da : Nat) : Nat × List Byte × List Bool :=
  (da, List.replicate d.len 0, List.replicate (d.len / 8) false)

/-- Count a row landed poisoned by R164. -/
def State.badIndex (s : State) (key : Nat) : State := s.bump (Reg.CL_LD_STAT_BADIDX (key / 16) (key % 16))

/-! ## Index lists (R163, R164, R243) -/

/-- Poison the flags of a row. -/
def poisonIf (b : Bool) (r : Nat × List Byte × List Bool) : Nat × List Byte × List Bool :=
  if b then (r.1, r.2.1, r.2.2.map fun _ => true) else r

/-- A row of HBM at an address, or a poisoned row counted in BADIDX where it lies beyond HBM. -/
def State.indexedRow (s : State) (key : Nat) (x : XferArgs) (a da : Nat) : Except Nat ((Nat × List Byte × List Bool) × State) :=
  if hbmSize < a + x.d.len then .ok (x.poisonRow da, s.badIndex key)
  else do
    let (r, s) ← s.readHbmRow key a x.d.len
    .ok ((da, r.1, r.2), s)

/-- The page walker's row for an entry (R243); a page number beyond the page table is not mapped. A poisoned page-table entry lands a
poisoned row, which BADIDX does not count (DESIGN CHOICE, log 116). -/
def State.pageRow (s : State) (key : Nat) (x : XferArgs) (da e : Nat) : Except Nat ((Nat × List Byte × List Bool) × State) :=
  let page := bitsOf 31 0 e
  let pte := s.fget Reg.SV_AREA_BASE + 0x10000000 + bitsOf 46 32 e * 32768 + 4 * page
  if 8192 ≤ page ∨ hbmSize < pte + 4 then .ok (x.poisonRow da, s.badIndex key)
  else
    let ((bs, ps), s) := s.hbmRead pte 4
    let w := ofBytes bs
    if ps.any id then .ok (x.poisonRow da, s)
    else if !bitOf w 31 then .ok (x.poisonRow da, s.badIndex key)
    else s.indexedRow key x (s.fget Reg.SV_POOL_BASE_BASE + bitsOf 23 0 w * s.fget Reg.SV_POOL_STRIDE_STRIDE * 32 + x.sa) da

/-- The gather unit's row for an entry; an OFFSET that is no multiple of 32 leaves the row's bytes open (log 10). -/
def State.gatherRow (s : State) (key : Nat) (x : XferArgs) (da e : Nat) : Except Nat ((Nat × List Byte × List Bool) × State) :=
  let off := bitsOf 39 0 e
  if off % 32 = 0 ∨ hbmSize < x.sa + off + x.d.len then s.indexedRow key x (x.sa + off) da
  else .ok ((da, (upFrom da x.d.len).map fun a => Config.poisonByte a x.p, List.replicate (x.d.len / 8) false), s)

/-- The row for an index entry: a poisoned entry lands a poisoned row without reading HBM (R212), a null entry a zero row. -/
def State.entryRow (s : State) (key : Nat) (x : XferArgs) (da e : Nat) (poison : Bool) : Except Nat ((Nat × List Byte × List Bool) × State) :=
  if poison then .ok (x.poisonRow da, s)
  else if bitOf e 63 then .ok (zeroRow x.d da, s)
  else if x.d.kind = 5 then s.pageRow key x da e
  else s.gatherRow key x da e

/-- The rows of an index list at `l`. -/
def State.readIndexed (s : State) (key : Nat) (x : XferArgs) (l da : Nat) : Nat → Except Nat (Rows × State)
  | 0 => .ok ([], s)
  | n + 1 => do
    let (e, s) ← s.scheduledRead key l 8
    let (r, s) ← s.entryRow key x da (ofBytes e.1) (e.2.any id)
    let (rs, s) ← s.readIndexed key x (l + 8) (da + 64 * x.d.dstride) n
    .ok (r :: rs, s)

/-! ## The weight decoder (R267 to R269) -/

/-- The state of a decode: lane states, bit position, output in reverse. -/
structure AnsState where
  x : List Nat
  pos : Nat
  out : List Byte
deriving DecidableEq, Repr

/-- Decode one byte on lane `l`. -/
def ansStep (table : List Word) (payload l : Nat) (a : AnsState) : AnsState :=
  let t := (table.getD (a.x.getD l 0) 0).toNat
  let nb := bitsOf 11 8 t
  { x := listSet a.x l (bitsOf 23 12 t + payload / 2 ^ a.pos % 2 ^ nb), pos := a.pos + nb,
    out := BitVec.ofNat 8 t :: a.out }

/-- Decode `n` bytes from byte `i` on. -/
def ansRun (table : List Word) (payload : Nat) : Nat → Nat → AnsState → AnsState
  | 0, _, a => a
  | n + 1, i, a => ansRun table payload n (i + 1) (ansStep table payload (i % 32) a)

/-- The lane states of a header. -/
def headLanes (h : List Byte) : List Nat :=
  (upFrom 0 32).map fun l => ofBytes (h.drop 16) / 2 ^ (12 * l) % 4096

/-- Decode a coded block: its decoded bytes, or none where it is not valid (R269). -/
def decodeBlock (tables : List (Nat × List Word)) (h payload : List Byte) (len : Nat) : Option (List Byte) :=
  let clen := ofBytes ((h.drop 8).take 4)
  match tables.find? fun t => decide (t.1 = (h.getD 1 0).toNat) with
  | none => none
  | some t =>
    if h.getD 0 0 ≠ 1 ∨ ofBytes ((h.drop 4).take 4) ≠ len then none
    else
      let n := ofBytes payload
      let a := ansRun t.2 n len 0 { x := headLanes h, pos := 0, out := [] }
      let left := 8 * (clen - 64) - a.pos
      let out := a.out.reverse
      if a.pos ≤ 8 * (clen - 64) ∧ left < 256 ∧ n / 2 ^ a.pos = 0 ∧ (crc32c out).toNat = ofBytes ((h.drop 12).take 4) then some out
      else none

/-- The decode tables of the active reel. -/
def State.tables (s : State) : List (Nat × List Word) :=
  match s.take.active with
  | some r => r.decode
  | none => []

/-- A block that does not decode: a poisoned row, counted in DECERR. -/
def State.badBlock (s : State) (key : Nat) : State := s.bump (Reg.CL_LD_STAT_DECERR (key / 16) (key % 16))

/-- The row of the coded block at an address, whether it decoded, and the address of the next block. -/
def State.blockRow (s : State) (key : Nat) (x : XferArgs) (a da : Nat) : Except Nat (((Nat × List Byte × List Bool) × Bool × Nat) × State) :=
  if hbmSize < a + 64 then .ok ((x.poisonRow da, false, a), s.badBlock key)
  else do
    let (h, s) ← s.readHbmRow key a 64
    let clen := ofBytes ((h.1.drop 8).take 4)
    if clen % 32 ≠ 0 ∨ clen < 64 ∨ hbmSize < a + clen then .ok ((x.poisonRow da, false, a + clen), s.badBlock key)
    else do
      let (body, s) ← s.readHbmRow key (a + 64) (clen - 64)
      match decodeBlock s.tables h.1 body.1 x.d.len with
      | none => .ok ((x.poisonRow da, false, a + clen), s.badBlock key)
      | some out => .ok (((da, out, List.replicate (x.d.len / 8) (h.2.any id || body.2.any id)), true, a + clen), s)

/-- The rows of `n` coded blocks, and whether one did not decode. -/
def State.readBlocks (s : State) (key : Nat) (x : XferArgs) (a da : Nat) : Nat → Except Nat ((Rows × Bool) × State)
  | 0 => .ok (([], false), s)
  | n + 1 => do
    let (r, s) ← s.blockRow key x a da
    let (rs, s) ← s.readBlocks key x r.2.2 (da + 64 * x.d.dstride) n
    .ok ((r.1 :: rs.1, rs.2 || !r.2.1), s)

/-! ## Sending -/

/-- The rows that an XFER moves, and whether a coded block failed. -/
def State.xferRows (s : State) (key : Nat) (x : XferArgs) : Except Nat ((Rows × Bool) × State) :=
  let d := x.d
  let sound := fun (r : Except Nat (Rows × State)) => r.map fun y => ((y.1, false), y.2)
  match d.kind with
  | 0 => sound (s.readHbmRows key d x.sa x.da d.rows)
  | 4 => s.readBlocks key x x.sa x.da d.rows
  | 5 | 6 => sound (s.readIndexed key x (64 * d.sstride) x.da d.rows)
  | _ => sound (s.readSpadRows key d x.sa x.da d.rows)

/-- The landing of an XFER. -/
def State.xferLanding (s : State) (key : Nat) (x : XferArgs) (rows : Rows) (decodeErr : Bool) : Landing :=
  { p := x.p, kind := x.d.kind, flag := x.d.flag, sync := x.d.sync, srcDev := s.deviceId, srcCore := s.dcoreOf key,
    seq := (s.core key).sent, base := x.da, rows := rows, need := (rows.map fun r => r.2.1.length).sum, got := 0,
    arrived := false, released := false, left := [], decodeErr := decodeErr, awaited := [] }

/-- The packet template of an XFER that leaves the device. -/
def State.xferPacket (s : State) (key : Nat) (x : XferArgs) (vc pkind : Nat) : Packet :=
  { vc := vc, pkind := pkind, nflit := 0, flag := x.d.flag, sync := x.d.sync, ddev := x.d.ddev, sdev := s.deviceId,
    dcore := x.d.dcore, score := s.dcoreOf key, route := x.d.route, remt := 0,
    pland := if vc = 2 then unsignedOf 32 x.p else 0, daddr := x.da, take := s.takeTag, data := [], poison := [],
    hdrPoison := false }

/-- Put a store on its way to an HBM controller. -/
def State.sendStore (s : State) (x : XferArgs) (l : Landing) : State :=
  let i := stackOf x.da
  let k := s.stack i
  let s := s.setStack i { k with landing := k.landing ++ [l] }
  l.rows.foldl (fun s r => s.scheduledTraffic r.1 r.2.1.length) s

/-- Flag the last packet only: the counter increments once, after the last byte is written (R162). -/
def flagLast (flag : Bool) : List Packet → List Packet
  | [] => []
  | [p] => [{ p with flag := flag }]
  | p :: ps => { p with flag := false } :: flagLast flag ps

/-- The drizzle requests of rows: at most 4,096 bytes each, the last one flagged. -/
def drizzleOps (sync : Option Nat) (rows : Rows) : List DrizzleOp :=
  let runs := rows.flatMap fun r => (splitRun 4096 r.2.1.length 0 r.2.1 r.2.2).map fun x => (r.1 + x.1, x.2.1, x.2.2)
  let n := runs.length
  (List.zip (upFrom 1 n) runs).map fun x => .write x.2.1 x.2.2.1 x.2.2.2 (if x.1 = n then sync else none)

/-- A KIND 0x7 send (R162): through the drizzle port of a core of this device, or on virtual channel 0. -/
def State.sendLow (s : State) (key : Nat) (x : XferArgs) (rows : Rows) : State :=
  if x.d.ddev = s.deviceId then
    match s.coreOfDcore x.d.dcore with
    | none => s
    | some dst =>
      (drizzleOps (if x.d.flag then some x.d.sync else none) rows).foldl (fun s op =>
        s.drizzle dst op (if x.d.flag then some x.d.sync else none) none true) s
  else s.sendVc0s (flagLast x.d.flag (packetsOf (s.xferPacket key x 0 2) (s.lowData x.d.route) rows))

/-- Send the rows of an XFER where its kind lands them. -/
def State.sendRows (s : State) (key : Nat) (x : XferArgs) (rows : Rows) (decodeErr : Bool) : State :=
  let l := s.xferLanding key x rows decodeErr
  let c := s.core key
  let s := s.setCore key { c with sent := c.sent + 1 }
  match x.d.kind with
  | 1 => s.sendStore x l
  | 2 =>
    match s.coreOfDcore x.d.dcore with
    | some dst => s.sendLanding dst l
    | none => s
  | 3 => s.injectVc2 x.d.route x.p (packetsOf (s.xferPacket key x 2 0) 4064 rows)
  | 7 => s.sendLow key x rows
  | _ => s.sendLanding key l

/-! ## The checker's rule on flagged sends (R161, 0x85) -/

/-- The destination core of a scheduled send. -/
def Desc.pair (d : Desc) : Nat := d.ddev * 64 + d.dcore

/-- Whether a flagged send has a P earlier than that of an earlier send on its core pair. -/
def State.flagEarly (s : State) (key : Nat) (x : XferArgs) : Bool :=
  s.checking (key / 16) && x.d.flag && (x.d.kind == 2 || x.d.kind == 3) &&
  (match mapFind (s.core key).lastFlagP x.d.pair with
   | some p => decide (x.p < p)
   | none => false)

/-- Remember the latest P sent on a core pair. -/
def State.noteSend (s : State) (key : Nat) (x : XferArgs) : State :=
  if x.d.kind = 2 ∨ x.d.kind = 3 then
    let c := s.core key
    let p := match mapFind c.lastFlagP x.d.pair with
      | some q => if x.p < q then q else x.p
      | none => x.p
    s.setCore key { c with lastFlagP := mapIns c.lastFlagP x.d.pair p }
  else s

/-! ## XFER -/

/-- The wide and narrow accesses that read [a, a + n) (Table 05.3). -/
def accessesOf : Nat → Nat → Nat → List (Nat × Nat)
  | 0, _, _ => []
  | fuel + 1, a, n => if n = 0 then [] else (a, accessSize a n) :: accessesOf fuel (a + accessSize a n) (n - accessSize a n)

/-- The scratchpad reads of an XFER (R163): of the index entries by the load engine, of the rows by the store engine. Each is an access, and
the part of the destination that it feeds. -/
def XferArgs.reads (x : XferArgs) : List ((Nat × Nat) × (Nat × Nat)) :=
  let d := x.d
  let rows := upFrom 0 d.rows
  if d.kind = 5 ∨ d.kind = 6 then rows.map fun i => ((64 * d.sstride + 8 * i, 8), (x.da + 64 * d.dstride * i, d.len))
  else if storeKind d.kind then
    rows.flatMap fun i =>
      let a := x.sa + 64 * d.sstride * i
      (accessesOf d.len a d.len).map fun r => (r, (x.da + 64 * d.dstride * i + (r.1 - a), r.2))
  else []

/-- Schedule the reads of an XFER whose send has number `n`: the cycle of each is a free value (log 27). -/
def State.useReads (s : State) (key : Nat) (x : XferArgs) (n : Nat) : State :=
  let engine := if storeKind x.d.kind then 4 else 3
  let c := s.core key
  let now := (s.seq (key / 16)).now
  let s := s.setCore key { c with tags := c.tags + 1 }
  (List.zip (upFrom 0 x.reads.length) x.reads).foldl (fun s r =>
    s.useBank key (bankUse engine 0 c.tags (now + Config.engineCycle engine r.1) r.2.1.1 r.2.1.2
      (.send n x.p r.2.2.1 r.2.2.2))) s

/-- An XFER that executes on a core. -/
def State.xferRun (s : State) (key : Nat) (x : XferArgs) : State :=
  if !x.fits then s.halt (key / 16) 0x29 (some key)
  else if s.flagEarly key x then s.halt (key / 16) 0x85 (some key)
  else
    match s.xferRows key x with
    | .error r => s.halt (key / 16) r (some key)
    | .ok ((rows, bad), s) =>
      ((s.noteSend key x).sendRows key x (rows.map (poisonIf x.poison)) bad).useReads key x (s.core key).sent

/-- An XFER guarded off on a core (R181): void; a void KIND 0x7 send does nothing. A void flagged send still increments its counter, so it
keeps the order of R161. -/
def State.xferVoid (s : State) (key : Nat) (x : XferArgs) : State :=
  if x.d.kind = 7 then s
  else if s.flagEarly key x then s.halt (key / 16) 0x85 (some key)
  else (s.noteSend key x).sendRows key x [] false

/-- An XFER on one core. -/
def State.xferOn (s : State) (key : Nat) (ldSlot : Bool) (pg : BitVec 4) (desc : BitVec 12) (sadr dadr treg : BitVec 5)
    (timm : Word) : State :=
  let g := s.guard key pg
  let x := s.xferArgs key desc sadr dadr treg timm (g.getD false)
  if !(if ldSlot then loadKind x.d.kind else storeKind x.d.kind) then s.halt (key / 16) 0x0C (some key)
  else
    match g with
    | some _ => s.xferRun key x
    | none => s.xferVoid key x

/-- XFER. -/
def execXfer (i : Issue) (ldSlot : Bool) (desc : BitVec 12) (sadr dadr treg : BitVec 5) (timm : Word) (s : State) :
    Host.Outcome State Fault Refusal :=
  .next (s.withIssue i (if ldSlot then .ld else .st) fun s =>
    s.decoded i.cl.val (decodeReasons (pgValid i.pg) []) fun s => (s.coresOf i.cl.val).foldl (fun s key => s.xferOn key ldSlot i.pg desc sadr dadr treg timm) s)

end Sys2Proof.Machine
end

