-- ==== Sys2Proof/Machine/Replay.lean ====
section
/-! DEFINITION. Host copies as the scratchpad and HBM take them, and the copies of a replayed stream (R348, R434). -/

namespace Sys2Proof.Machine

/-- The target space of a copy (R348): bits [63:62] of ARG0, 0 HBM, 1 scratchpad. -/
def copySpace (arg0 : DWord) : Nat := bitsOf 63 62 arg0.toNat

/-- DCORE of a scratchpad copy. -/
def copyCore (arg0 : DWord) : Nat := bitsOf 61 56 arg0.toNat

/-- The device counter that a copy increments where bit 63 of ARG2 flags it: counter ARG2[12:0] of the target's cluster. Bits [12:11] of
a device counter name the cluster; for a scratchpad target they are the target's (DEDUCED, log 120). -/
def copyCounter (arg0 arg2 : DWord) : Option Nat :=
  if !arg2.msb then none
  else if copySpace arg0 = 0 then some (arg2.toNat % 8192)
  else some (copyCore arg0 / 16 * 2048 + arg2.toNat % 2048)

/-- Write a copy at once. -/
def State.writeCopy (s : State) (arg0 arg1 : DWord) (data : List Byte) : State :=
  let a := arg1.toNat
  if copySpace arg0 = 0 then s.hbmPatch a data
  else
    match s.coreOfDcore (copyCore arg0) with
    | some key => s.spadWrite key a data (List.replicate (granCount a data.length) false)
    | none => s

/-- A copy of a replayed stream: written so that its counter increments at the recorded plan tick. -/
def State.applyCopy (s : State) (e : RecEntry) : State :=
  match e.words with
  | [a0, a1, a2] =>
    let s := s.writeCopy a0 a1 e.data
    match copyCounter a0 a2 with
    | some ctr => s.countLanding ctr e.plan
    | none => s
  | _ => s

/-- Apply the stream's copies that are due by a plan tick: at most `fuel`. -/
def State.streamCopies (s : State) (t : Int) : Nat → State
  | 0 => s
  | fuel + 1 =>
    if s.recState ≠ 2 then s
    else
      match s.streamTake fun e => decide (e.kind = 4) && decide (e.plan ≤ t) with
      | (some e, s) => (s.applyCopy e).streamCopies t fuel
      | (none, s) => s

end Sys2Proof.Machine
end

