-- ==== Sys2Proof/Machine/Sync.lean ====
section
/-! DEFINITION. The sync slot and cues: counters, waits, reductions, triggers, shape nomination (R42 to R45, R182 to R187, R192,
R193). SIEVE is in Sieve.lean. -/

namespace Sys2Proof.Machine

/-! ## What falls due (R183) -/

/-- Release the landings of a core that are due by a tick: at most `fuel`. -/
def State.releaseCoreDue (s : State) (key : Nat) (t : Int) : Nat → State
  | 0 => s
  | fuel + 1 =>
    let c := s.core key
    match (c.landing ++ c.inflight).findIdx? fun l => !l.released && decide (l.p ≤ t) with
    | none => s
    | some i => (s.releaseCore key i).releaseCoreDue key t fuel

/-- Every transfer that is due by a tick lands. -/
def State.releaseDue (s : State) (t : Int) : State :=
  (s.cores.foldl (fun s c => s.releaseCoreDue c.1 t (c.2.landing.length + c.2.inflight.length)) s).storesBy t

/-- The ticks at which something falls due by now. -/
def State.dueTicks (s : State) (t : Int) : List Int :=
  let a := s.take.sched.map (·.due)
  let b := s.cores.flatMap fun c => (c.2.landing ++ c.2.inflight).filterMap fun l => if l.released then none else some l.p
  let c := s.hbmStacks.flatMap fun k => k.2.landing.map (·.p)
  sortBy id ((a ++ b ++ c).filter fun x => decide (x ≤ t)).eraseDups

/-- Apply everything that is due by a tick, tick by tick: scheduled changes, then landings. -/
def State.settleDue (s : State) (t : Int) : State :=
  let s := s.streamCopies t s.log.stream.length
  (s.dueTicks t).foldl (fun s x => (s.runSched fun e => decide (e.due ≤ x)).releaseDue x) s

/-! ## SIG and SETC -/

/-- Issue a sync operation that acts on the whole cluster: PG must be 0 (R182); `own` are the
reasons of other decode errors. -/
def State.runSync (s : State) (i : Issue) (own : List Nat) (f : State → State) : State :=
  s.withIssue i .sy fun s => s.decoded i.cl.val (decodeReasons (decide (i.pg = 0)) own) f

/-- Schedule a change of a counter. -/
def State.schedule (s : State) (e : Sched) : State := { s with take.sched := s.take.sched ++ [e] }

/-- How many cores of a cluster execute under PG. -/
def State.executing (s : State) (cl : Nat) (pg : BitVec 4) : Nat :=
  ((s.coresOf cl).filter fun key => (s.guard key pg).isSome).length

/-- SIG: AMT of 0 is decode error 0x03. -/
def execSig (i : Issue) (ctr : BitVec 13) (amt : BitVec 16) (timm : Word) (s : State) :
    Host.Outcome State Fault Refusal :=
  .next (s.withIssue i .sy fun s =>
    s.decoded i.cl.val (decodeReasons (pgValid i.pg && decide (amt ≠ 0)) []) fun s =>
      let n := s.executing i.cl.val i.pg
      s.schedule { ctr := ctr.toNat, set := false, val := BitVec.ofNat 32 (amt.toNat * n), due := s.cuePlus i.cl.val timm.toNat })

/-- SETC. -/
def execSetc (i : Issue) (ctr : BitVec 13) (val : Word) (timm : BitVec 18) (s : State) :
    Host.Outcome State Fault Refusal :=
  .next (s.runSync i [] fun s =>
    s.schedule { ctr := ctr.toNat, set := true, val := val, due := s.cuePlus i.cl.val timm.toNat })

/-- The scheduled changes of one kind on a counter that are due. -/
def State.dueOn (s : State) (ctr : Nat) (set : Bool) : List Sched :=
  sortBy Sched.rank (s.take.sched.filter fun e => decide (e.ctr = ctr) && e.set == set && decide (e.due ≤ s.planNow))

/-- SIG_DUE: the earliest increments due, after what was due on the counter until then. -/
def execSigDue (ctr : BitVec 13) (s : State) : Host.Outcome State Fault Refusal :=
  match s.dueOn ctr.toNat false with
  | [] => .next s
  | e :: _ => .next (s.runSched fun x => decide (x.ctr = ctr.toNat) && decide (x.due ≤ e.due))

/-- SETC_DUE: the earliest SETC due, after what was due on the counter before its tick. -/
def execSetcDue (ctr : BitVec 13) (s : State) : Host.Outcome State Fault Refusal :=
  match s.dueOn ctr.toNat true with
  | [] => .next s
  | e :: _ => .next (s.runSched fun x => decide (x.ctr = ctr.toNat) && decide (x.rank ≤ e.rank))

/-! ## WAIT (R184) -/

/-- A scalar that the sequencer reads: the cores' common value, or a free value where they differ (log 39). -/
def State.clusterScalar (s : State) (cl : Nat) (r : BitVec 5) : DWord :=
  let vals := (s.controlVals cl r).map (·.v)
  let v := vals.headD 0
  if vals.all fun x => decide (x = v) then v else Config.mixedScalar vals

/-- The reasons of decode errors of WAIT: TMO 0, another cluster's counter. -/
def waitDecode (cl : Nat) (ctr : BitVec 13) (tmo : BitVec 20) : List Nat :=
  (if tmo = 0 then [0x03] else []) ++ (if ctr.toNat / 2048 ≠ cl then [0x0B] else [])

/-- Whether a WAIT's counter has reached its target. -/
def State.waitMet (s : State) (w : WaitState) : Bool := decide (w.target.toNat ≤ s.counter w.ctr)

/-- WAIT. -/
def execWait (i : Issue) (ctr : BitVec 13) (stgt : BitVec 5) (tmo : BitVec 20) (tgt : BitVec 30) (s : State) :
    Host.Outcome State Fault Refusal :=
  .next (s.runSync i (waitDecode i.cl.val ctr tmo) fun s =>
    let v := s.clusterScalar i.cl.val stgt
    let w : WaitState :=
      { ctr := ctr.toNat, target := BitVec.ofNat 32 (v.toNat + tgt.toNat), tmo := tmo.toNat, since := s.planNow, met := none }
    let w := if s.waitMet w then { w with met := some s.planNow } else w
    s.onSeq i.cl.val fun q => { q with wait := some w, waited := q.waited ++ [ctr.toNat] })

/-- Local cycles that pass while no bundle issues, after those that have passed: how many is a free value. -/
def State.idleCycles (s : State) (cl : Nat) : State :=
  let (n, s) := s.draw
  s.onSeq cl fun q => { q with idle := q.now - (q.at_ + q.dur) + (Config.freeWord n).toNat }

/-- The issue window after a WAIT that an increment at tick `t` satisfied (R193). -/
def Seq.afterWait (q : Seq) (f : Nat) (t : Int) : Seq :=
  let b := q.issued - q.winBase
  { q with wait := none, winLo := max (t * f) (q.winLo + 8 * b), winHi := max (t * f) (q.winHi + 10 * b) + 3 * f,
           winBase := q.issued }

/-- Whether a WAIT has timed out by a tick: its counter has not reached the target in TMO ticks from its issue. -/
def WaitState.late (w : WaitState) (now : Int) : Bool :=
  decide (w.since + w.tmo ≤ now) && (match w.met with
    | some t => decide (w.since + w.tmo < t)
    | none => true)

/-- WAIT_SATISFIED: the counter reached its target within TMO ticks. -/
def execWaitSatisfied (cl : Fin 4) (s : State) : Host.Outcome State Fault Refusal :=
  let s := s.settleDue s.planNow
  match (s.seq cl.val).wait with
  | none => .next s
  | some w =>
    match w.met with
    | some t =>
      .next (if t ≤ w.since + w.tmo then (s.onSeq cl.val fun q => q.afterWait s.planf t).idleCycles cl.val else s)
    | none => .next s

/-- WAIT_TIMEOUT. -/
def execWaitTimeout (cl : Fin 4) (s : State) : Host.Outcome State Fault Refusal :=
  let s := s.settleDue s.planNow
  match (s.seq cl.val).wait with
  | none => .next s
  | some w =>
    if w.late s.planNow then
      .next ((s.onSeq cl.val fun q => { q with wait := none }).halt cl.val 0x42 none)
    else .next s

/-! ## Reductions (R185, R186) -/

/-- One fold step under ROP, with the flags of an F32 operation (Table 06.11). -/
def foldStep (rop : Nat) (a b : DWord) : DWord × BitVec 4 :=
  let x := a.toNat % 2 ^ 32
  let y := b.toNat % 2 ^ 32
  let w := fun (r : Nat × BitVec 4) => (BitVec.ofNat 64 r.1, r.2)
  match rop with
  | 0 => (a + b, 0)
  | 1 => (if b.slt a then b else a, 0)
  | 2 => (if a.slt b then b else a, 0)
  | 3 => (a &&& b, 0)
  | 4 => (a ||| b, 0)
  | 5 => w (addF32 .rne 0 x y)
  | 6 => w (minF32 x y)
  | _ => w (maxF32 x y)

/-- The first value of a fold: the F32 operations take bits [31:0]. -/
def foldFirst (rop : Nat) (a : DWord) : DWord := if 5 ≤ rop then BitVec.ofNat 64 (a.toNat % 2 ^ 32) else a

/-- Fold values in order: result and flags. -/
def foldVals (rop : Nat) : DWord × BitVec 4 → List SVal → DWord × BitVec 4
  | r, [] => r
  | r, v :: vs =>
    let x := foldStep rop r.1 v.v
    foldVals rop (x.1, r.2 ||| x.2) vs

/-- The fold of a list of contributions: value with poison, and flags. -/
def foldAll (rop : Nat) : List SVal → SVal × BitVec 4
  | [] => (⟨0, false⟩, 0)
  | v :: vs =>
    let r := foldVals rop (foldFirst rop v.v, 0) vs
    (⟨r.1, (v :: vs).any (·.p)⟩, r.2)

/-- Give every core of a cluster the same effect. -/
def State.onAll (s : State) (cl : Nat) (e : Effect) : State :=
  (s.coresOf cl).foldl (fun s key => s.applyEffect key 0x7 0 e) s

/-- REDC: 16 cycles; its flags are set with SD. -/
def execRedc (i : Issue) (sd sa : BitVec 5) (rop : BitVec 3) (s : State) : Host.Outcome State Fault Refusal :=
  .next (s.runSync i (writesScalar sd) fun s =>
    let r := foldAll rop.toNat (s.controlVals i.cl.val sa)
    s.onAll i.cl.val
      { writes := [(16, .sreg sd.toNat r.1), (16, .flags r.2)], flags := 0, halts := [], access := [] })

/-- A reduction group of the active reel. -/
def State.group (s : State) (g : Nat) : Option RedGroup :=
  s.take.active.bind fun r => (r.groups.find? fun p => decide (p.1 = g)).map (·.2)

/-- The rank of a cluster of this device in a group. -/
def State.rankIn (s : State) (g : RedGroup) (cl : Nat) : Option Nat :=
  g.members.findIdx? fun m => decide (m = (s.deviceId, cl))

/-- Add a contribution to a cluster's reduction at P. -/
def addPart (rs : List RedxState) (grp : Nat) (p : Int) (rank : Nat) (v : SVal) : List RedxState :=
  if rs.any fun r => decide (r.grp = grp) && decide (r.p = p) then
    rs.map fun r => if r.grp = grp ∧ r.p = p then { r with parts := r.parts ++ [(rank, v)] } else r
  else rs ++ [{ grp := grp, sd := 0, p := p, issued := false, flags := 0, parts := [(rank, v)] }]

/-- Deliver a contribution to a cluster of this device; one that arrives after P is too late to count. -/
def State.deliverPart (s : State) (cl grp : Nat) (p : Int) (rank : Nat) (v : SVal) : State :=
  if p < s.planNow then s else s.onSeq cl fun q => { q with redx := addPart q.redx grp p rank v }

/-- Send a contribution to a member on another device: a packet of kind 0x1 on VC2. The spec gives neither the label nor the
layout of its data: the label and the bytes after the value are free values. -/
def State.sendPart (s : State) (cl dev dcl : Nat) (p : Int) (v : SVal) : State :=
  let (n, s) := s.draw
  let (fill, s) := s.freeBytes 24
  let pk : Packet :=
    { vc := 2, pkind := 1, nflit := 0, flag := false, sync := 0, ddev := dev, sdev := s.deviceId, dcore := 16 * dcl,
      score := 16 * cl, route := (Config.freeWord n).toNat % 255, remt := 0, pland := unsignedOf 32 p, daddr := 0,
      take := s.takeTag, data := toBytes 8 v.v.toNat ++ fill, poison := [v.p, v.p, v.p, v.p], hdrPoison := false }
  s.injectVc2 pk.route p [pk]

/-- Contribute to every member of a group. -/
def State.contribute (s : State) (cl grp : Nat) (g : RedGroup) (p : Int) (rank : Nat) (v : SVal) : State :=
  g.members.foldl (fun s m =>
    if m.1 = s.deviceId then s.deliverPart m.2 grp p rank v else s.sendPart cl m.1 m.2 p v) s

/-- Note that a cluster's own REDX has issued, with the flags of its fold. -/
def issuePart (rs : List RedxState) (grp : Nat) (p : Int) (sd : Nat) (fl : BitVec 4) : List RedxState :=
  if rs.any fun r => decide (r.grp = grp) && decide (r.p = p) then
    rs.map fun r => if r.grp = grp ∧ r.p = p then { r with sd := sd, issued := true, flags := fl } else r
  else rs ++ [{ grp := grp, sd := sd, p := p, issued := true, flags := fl, parts := [] }]

/-- The effect of REDX: fold, contribute, and await the group's result at P, with which the fold's flags are set. -/
def State.redx (s : State) (cl : Nat) (sd sa : BitVec 5) (rop grp : Nat) (p : Int) : State :=
  match s.group grp with
  | none => s.halt cl 0x2B none
  | some g =>
    match s.rankIn g cl with
    | none => s.halt cl 0x2B none
    | some rank =>
      let r := foldAll rop (s.controlVals cl sa)
      let s := s.contribute cl grp g p rank r.1
      s.onSeq cl fun q => { q with redx := issuePart q.redx grp p sd.toNat r.2 }

/-- REDX. -/
def execRedx (i : Issue) (sd sa : BitVec 5) (rop : BitVec 3) (grp : BitVec 8) (timm : Word) (s : State) :
    Host.Outcome State Fault Refusal :=
  .next (s.runSync i (writesScalar sd) fun s =>
    s.redx i.cl.val sd sa rop.toNat grp.toNat (s.cuePlus i.cl.val timm.toNat))

/-- The contributions of a reduction in ascending rank, if all are present. -/
def partsInOrder (parts : List (Nat × SVal)) : Nat → Nat → Option (List SVal)
  | _, 0 => some []
  | rank, n + 1 =>
    match parts.find? fun p => decide (p.1 = rank) with
    | none => none
    | some p => (partsInOrder parts (rank + 1) n).map (p.2 :: ·)

/-- Write a reduction's result on every core at P, with its flags. -/
def State.redxWrite (s : State) (cl sd : Nat) (r : SVal × BitVec 4) : State :=
  (s.coresOf cl).foldl (fun s key => (s.perform key (.sreg sd r.1)).setFlags key r.2) s

/-- P of a cluster's reduction: the group's fold, or reason 0x47 where a contribution is missing. -/
def State.redxDue (s : State) (cl : Nat) (r : RedxState) : State :=
  let s := s.onSeq cl fun q => { q with redx := q.redx.filter fun x => !(x == r) }
  match s.group r.grp with
  | none => s
  | some g =>
    match partsInOrder r.parts 0 g.members.length with
    | none => s.halt cl 0x47 none
    | some vs =>
      let x := foldAll g.rop vs
      s.redxWrite cl r.sd (x.1, x.2 ||| r.flags)

/-- REDX_RESULT. -/
def execRedxResult (cl : Fin 4) (s : State) : Host.Outcome State Fault Refusal :=
  match (s.seq cl.val).redx.find? fun r => r.issued && decide (r.p ≤ s.planNow) with
  | none => .next s
  | some r => .next (s.redxDue cl.val r)

/-! ## Triggers and shapes -/

/-- The visible latch of a trigger input as TRIG returns it (R187). -/
def State.trigWord (s : State) (inp : Nat) : DWord :=
  match (s.trig inp).vis with
  | none => 0
  | some l =>
    BitVec.ofNat 64 (2 ^ 63 * b2n l.edge + 2 ^ 62 * b2n l.ovf + 2 ^ 61 * b2n l.holdover + unsignedOf 48 l.cap)

/-- TRIG: the spec states no latency for it, so the latency is a free value (log 42). -/
def execTrig (i : Issue) (sd : BitVec 5) (inp : Fin 4) (clr : BitVec 1) (s : State) : Host.Outcome State Fault Refusal :=
  .next (s.runSync i (writesScalar sd) fun s =>
    let v := s.trigWord inp.val
    let s := s.onAll i.cl.val (.write (Config.trigLatency + 1) (.sreg sd.toNat ⟨v, false⟩))
    if clr = 1 then s.setTrig inp.val { s.trig inp.val with clear := some ((s.planNow / 4096 + 1) * 4096) } else s)

/-- The shape count of the active reel. -/
def State.nshape (s : State) : Nat :=
  match s.take.active with
  | some r => r.nshape
  | none => 0

/-- A nomination by W0 of the lead device under PLAN for the cut that its cut message will name: one at or after that message's tick
is for the following one (R192). -/
def Take.nominated (t : Take) (n : Nat) (late : Bool) : Take := if late then { t with sselLate := some n } else { t with ssel := some n }

/-- Whether a nomination comes at or after the tick at which the lead sends the cut message for the next cut, message sent or not. -/
def State.afterMessage (s : State) : Bool :=
  !s.take.msgSent && decide (s.take.lastCut + s.stepTicks 0 - 4096 * s.fget Reg.SV_TIMING_READY ≤ s.planNow)

/-- The effect of SSEL on a uniform, unpoisoned index. -/
def State.nominate (s : State) (cl n : Nat) : State :=
  if s.nshape ≤ n then s.halt cl 0x28 none
  else
    let s := (s.fset (Reg.CL_SEQ_SSEL_INDEX cl) n).fsetb (Reg.CL_SEQ_SSEL_VALID cl) true
    if cl = 0 then { s with take := s.take.nominated n s.afterMessage } else s

/-- SSEL. -/
def execSsel (i : Issue) (sa : BitVec 5) (s : State) : Host.Outcome State Fault Refusal :=
  .next (s.runSync i [] fun s =>
    let vals := s.controlVals i.cl.val sa
    let (s, ok) := s.checkUniform i.cl.val vals id
    if ok then s.nominate i.cl.val (vals.headD ⟨0, false⟩).v.toNat else s)

/-! ## Cues (R42, R44, R45) -/

/-- The index of the cue that a cluster awaits in the step. -/
def Seq.nextCue (q : Seq) : Nat := if q.running then q.cueIdx + 1 else 0

/-- Whether every awaited counter has reached its target. -/
def State.awaitsMet (s : State) (e : CueEntry) : Bool := e.awaits.all fun a => decide (a.2 ≤ s.counter a.1)

/-- The sequencer at the launch of a segment. -/
def Seq.launch (q : Seq) (idx addr : Nat) (t : Int) (f : Nat) : Seq :=
  { q with running := true, fresh := true, ended := false, cueIdx := idx, cueTick := t, pc := addr, issued := 0, used := 0,
           skip := 0, jump := none, stack := [], wait := none, winLo := t * f, winHi := (t + 3) * f, winBase := 0, stretched := 0,
           lull := false }

/-- Whether a segment's latest finish leaves less than MARGIN ticks before its next cue (Table 06.15, 0x86). -/
def State.tight (s : State) (cl : Nat) (t : Int) : Bool :=
  let f := s.planf
  s.checking cl &&
  decide (s.nextCueTick cl * f < (t + 3 + s.fget (Reg.CL_SEQ_CHK_MARGIN cl)) * f + 10 * s.segmentBundles cl)

/-- Launch a segment at its cue; regions that are stretching stretch its cycles too. -/
def State.launch (s : State) (cl idx : Nat) (e : CueEntry) (t : Int) : State :=
  let s := (s.idleCycles cl).onSeq cl fun q => q.launch idx e.addr t s.planf
  let s := s.noteStretch cl ((s.regionsOf cl).filter fun r => s.stretching r)
  if s.tight cl t then s.haltAtAddr cl 0x86 none e.addr else s

/-- What happens before a cue's plan tick: what is due applies, and bundles that hold nothing to issue pass. -/
def State.beforeCue (s : State) (cl : Nat) (t : Int) : State := (s.settleDue t).runTo cl t

/-- A cue's plan tick arrives: awaited counters are compared, a segment that still executes is an overrun, and the segment
launches. -/
def State.cue (s : State) (cl idx : Nat) (e : CueEntry) (t : Int) : State :=
  let s := s.beforeCue cl t
  if s.halted cl then s
  else
    let missed := !s.awaitsMet e
    let busy := (s.seq cl).executing
    let s := if missed then s.haltAtAddr cl 0x40 none e.addr else s
    let s := if busy then s.haltAtAddr cl 0x41 none e.addr else s
    if missed || busy then s else s.launch cl idx e t

/-- Whether a gate at or before a plan tick still waits for its hold to take effect. -/
def State.gateWaits (s : State) (t : Int) : Bool := s.time.gates.any fun g => decide (4096 * g.gate ≤ t)

/-- CUE: no cue launches but in RUNNING with plan time running (R42), nor before a hold that takes effect at its tick (R63). -/
def execCue (cl : Fin 4) (s : State) : Host.Outcome State Fault Refusal :=
  let idx := (s.seq cl.val).nextCue
  match s.cueEntry cl.val idx with
  | none => .next s
  | some e =>
    let t := s.take.lastCut + e.tick
    if (s.dev = .running ∨ s.dev = .draining) ∧ s.planRuns = true ∧ t ≤ s.planNow ∧ s.gateWaits t = false then .next (s.cue cl.val idx e t) else .next s

end Sys2Proof.Machine
end

