-- ==== Sys2Proof/Machine/Time.lean ====
section
/-! DEFINITION. Gates, holds, replay stops and step replay; triggers; the time signals (R33, R61 to R75, R369 to R380, R462). -/

namespace Sys2Proof.Machine

/-! ## Alternates (R332, R368 to R371) -/

/-- The alternates of the active reel. -/
def State.alternates (s : State) : List Alternate :=
  match s.take.active with
  | some r => r.alternates
  | none => []

/-- Whether an alternate is the one of a link of this device: it is named by the link's end with the lower device ID. -/
def State.names (s : State) (a : Alternate) (l : Nat) : Bool :=
  (decide (a.dev = s.deviceId) && decide (a.link = l)) ||
  (decide (a.dev = s.fget (Reg.LK_PARTNER_ID_DEVICE l)) && decide (a.link = s.fget (Reg.LK_PARTNER_ID_LINK l)))

/-- The index of a link's alternate. -/
def State.altOf (s : State) (l : Nat) : Option Nat := s.alternates.findIdx? fun a => s.names a l

/-- The table key and index of a replacement, as kept in `altLive`. -/
def AltEntry.place (e : AltEntry) : Nat × Nat := (labelKey e.table 0, e.index)

/-- Replace label entries. -/
def State.putLabels (s : State) (es : List AltEntry) : State :=
  es.foldl (fun s e => { s with take.labels := mapPut (fun _ => (0 : DWord)) s.take.labels (labelKey e.table e.index) e.entry }) s

/-- Install an alternate: once; one that would replace an entry already replaced is not installed and raises source 0x26. -/
def State.installAlt (s : State) (i : Nat) : State :=
  match s.alternates[i]? with
  | none => s
  | some a =>
    if s.take.altDone.contains i then s
    else
      let mine := a.entries.filter fun e => decide (e.device = s.deviceId)
      if mine.any fun e => s.take.altLive.contains e.place then s.raise 0x26 2 a.link (Config.faultDetail 0x26 a.link).toNat
      else
        let live := s.take.altLive ++ mine.map (·.place)
        let s := { s.putLabels mine with take.altLive := live, take.altDone := s.take.altDone ++ [i] }
        let es := (mine.filter (·.table.isNone)).map (·.index)
        (upFrom 0 64).foldl (fun s l => s.reroute es l) (s.fsetb Reg.FC_STATUS_ALTINST true)

/-- Install the alternates whose hold was pending. -/
def State.installPending (s : State) : State :=
  let todo := s.take.altPending
  todo.foldl (fun s i => s.installAlt i) { s with take.altPending := [] }

/-! ## Holds (R61 to R65) -/

/-- The earliest pending gate that plan time has reached, while plan time runs. Before the first cue a gate has a negative index
(R54, R61). -/
def State.gateDue (s : State) : Option PendGate :=
  if (s.dev = .armed ∨ s.dev = .running ∨ s.dev = .draining) ∧ s.planRuns = true then
    match s.time.gates with
    | g :: _ => if g.gate * 4096 ≤ s.planNow then some g else none
    | [] => none
  else none

/-- Whether a pending gate holds an open-ended request (R372). -/
def PendGate.open_ (g : PendGate) : Bool := bitOf g.reasons.toNat 6

/-- Enter HOLDING from RUNNING; a device that is ARMED or DRAINING holds in that state (Table 12.7). -/
def State.toHolding (s : State) : State := if s.dev = .running then s.setDev .holding else s

/-- Return to RUNNING from HOLDING. -/
def State.toRunning (s : State) : State := if s.dev = .holding then s.setDev .running else s

/-- The index of a hold's length in an interval summary (R430). -/
def holdBin (frames : Nat) : Nat := if frames = 0 then 8 else min 7 (Nat.log2 frames)

/-- Count a hold in the open interval summary. -/
def State.countHold (s : State) (frames : Nat) : State :=
  if s.dailies then
    let l := s.dieLog 0
    let b := holdBin frames
    let holds := mapPut (fun _ => 0) l.cur.holds b (satAdd 32 (mapGet (fun _ => 0) l.cur.holds b) 1)
    s.setDieLog 0 { l with cur := { l.cur with holds := holds } }
  else s

/-- Note the reasons of a hold in TB_HOLD_REASON. -/
def State.noteReasons (s : State) (reasons : BitVec 7) : State :=
  s.fset Reg.TB_HOLD_REASON_REASONS (s.fget Reg.TB_HOLD_REASON_REASONS ||| reasons.toNat / 2)

/-- Step wall time by −e, the device's error to its parent, and clear UNALIGNED (R69, R70). -/
def State.stepWall (s : State) (e : Int) : State :=
  let t := { s.time with wall := s.time.wall - BitVec.ofInt 64 e, error := s.time.error - e,
                         parentErr := s.time.parentErr - e, slewEnd := 0,
                         ptp := { s.time.ptp with pair := none, last := none, ask := none } }
  { s with time := t }.fsetb Reg.TB_STATUS_UNALIGNED false

/-- The realignment step of an UNALIGNED device, by the error last measured. -/
def State.realign (s : State) : State := if s.flag Reg.TB_STATUS_UNALIGNED then s.stepWall s.time.error else s

/-- Handling of the queued F2 records ends at a gate. -/
def State.gatePassed (s : State) : State :=
  let q := s.faults.queue.filter fun r => decide (r.cls ≠ 2)
  let r := if s.faults.rstate = .pend ∧ s.time.gates.isEmpty = true then RState.run else s.faults.rstate
  { s with faults.queue := q, faults.rstate := r }

/-- Fade out the arrays that are warm and idle (R129). -/
def State.fadeAll (s : State) : State :=
  s.mappedCores.foldl (fun s key =>
    let now := (s.seq (key / 16)).now
    s.setCore key (((s.core key).mmaDone now).fadeIdle now)) s

/-- The wall tick of a plan tick under the plan offset. -/
def State.wallOf (s : State) (t : Int) : Nat := (s.time.offset + BitVec.ofInt 64 t).toNat

/-- A hold takes effect at a gate (R61, R66). -/
def State.takeHold (s : State) (g : PendGate) : State :=
  let tick := g.gate * 4096
  let h : HoldState := { tick := tick, wallAt := s.wallOf tick, frames := g.frames, pause := false }
  let t := { s.time with frozen := some tick, hold := some h, gates := s.time.gates.drop 1, held := s.time.held + g.frames }
  let s := { s with time := t }.toHolding
  let s := (s.fset Reg.TB_HOLD_STAT_LASTLEN g.frames).fset Reg.TB_HOLD_STAT_LASTGATE (gateLow g.gate)
  let s := (s.bump Reg.TB_HOLD_COUNT_COUNT).bumpBy Reg.TB_HELD_FRAMES_FRAMES g.frames
  let s := (s.noteReasons g.reasons).logEvent 0x80 0 0 0 (g.frames * 2 ^ 24 + g.reasons.toNat * 2 ^ 16 + gateLow g.gate % 2 ^ 16)
  let s := (s.countHold g.frames).extreme 0 0 1 s.time.held
  let s := if bitOf g.reasons.toNat 5 then s.installPending else s
  let s := if bitOf g.reasons.toNat 4 then s.realign else s
  s.gatePassed.fadeAll

/-! ## Replay stops (R66, R372, R373) -/

/-- The links of the take end being in use. -/
def State.releaseLinks (s : State) : State := (upFrom 0 64).foldl (fun s l => s.fsetb (Reg.LK_STATUS_INUSE l) false) s

/-- The take is over on this device: LOADED, nothing pending. Waiting orders of the take complete CANCELLED. -/
def State.leaveTake (s : State) : State :=
  let s := s.finishOp 0x06 (.plain .cancelled 0)
  let s := (upFrom 0 4).foldl (fun s cl => s.settleAll cl) s
  let s := { s with cores := mapAll (fun _ => Core.initial) (·.takeOver) s.cores }
  let s := s.releaseLinks.dropVc2.emptyLandings.setDev .loaded
  let t := { s.time with frozen := none, gates := [], hold := none, stop := none, held := 0 }
  let k := { s.take with sched := [], cutMsg := none, msgSent := false, drainAt := none, exchange := none, joined := false,
                         firstDone := false, pauseTo := none, altPending := [] }
  let f := { s.faults with queue := [], rstate := .run }
  let s : State := { s with time := t, take := k, faults := f, seqs := [] }
  if 2 ≤ s.recState then { s with log.stream := [] }.fset Reg.CN_REC_STATE 0 else s

/-- A joined device whose first step faults before its first cut returns to LOADED and reports its ARM as FAILED with DETAIL
0x30; an admission returns to the state it had (R357, R391). -/
def State.joinFailed (s : State) : State :=
  let c := s.completion 0x04 s.take.armSeq s.take.armTag (.plain .failed 0x30)
  let s := s.leaveTake.post c
  if s.faults.admission = .joined then
    { s with faults.admission := if s.faults.admitPartial then .incomplete else .complete }
  else s

/-- The replay stop at a gate. -/
def State.stopAt (s : State) (gate : Int) : State :=
  let tick := gate * 4096
  let wg := s.wallOf tick
  let wr := (ceilMul (wg + 512 * s.fget Reg.FC_CFG_RPAUSE) 65536).toNat
  let st : StopState := { tick := tick, wallAt := wg, order := none, sent := false, wr := wr }
  let t := { s.time with frozen := some tick, gates := [], hold := none, stop := some st }
  let s := { s with time := t }.toHolding
  let s := s.dropVc2.emptyLandings.installPending
  let s := ((s.bump Reg.FC_STATUS_REPLAYS).fset Reg.FC_RESUME_VALUE wr).noteReasons 0x40
  let s := ({ s with faults.rstate := .stop }.logEvent 0x81 0 0 0 (gateLow gate % 2 ^ 16)).countHold 0
  if s.take.joined && !s.take.firstDone then s.joinFailed else s

/-- GATE. A gate with an open-ended request belongs to REPLAY_STOP; a hold that would exceed STEPMAX raises source 0x23 and the
gate is a replay stop (R65, R372). -/
def execGate (s : State) : Host.Outcome State Fault Refusal :=
  match s.gateDue with
  | none => .next s
  | some g =>
    if g.open_ then .next s
    else if s.fget Reg.TB_HOLD_LIMIT_STEPMAX < s.time.held + g.frames then
      .next ((s.raise 0x23 0 0 (Config.faultDetail 0x23 (gateLow g.gate)).toNat).stopAt g.gate)
    else .next (s.takeHold g)

/-- REPLAY_STOP. -/
def execReplayStop (s : State) : Host.Outcome State Fault Refusal :=
  match s.gateDue with
  | none => .next s
  | some g => if g.open_ then .next (s.stopAt g.gate) else .next s

/-- The end of a hold: the plan offset grows, plan time runs on (R61). -/
def State.endHold (s : State) (h : HoldState) : State :=
  let t := { s.time with offset := s.time.offset + BitVec.ofNat 64 (512 * h.frames), frozen := none, hold := none }
  let s := { s with time := t, cores := mapAll (fun _ => Core.initial) (·.fadeBack) s.cores }
  s.toRunning.brakeRequest

/-- HOLD_END. -/
def execHoldEnd (s : State) : Host.Outcome State Fault Refusal :=
  match s.time.hold with
  | none => .next s
  | some h => if h.pause = false ∧ h.wallAt + 512 * h.frames ≤ s.wallNow then .next (s.endHold h) else .next s

/-- One array of a core that a hold faded out is warm again. -/
def Core.fadeIn (c : Core) (j : Nat) : Core :=
  let m := c.holdFaded &&& BitVec.ofNat 4 (2 ^ j)
  if m = 0 then c else { c with warm := c.warm ||| m, holdFaded := c.holdFaded &&& ~~~m, fadeUntil := none }

/-- Ticks that a ramp of 32 cycles takes at plan frequency. -/
def State.rampTicks (s : State) : Nat := ceilDiv 320 s.planf

/-- FADE_IN: towards the end of a hold, so that the ramp ends as plan time resumes (R129). -/
def execFadeIn (c : CoreId) (array : Fin 4) (s : State) : Host.Outcome State Fault Refusal :=
  match s.time.hold with
  | some h =>
    .next (if h.wallAt + 512 * h.frames ≤ s.wallNow + s.rampTicks then s.setCore c.key ((s.core c.key).fadeIn array.val) else s)
  | none => .next s

/-! ## The start of a step (R116, R151, R152, R183, R192) -/

/-- A sequencer at the start of a step: no segment, its local time going on. -/
def Seq.stepStart (q : Seq) : Seq :=
  { q with running := false, fresh := false, ended := false, cueIdx := 0, skip := 0, jump := none, stack := [], wait := none, waited := [] }

/-- Accumulator written bits are clear, and the content of scratch is no longer what a scrub left. -/
def Core.clearWritten (c : Core) : Core := { c with scrubbed := false, acc := mapAll (fun _ => AccEntry.initial) (fun a => { a with written := false }) c.acc }

/-- The counters take the initial values of the active reel. -/
def State.initCounters (s : State) : State :=
  let s := (upFrom 0 4).foldl (fun s c => { s with regs := mapClear s.regs (Reg.CL_SYNC c 0) 8192 }) s
  match s.take.active with
  | some r => r.counters.foldl (fun s e => s.setCounter e.1 e.2.toNat s.take.lastCut) s
  | none => s

/-- A step shape starts at a plan tick: counters, written bits, scratch and sequencers as at any step start. -/
def State.beginStep (s : State) (shape : Nat) (tick : Int) : State :=
  let s := { s with cores := mapAll (fun _ => Core.initial) (·.clearWritten) s.cores,
                    seqs := mapAll (fun _ => Seq.initial) (·.stepStart) s.seqs,
                    written := [], epoch := s.epoch + 1 }
  ({ s with take.shape := shape, take.lastCut := tick, take.cutMsg := none, take.msgSent := false }).initCounters

/-! ## Trigger latches (R74, R75, R187, R379) -/

/-- The latch of a trigger input. -/
def State.latch (s : State) (n : Nat) : Option Latch :=
  if bitOf (s.fget Reg.TB_TRIG_STAT_EDGE) n then
    some { edge := true, ovf := bitOf (s.fget Reg.TB_TRIG_STAT_OVF) n, holdover := bitOf (s.fget Reg.TB_TRIG_STAT_HOLDOVER) n,
           cap := (s.trig n).cap, ts := s.fget (Reg.TB_TRIG_TS_TS n) }
  else none

/-- Write bit `n` of a field. -/
def State.fbit (s : State) (f : Fld) (n : Nat) (b : Bool) : State :=
  let v := s.fget f
  s.fset f (if b then v ||| 2 ^ n else v - (if bitOf v n then 2 ^ n else 0))

/-- Store the latch of a trigger input. A cleared latch keeps its timestamp, and its HOLDOVER bit goes with EDGE (DESIGN CHOICE, log
106: R74 does not say what becomes of it). -/
def State.setLatch (s : State) (n : Nat) (l : Option Latch) : State :=
  match l with
  | none => ((s.fbit Reg.TB_TRIG_STAT_EDGE n false).fbit Reg.TB_TRIG_STAT_OVF n false).fbit Reg.TB_TRIG_STAT_HOLDOVER n false
  | some l =>
    let s := (s.fbit Reg.TB_TRIG_STAT_EDGE n l.edge).fbit Reg.TB_TRIG_STAT_OVF n l.ovf
    let s := (s.fbit Reg.TB_TRIG_STAT_HOLDOVER n l.holdover).fset (Reg.TB_TRIG_TS_TS n) l.ts
    s.setTrig n { s.trig n with cap := l.cap }

/-- Clear EDGE of a latch by its register, as the plan sees it too; OVF has a bit of its own (Table 02.23). -/
def State.clearEdge (s : State) (n : Nat) : State :=
  ((s.fbit Reg.TB_TRIG_STAT_EDGE n false).fbit Reg.TB_TRIG_STAT_HOLDOVER n false).setTrig n { s.trig n with vis := none, clear := none }

/-- Clear a latch, EDGE and OVF, as the register and as the plan sees it. -/
def State.clearTrig (s : State) (n : Nat) : State :=
  (s.setLatch n none).setTrig n { s.trig n with vis := none, clear := none }

/-- Apply a clear that TRIG asked for, once its gate has come. -/
def State.trigClearDue (s : State) (n : Nat) : State :=
  match (s.trig n).clear with
  | some t => if t ≤ s.planNow then s.clearTrig n else s
  | none => s

/-- Note both latches of every input at a cut. -/
def State.snapTriggers (s : State) : State :=
  (upFrom 0 4).foldl (fun s n => s.setTrig n { s.trig n with atCut := s.latch n, atCutVis := (s.trig n).vis }) s

/-- The latch that a replayed step starts with: as at the cut; an edge captured since is kept, captured at the cut's tick. -/
def replayLatch (old new : Option Latch) (cut : Int) : Option Latch :=
  match old, new with
  | none, none => none
  | none, some n => some { n with cap := cut }
  | some o, none => some o
  | some o, some n => some (if o.ts = n.ts then { o with ovf := o.ovf || n.ovf } else { o with ovf := true })

/-- Restore a trigger input. -/
def State.restoreTrig (s : State) (cut : Int) (n : Nat) : State :=
  let t := s.trig n
  (s.setLatch n (replayLatch t.atCut (s.latch n) cut)).setTrig n
    { t with cap := match replayLatch t.atCut (s.latch n) cut with
               | some l => l.cap
               | none => t.cap,
             vis := t.atCutVis, clear := none }

/-- Whether an edge qualifies: enabled, selected, long enough. -/
def State.edgeQualifies (s : State) (n : Nat) (rising : Bool) (width : Nat) : Bool :=
  let cfg := s.fget Reg.TB_TRIG_CFG_IN / 2 ^ (4 * n)
  bitOf cfg 3 && bitOf cfg (if rising then 1 else 2) && decide (s.fget Reg.TB_TRIG_CFG_DEGLITCH ≤ width)

/-- TRIGGER_EDGE. -/
def execTriggerEdge (inp : Fin 4) (rising : Bool) (width : Nat) (s : State) : Host.Outcome State Fault Refusal :=
  if s.dev ≠ .off ∧ s.edgeQualifies inp.val rising width = true then
    let s := s.trigClearDue inp.val
    match s.latch inp.val with
    | some _ => .next (s.fbit Reg.TB_TRIG_STAT_OVF inp.val true)
    | none =>
      .next (s.setLatch inp.val
        (some { edge := true, ovf := bitOf (s.fget Reg.TB_TRIG_STAT_OVF) inp.val, holdover := s.holdover, cap := s.planNow, ts := s.wallNow }))
  else .next s

/-- Make a captured edge visible to the plan, recording it as an external input. -/
def State.showTrig (s : State) (n : Nat) (l : Latch) : State :=
  let s := s.setTrig n { s.trig n with vis := some l }
  s.recordInput 3 (ceilMul (l.cap + 4096) 4096) [BitVec.ofNat 64 n, BitVec.ofInt 64 l.cap, BitVec.ofNat 64 (b2n l.holdover)] [] []

/-- The latch of a recorded edge; OVF is not recorded, so it is a free value. -/
def streamLatch (e : RecEntry) (ovf : Bool) : Latch :=
  { edge := true, ovf := ovf, holdover := e.words.getD 2 0 = 1, cap := (e.words.getD 1 0).toInt, ts := 0 }

/-- A replayed edge becomes visible at its recorded gate. -/
def State.streamTrig (s : State) (n : Nat) : State :=
  match s.streamTake fun e => decide (e.kind = 3) && decide ((e.words.getD 0 0).toNat = n) && decide (e.plan ≤ s.planNow) with
  | (none, s) => s
  | (some e, s) =>
    let (k, s) := s.draw
    s.setTrig n { s.trig n with vis := some (streamLatch e ((Config.freeWord k).getLsbD 0)) }

/-- An edge whose gate has come becomes visible, if the latch is not visible yet. -/
def State.trigVisible (s : State) (n : Nat) : State :=
  match s.latch n, (s.trig n).vis with
  | some l, none => if ceilMul (l.cap + 4096) 4096 ≤ s.planNow then s.showTrig n l else s
  | _, _ => s

/-- TRIGGER_VISIBLE: a clear asked for applies at its gate; then an edge whose gate has come becomes visible. While a stream is
replayed, only the stream's edges do. -/
def execTriggerVisible (inp : Fin 4) (s : State) : Host.Outcome State Fault Refusal :=
  if s.dev.inTake then
    let s := s.trigClearDue inp.val
    .next (if 2 ≤ s.recState then s.streamTrig inp.val else s.trigVisible inp.val)
  else .next s

/-! ## Resumption and step replay (R374, R375, R377 to R379) -/

/-- A core as step replay starts it: nothing in flight, queued or running. -/
def Core.replayed (c : Core) : Core :=
  { c.fadeBack.takeOver with pend := [], landing := [], inflight := [] }

/-- A sequencer as step replay starts it. -/
def Seq.replayed (q : Seq) : Seq := { Seq.initial with now := q.now, nowAt := q.nowAt, at_ := q.at_, dur := q.dur }

/-- Clear CL_SEQ_HALT, its address and its tick. -/
def State.clearHalt (s : State) (cl : Nat) : State :=
  { s with regs := mapClear s.regs (Reg.CL_SEQ_HALT cl) 16 }

/-- Restore the state of the last committed cut: what R377 lists, and nothing else. Pending serving results are discarded. -/
def State.restoreStep (s : State) : State :=
  let cut := s.take.lastCut
  let s := { s with cores := mapAll (fun _ => Core.initial) (·.replayed) s.cores,
                    seqs := mapAll (fun _ => Seq.initial) (·.replayed) s.seqs,
                    take.sched := [], time.held := 0, serve.pend := none, serve.prepared := none }
  let s := (upFrom 0 4).foldl (fun s c => s.clearHalt c) s
  let s := (s.beginStep s.take.shape cut).fset Reg.SV_STATUS_PHASE 0
  ((upFrom 0 4).foldl (fun s n => s.restoreTrig cut n) s).unrecord

/-- Plan time resumes at the last cut's plan tick at wall tick `wr`; the queued F2 and F3 records have been handled. -/
def State.resume (s : State) (wr : Nat) : State :=
  let off := BitVec.ofNat 64 wr - BitVec.ofInt 64 s.take.lastCut
  let t := { s.time with offset := off, frozen := none, stop := none, hold := none, gates := [] }
  let r := s.restoreStep
  let s : State := { r with time := { t with held := 0, trigs := r.time.trigs } }
  let s := if s.dev = .draining then s else s.setDev .running
  let f := { s.faults with queue := [], rstate := .run }
  (({ s with faults := f }.fset Reg.FC_RESUME_VALUE wr).logEvent 0x82 0 0 0 (s.fget Reg.FC_STATUS_REPLAYS)).brakeRequest

/-- The digest that a cut set of the current step carries: 0 where the shape source is PLAN. -/
def State.stepDigest (s : State) : DWord :=
  match s.take.active with
  | some r => if r.shapePlan then 0 else BitVec.ofNat 64 (s.fget Reg.SV_DIGEST_DIGEST)
  | none => 0

/-- Whether this device is the reel's lead. -/
def State.isLead (s : State) : Bool :=
  match s.take.active with
  | some r => decide (r.leadDev = s.deviceId)
  | none => false

/-- The replay order that this device's last cut calls for: low gate bits, shape, digest. -/
def State.cutOrder (s : State) : Nat × Nat × DWord := ((s.take.lastCut / 4096).toNat % 2 ^ 20, s.take.shape, s.stepDigest)

/-- Send a CUT ordered set three times on each link of a list, as copies 0, 1 and 2 (R305). -/
def State.emitCut (s : State) (gate shape : Nat) (digest : DWord) (adopt : Nat) (ls : List Nat) : State :=
  let f := fun c l => Out.cutMsg l s.takeTag (gate % 2 ^ 20) shape digest adopt c
  ((s.emitAll (f 0) ls).emitAll (f 1) ls).emitAll (f 2) ls

/-- The replay order goes out, and stands for this device too. -/
def State.sendReplayOrder (s : State) (st : StopState) : State :=
  let s := s.emitCut (s.take.lastCut / 4096).toNat s.take.shape s.stepDigest 0 s.takeLinks
  { s with time.stop := some { st with sent := true, order := some s.cutOrder } }

/-- REPLAY_ORDER_SEND: withheld beyond REPLAYMAX stops since the last cut, and outside a replay stop. -/
def execReplayOrderSend (s : State) : Host.Outcome State Fault Refusal :=
  match s.time.stop with
  | none => .next s
  | some st =>
    if s.isLead = true ∧ st.sent = false ∧ (s.dev = .holding ∨ s.dev = .draining) ∧ st.wallAt + 4096 ≤ s.wallNow ∧
        s.fget Reg.FC_STATUS_REPLAYS ≤ s.fget Reg.FC_CFG_REPLAYMAX then .next (s.sendReplayOrder st)
    else .next s

/-- No matching replay order by WR: FENCED with source 0x30. -/
def State.leadUnheard (s : State) : State :=
  (s.raise 0x30 0 0 (Config.faultDetail 0x30 0).toNat).fsetb Reg.FC_STATUS_LEADLOST true

/-- A resumption granted under an epoch at wall tick `wr`: plan time resumes there (R384). An admission that it completes changes the
membership under a pending exchange (R27). -/
def State.grant (s : State) (epoch wr : Nat) : State :=
  let st : StopState := { tick := s.planNow, wallAt := s.wallNow, order := none, sent := false, wr := wr }
  (({ s with time.stop := some st, take.members := s.take.members || Config.admittedUnder epoch }).fset Reg.FC_EPOCH_VALUE epoch).fset
    Reg.FC_RESUME_VALUE wr

/-- A replayed RESUME: an entry of the stream due at this cut is applied as if ordered now. A resume tick that has passed or is
too soon is moved to the first multiple of 65,536 that R383 admits. -/
def State.streamResume (s : State) : State :=
  match s.streamTake fun e => decide (e.kind = 5) && decide (e.cut = s.fget Reg.SV_CUTS_CUTS) with
  | (none, s) => s
  | (some e, s) =>
    let wr := max (e.words.getD 1 0).toNat (ceilMul (s.wallNow + 1048576) 65536).toNat
    s.grant (e.words.getD 0 0).toNat wr

/-- RESUME_TICK. In FENCED a granted RESUME takes effect at its WR; a device that replays a stream takes its grant from it. -/
def execResumeTick (s : State) : Host.Outcome State Fault Refusal :=
  let s := if s.dev = .fenced ∧ s.time.stop.isNone = true ∧ s.recState = 2 then s.streamResume else s
  match s.time.stop with
  | none => .next s
  | some st =>
    if s.wallNow < st.wr then .next s
    else if s.dev = .fenced then .next (s.resume st.wr)
    else if st.order = some s.cutOrder then .next (s.resume st.wr)
    else .next s.leadUnheard

/-! ## The start of a take (R192, R349) -/

/-- TAKE_START: the first cue, or the joining cut, has come; the clocks of plan time are at it or past it. -/
def execTakeStart (s : State) : Host.Outcome State Fault Refusal :=
  if s.dev = .armed ∧ s.take.lastCut ≤ s.planNow then .next (s.setDev .running).snapTriggers.brakeRequest else .next s

/-! ## The time signals (R33, R67 to R73) -/

/-- Whether the device has a parent in a time tree. -/
def State.hasParent (s : State) : Bool := s.flag Reg.TB_TREE_PVALID && !s.flag Reg.TB_TREE_ROOT

/-- The discipline in use: TB_STATUS.SOURCE. -/
def State.source (s : State) : Nat :=
  let r := s.fget Reg.TB_CTRL_ROOTSRC
  if s.hasParent && s.time.slateOn then 1
  else if decide (r = 1) && s.time.ptpOn then 2
  else if decide (r = 2) && s.time.pulseOn then 3
  else 0

/-- SOURCE and HOLDOVER follow the time signals. -/
def State.timeSignals (s : State) : State :=
  (s.fset Reg.TB_STATUS_SOURCE s.source).fsetb Reg.TB_STATUS_HOLDOVER (decide (s.source = 0))

/-- Slew the error out: the rate is a free value of 1 to 10,000 ppb (R38, R69), shown until the error is gone; no error needs none.
Slewing changes the length of a tick and not the count of ticks, of which the timebase skips and repeats none (R29; log 47). -/
def State.slew (s : State) (e : Int) : State :=
  if e = 0 then { s with time.slewEnd := 0 }.fset Reg.TB_SLEW_SLEW 0
  else
    let (n, s) := s.draw
    let rate := (Config.freeWord n).toNat % 10000 + 1
    let v : Int := if 0 < e then -rate else rate
    { s with time.slewEnd := s.wallNow + ceilDiv (e.natAbs * 10 ^ 9) rate }.fset Reg.TB_SLEW_SLEW (unsignedOf 32 v)

/-- An error beyond the guard inside a take: realignment at a hold, computed from the parent's time, or source 0x24 beyond its
range; at once while plan time is stopped (R69, R70, R462). -/
def State.misaligned (s : State) (e : Int) : State :=
  if s.stopped then s.stepWall e
  else
    let s := s.fsetb Reg.TB_STATUS_UNALIGNED true
    if 130048 < e.natAbs then s.raise 0x24 0 0 (Config.faultDetail 0x24 0).toNat
    else
      let g := ceilMul (s.planNow - e + s.fget Reg.TB_HOLD_CFG_DIAM + s.fget Reg.TB_HOLD_CFG_MARGIN) 4096
      s.requestHoldAt (g / 4096) (min 255 (ceilDiv e.natAbs 512 + 1)) 4

/-- Act on an error against a time signal (R69). A realignment that is pending steps by the error measured last (R70). -/
def State.actOnError (s : State) (e : Int) : State :=
  let s := { s with time.error := e }
  if e.natAbs ≤ s.fget Reg.TB_SLATE_CFG_GUARD then s.slew e
  else if s.dev.inTake then s.misaligned e
  else s.stepWall e

/-- Note the error to the parent in TB_ALIGN. ERR shows its low 16 bits (DESIGN CHOICE, log 107: the table does not say what a larger
error shows). -/
def State.noteError (s : State) (e : Int) : State :=
  let s := (s.fset Reg.TB_ALIGN_ERR (unsignedOf 16 e)).peak Reg.TB_ALIGN_MAXERR e.natAbs
  (s.extreme 0 0 0 e.natAbs)

/-- FRAME_PULSE_OUT: at wall ticks that are multiples of 2^20; in OFF and BOOT the output is low (R454). -/
def execFramePulseOut (s : State) : Host.Outcome State Fault Refusal :=
  if s.dev ≠ .off ∧ s.dev ≠ .boot ∧ s.flag Reg.TB_PULSE_CFG_OUTEN = true ∧ s.wallNow % 2 ^ 20 = 0 then .next (s.emit (.pulse s.wallNow))
  else .next s

/-- The error of wall time against a pulse that marks a multiple of 2^20, within half a period. -/
def pulseError (wall comp : Int) : Int := (wall - comp + 2 ^ 19) % 2 ^ 20 - 2 ^ 19

/-- FRAME_PULSE_IN: an enabled input that ROOTSRC selects is a time signal (R454); where it disciplines the device, the error is
handled. -/
def execFramePulseIn (s : State) : Host.Outcome State Fault Refusal :=
  if s.dev ≠ .off ∧ s.flag Reg.TB_PULSE_CFG_INEN = true ∧ s.fget Reg.TB_CTRL_ROOTSRC = 2 then
    let s := { s with time.pulseOn := true }.timeSignals
    let comp := signedOf 16 (s.fget Reg.TB_PULSE_CFG_INCOMP)
    if s.source = 3 then .next (s.actOnError (pulseError s.wallNow comp)) else .next s
  else .next s

/-- LOSS_OF_REFERENCE. -/
def execLossOfReference (s : State) : Host.Outcome State Fault Refusal :=
  if s.dev = .off then .next s
  else
    let s := { s with time.refLost := true }.fsetb Reg.TB_STATUS_LOR true
    .next (s.raise 0x04 0 0 (Config.faultDetail 0x04 0).toNat)

/-- HOLDOVER_OSCILLATOR_FAILURE while the reference is lost. -/
def execHoldoverOscillatorFailure (s : State) : Host.Outcome State Fault Refusal :=
  .next (if s.dev ≠ .off ∧ s.time.refLost = true then s.raise 0x41 0 0 (Config.faultDetail 0x41 0).toNat else s)

end Sys2Proof.Machine
end

