-- ==== Sys2Proof/Machine/Reels.lean ====
section
/-! DEFINITION. Installing a reel: the grid mapping, the banks, the values that the control path loads at arm (R34, R38, R191,
R218, R225, R312, R353, R354). -/

namespace Sys2Proof.Machine

/-! ## Members and slots (R351, R353) -/

/-- The member that a device is in a reel. -/
def Reel.member (r : Reel) (dev : Nat) : Option Member := r.members.find? fun m => decide (m.device = dev)

/-- Whether a physical slot is good: not disabled. -/
def State.goodSlot (s : State) (cl p : Nat) : Bool := !s.flag (Reg.CL_SLOT_ID_DISABLED cl p)

/-- The good slots of a cluster, ascending. -/
def State.goodSlots (s : State) (cl : Nat) : List Nat := (upFrom 0 11).filter fun p => s.goodSlot cl p

/-- Map the virtual cores of one slot list in order; good slots beyond the grid stay unmapped. -/
def State.mapSlots (s : State) (cl grid : Nat) : Nat → List Nat → State
  | _, [] => s
  | v, p :: ps =>
    let s := s.fsetb (Reg.CL_SLOT_ID_MAPPED cl p) (decide (v < grid))
    let s := s.fset (Reg.CL_SLOT_ID_VCORE cl p) (if v < grid then v else 0)
    s.mapSlots cl grid (v + 1) ps

/-- Unmap every slot of a cluster. -/
def State.unmapCluster (s : State) (cl : Nat) : State :=
  (upFrom 0 11).foldl (fun s p => (s.fsetb (Reg.CL_SLOT_ID_MAPPED cl p) false).fset (Reg.CL_SLOT_ID_VCORE cl p) 0) s

/-- Map a grid (R353). -/
def State.mapGrid (s : State) (grid : Nat) : State :=
  let s := (upFrom 0 4).foldl (fun s cl => (s.unmapCluster cl).mapSlots cl grid 0 (s.goodSlots cl)) s
  (s.fsetb Reg.HI_GRID_MAPPED true).fset Reg.HI_GRID_GRID grid

/-- Unmap the grid. -/
def State.unmapGrid (s : State) : State :=
  let s := (upFrom 0 4).foldl (fun s cl => s.unmapCluster cl) s
  (s.fsetb Reg.HI_GRID_MAPPED false).fset Reg.HI_GRID_GRID 0

/-! ## Banks (R149, R156, R191, R323, R354) -/

/-- Byte `i` of a SHA-384 value, whose first byte is the most significant. -/
def hashByte (h : BitVec 384) (i : Nat) : Nat := h.toNat / 2 ^ (8 * (47 - i)) % 256

/-- Word `k` of a hash register: byte 4k in [7:0]. -/
def hashWord (h : BitVec 384) (k : Nat) : Nat :=
  hashByte h (4 * k) + 2 ^ 8 * hashByte h (4 * k + 1) + 2 ^ 16 * hashByte h (4 * k + 2) + 2 ^ 24 * hashByte h (4 * k + 3)

/-- Show a reel's hash in HI_REEL_HASH or HI_STAGE_HASH. -/
def State.showHash (s : State) (reg : Nat → Nat) (h : BitVec 384) : State :=
  (upFrom 0 12).foldl (fun s k => s.setReg (reg k) (BitVec.ofNat 32 (hashWord h k))) s

/-- The label tables of a reel: injection entries, and receive entries keyed link × 256 + index. -/
def Reel.labels (r : Reel) : SMap DWord :=
  let m := r.inject.foldl (fun m e => mapPut (fun _ => (0 : DWord)) m e.1 e.2) []
  r.recv.foldl (fun m e => mapPut (fun _ => (0 : DWord)) m (e.1 + 256) e.2) m

/-- The image of a virtual core, keyed cluster × 16 + virtual core. -/
def Reel.core (r : Reel) (cl v : Nat) : Option CoreImage := (r.cores.find? fun e => decide (e.1 = 16 * cl + v)).map (·.2)

/-- The image of a virtual cluster. -/
def Reel.cluster (r : Reel) (cl : Nat) : Option ClusterImage := (r.clusters.find? fun e => decide (e.1 = cl)).map (·.2)

/-- Write a core's region registers. -/
def State.putRegions (s : State) (cl p : Nat) (ws : List Word) : State :=
  (upFrom 0 16).foldl (fun s k => s.setReg (Reg.CL_REGION cl p k) (ws.getD k 0)) s

/-- Load one core's part of a reel into its slot's registers. -/
def State.loadCore (s : State) (r : Reel) (key : Nat) : State :=
  let cl := key / 16
  let p := key % 16
  match r.core cl (s.vcoreOf key) with
  | some c =>
    let s := (s.putRegions cl p c.regions).fset (Reg.CL_TRAP_EN_EN cl p) c.trapEn.toNat
    s.fset (Reg.CL_DESC_COUNT_COUNT cl p) c.descs.length
  | none => (s.putRegions cl p []).fset (Reg.CL_DESC_COUNT_COUNT cl p) 0

/-- Load the banks of a reel as the active ones. -/
def State.loadBanks (s : State) (r : Reel) : State :=
  let s := (upFrom 0 4).foldl (fun s cl =>
    s.fset (Reg.CL_SEQ_MEM_BUNDLES cl) (match r.cluster cl with
      | some c => c.bundles.length
      | none => 0)) s
  let s := s.mappedCores.foldl (fun s key => s.loadCore r key) s
  let s := { s with take.active := some r, take.labels := r.labels, take.altLive := [], take.altDone := [], take.altPending := [],
                    bundleErr := [] }
  (s.showHash Reg.HI_REEL_HASH r.hash).fsetb Reg.FC_STATUS_ALTINST false

/-- Write the resident images of a core into its scratchpad. -/
def State.loadResident (s : State) (r : Reel) (key : Nat) : State :=
  match r.core (key / 16) (s.vcoreOf key) with
  | some c => c.resident.foldl (fun s e => s.spadWrite key e.1 e.2 (List.replicate (granCount e.1 e.2.length) false)) s
  | none => s

/-! ## Values that the control path loads at arm -/

/-- Whether slates come in on a link: it is open and its travel is measured. -/
def State.hears (s : State) (l : Nat) : Bool := (decide (s.linkState l = stateAlign) || decide (s.linkState l = stateUp)) && s.slated l

/-- Load the time tree, D and M. The new parent is heard where its slates come in; its error is not measured yet (R67, R68). -/
def State.loadTree (s : State) (t : TimeTree) : State :=
  let s := (s.fset Reg.TB_TREE_DEPTH t.depth).fset Reg.TB_TREE_PLINK (t.plink.getD 0)
  let s := (s.fsetb Reg.TB_TREE_PVALID t.plink.isSome).fsetb Reg.TB_TREE_ROOT t.root
  let s := (s.fset Reg.TB_HOLD_CFG_DIAM t.diam).fset Reg.TB_HOLD_CFG_MARGIN t.margin
  { s with time.parentErr := 0, time.lostSlates := 0, time.slateOn := (t.plink.map s.hears).getD false }.timeSignals

/-- The serving role of this device in a reel (R218): 0 off, 1 lead, 2 follower. -/
def State.roleIn (s : State) (r : Reel) : Nat := if r.shapePlan then 0 else if r.leadDev = s.deviceId then 1 else 2

/-- Load the serving section (R218, R225); SV_POOL_PAGES is compared, not loaded (Table 12.10). -/
def State.loadServing (s : State) (r : Reel) : State :=
  let v := r.serving
  let s := (s.fset Reg.SV_CTRL_ROLE (s.roleIn r)).fset Reg.SV_CTRL_MAXENT v.maxent
  let s := (s.fset Reg.SV_TIMING_SETTLE (if r.shapePlan then 0 else v.settle)).fset Reg.SV_TIMING_READY v.ready
  let s := (s.fset Reg.SV_AREA_BASE v.area).fset Reg.SV_POOL_BASE_BASE v.poolBase
  let s := (s.fset Reg.SV_POOL_STRIDE_STRIDE v.poolStride).fset Reg.SV_KV_CFG_NRANK (v.nrank - 1)
  let s := s.fset Reg.SV_KV_CFG_KRANK (match r.member s.deviceId with
    | some m => m.kvRank
    | none => 0)
  let s := (s.fset Reg.SV_CTX_RANGE_LO v.ctxLo).fset Reg.SV_CTX_RANGE_HI v.ctxHi
  (s.fset Reg.SV_METER_RANGE_LO v.meterLo).fset Reg.SV_METER_RANGE_HI v.meterHi

/-- The plan of a link in a reel. -/
def Reel.linkPlan (r : Reel) (l : Nat) : Option LinkPlan := (r.linkPlans.find? fun e => decide (e.1 = l)).map (·.2)

/-- Load LK_PLAN of one link, and note whether the take uses it. -/
def State.loadLinkPlan (s : State) (r : Reel) (l : Nat) : State :=
  match r.linkPlan l with
  | some p =>
    let s := (s.fset (Reg.LK_PLAN_LANESMIN l) p.lanesMin).fset (Reg.LK_PLAN_LEEWAY l) p.leeway
    let s := (s.fsetb (Reg.LK_PLAN_INUSE l) p.inUse).fset (Reg.LK_PLAN_VC2MAX l) p.vc2max
    s.fsetb (Reg.LK_STATUS_INUSE l) p.inUse
  | none => (s.fsetb (Reg.LK_PLAN_INUSE l) false).fsetb (Reg.LK_STATUS_INUSE l) false

/-- Load every link's plan. -/
def State.loadLinkPlans (s : State) (r : Reel) : State := (upFrom 0 64).foldl (fun s l => s.loadLinkPlan r l) s

/-- Load what the control path loads from a reel at arm, and at an exchange. -/
def State.loadControl (s : State) (r : Reel) : State := ((s.loadTree r.tree).loadServing r).loadLinkPlans r

/-- Length of the current step in ticks: that of the first cluster that has the shape. -/
def State.stepLength (s : State) : Nat := (upFrom 0 4).foldl (fun n cl => if n = 0 then s.stepTicks cl else n) 0

/-- The plan tick of the next cut. -/
def State.cutTick (s : State) : Int := s.take.lastCut + s.stepLength

end Sys2Proof.Machine
end

