-- ==== Sys2Proof/Machine/Settle.lean ====
section
/-! DEFINITION. The settle: frozen entries, the output phase, the selection of work and the table image (R221 to R240, R243 to
R245, R248, R251). -/

namespace Sys2Proof.Machine

/-! ## Pending contexts and meters -/

/-- A context in a settle's pending results. -/
def Pending.ctx (p : Pending) (c : Nat) : Ctx := mapGet (fun _ => Ctx.initial) p.ctxs c

/-- Store a context. -/
def Pending.setCtx (p : Pending) (c : Nat) (x : Ctx) : Pending := { p with ctxs := mapPut (fun _ => Ctx.initial) p.ctxs c x }

/-- A meter in a settle's pending results. -/
def Pending.meter (p : Pending) (m : Nat) : Meter := mapGet (fun _ => Meter.initial) p.meters m

/-- Store a meter. -/
def Pending.setMeter (p : Pending) (m : Nat) (x : Meter) : Pending :=
  { p with meters := mapPut (fun _ => Meter.initial) p.meters m x }

/-- Whether a context is the device's own: in SV_CTX_RANGE, or adopted. -/
def State.ownCtx (s : State) (c : Nat) (x : Ctx) : Bool :=
  (decide (s.fget Reg.SV_CTX_RANGE_LO ≤ c) && decide (c ≤ s.fget Reg.SV_CTX_RANGE_HI)) || (!x.mirror && decide (x.st ≠ .free))

/-- Whether a meter is the device's own. -/
def State.ownMeter (s : State) (m : Nat) : Bool :=
  decide (s.fget Reg.SV_METER_RANGE_LO ≤ m) && decide (m ≤ s.fget Reg.SV_METER_RANGE_HI)

/-- How many records a context's ring has room for beyond the sampled head. -/
def Ctx.ringEnd (x : Ctx) (head : Nat) : Nat := head + 2 ^ x.ringLog

/-- Whether every record of a context has room in its ring, as of the sampled head: the backlog is empty (R248). -/
def Ctx.backlogEmpty (x : Ctx) (head : Nat) : Bool := decide (x.ringSeq ≤ x.ringEnd head)

/-- The sampled head of a context. -/
def headOf (heads : List (Nat × Nat)) (c : Nat) : Nat := ((heads.find? fun h => decide (h.1 = c)).map (·.2)).getD 0

/-- A record of a context (Table 08.9); the cut's wall tick and index are filled in at the cut. -/
def ringRecord (c : Nat) (x : Ctx) (type token pos meter detail : Nat) : RingRecord :=
  { type := type, ctx := c, seq := x.ringSeq, token := BitVec.ofNat 32 token, pos := pos, wall := 0, cut := 0, meter := meter,
    detail := detail, tag := x.tag, holdover := false, base := x.ringBase, log := x.ringLog, vector := x.vector, fresh := true,
    stamp := 0 }

/-- Write a record of a context. A record that finds ring and backlog full is dropped: the context enters FAULTED, and an ERROR
record with DETAIL 0x4 follows once room appears; BKLOST counts what is dropped (R248). -/
def Pending.record (p : Pending) (heads : List (Nat × Nat)) (c type token pos detail : Nat) : Pending :=
  let x := p.ctx c
  if x.ringSeq < x.ringEnd (headOf heads c) + 64 then
    let r := ringRecord c x type token pos (p.meter x.meter).count detail
    { p.setCtx c { x with ringSeq := x.ringSeq + 1 } with records := p.records ++ [r] }
  else { p.setCtx c { x with full := true, st := .faulted } with lost := p.lost + 1 }

/-! ## Entries (R222, R223, Tables 08.3 and 08.4) -/

/-- CTX. -/
def StepEntry.ctx (e : StepEntry) : Nat := bitsOf 14 0 e.w0.toNat

/-- TYPE. -/
def StepEntry.type (e : StepEntry) : Nat := bitsOf 23 16 e.w0.toNat

/-- FLAGS. -/
def StepEntry.flags (e : StepEntry) : Nat := bitsOf 31 24 e.w0.toNat

/-- METER of OPEN and METER. -/
def StepEntry.meter (e : StepEntry) : Nat := bitsOf 13 0 e.w4.toNat

/-- Whether an OPEN's fields are in range. -/
def StepEntry.openOk (e : StepEntry) : Bool :=
  decide (e.flags = 0) && decide (bitsOf 15 14 e.w4.toNat = 0) && decide (4 ≤ bitsOf 20 16 e.w4.toNat) &&
  decide (bitsOf 20 16 e.w4.toNat ≤ 16) && decide (e.q8.toNat % 4096 = 0) && decide (e.q32.toNat % 2 ^ 32 ≤ 1048575) &&
  decide (e.q32.toNat / 2 ^ 32 ≤ 1048575)

/-- Whether bytes 16 to 39 are 0. -/
def StepEntry.highZero (e : StepEntry) : Bool := e.q16 == 0 && e.q24 == 0 && e.q32 == 0

/-- Whether an entry's fields are in range and its reserved bits 0; ADOPT's K is checked apart. -/
def StepEntry.fieldsOk (e : StepEntry) : Bool :=
  e.rest == 0 && !bitOf e.w0.toNat 15 &&
  (match e.type with
   | 1 => e.openOk
   | 2 => decide (e.flags ≤ 1) && decide (1 ≤ e.w4.toNat) && decide (e.w4.toNat ≤ 1048576) && decide (e.q8.toNat % 32 = 0) &&
       decide (e.q8.toNat + 4 * e.w4.toNat ≤ hbmSize) && e.highZero
   | 3 => decide (e.flags = 0) && decide (bitsOf 3 0 e.w4.toNat ≤ 8) && decide (bitsOf 15 4 e.w4.toNat = 0) && e.q8 == 0 && e.highZero
   | 4 => decide (e.flags = 0) && e.w4 == 0 && e.q8 == 0 && e.highZero
   | 5 => decide (e.flags = 0) && e.w4 == 0 && e.q8 == 0 && e.highZero
   | 6 => (decide (e.flags = 0) || decide (e.flags = 2)) && decide (bitsOf 15 14 e.w4.toNat = 0) &&
       decide (bitsOf 31 24 e.w4.toNat = 0) && e.highZero
   | 7 => decide (e.flags = 0) && e.w4 == 0 && decide (e.q8.toNat < 65536) && e.q24 == 0 && e.q32 == 0
   | _ => false)

/-- Whether an ADOPT's cut index is one that the mirror holds complete. -/
def State.adoptOk (s : State) (k : Nat) : Bool :=
  decide (k ≤ s.fget Reg.SV_MIRROR_CUT_CUT) && s.serve.kept.any fun m => decide (m.cut = k)

/-- Whether the state of the entry's context forbids it. -/
def stateForbids (type : Nat) (x : Ctx) : Bool :=
  match type with
  | 1 => decide (x.st ≠ .free)
  | 2 => decide (x.st = .free) || decide (x.st = .faulted) || x.lastSeen
  | 3 => decide (x.st = .free) || decide (x.st = .faulted)
  | 4 => decide (x.st = .free) || decide (x.st = .faulted)
  | _ => false

/-- The result code of an entry: the lowest that Table 08.4 gives; `seen` holds the (context, TYPE) pairs applied in the settle. -/
def State.entryCode (s : State) (p : Pending) (seen : List (Nat × Nat)) (e : StepEntry) : Nat :=
  let x := p.ctx e.ctx
  let own := decide (e.type = 7) || s.ownCtx e.ctx x
  let mtr := decide (e.type ≠ 1 ∧ e.type ≠ 6) || s.ownMeter e.meter
  if !own || !mtr then 1
  else if stateForbids e.type x then 2
  else if !e.fieldsOk || (decide (e.type = 7) && !s.adoptOk e.q16.toNat) then 3
  else if e.type ≠ 7 ∧ seen.contains (e.ctx, e.type) = true then 4
  else 0

/-- A context opened. -/
def Ctx.opened (x : Ctx) (e : StepEntry) : Ctx :=
  { Ctx.initial with st := .prefill, meter := e.meter, ringBase := e.q8, ringLog := bitsOf 20 16 e.w4.toNat,
                     vector := bitsOf 31 21 e.w4.toNat, tailco := e.q32.toNat % 2 ^ 32, irqco := e.q32.toNat / 2 ^ 32,
                     seed := e.q16, tag := e.q24, gen := x.gen + 1 }

/-- Steps pending. -/
def Ctx.hasSteps (x : Ctx) : Bool := x.endless || decide (0 < x.steps)

/-- The state of a context that is past its prompt and may run. -/
def Ctx.runnable (x : Ctx) : CtxState := if x.hasSteps then .active else .idle

/-- DECODE. -/
def Ctx.decode (x : Ctx) (spec steps : Nat) : Ctx :=
  let x := { x with spec := spec, steps := x.steps + steps, endless := x.endless || decide (steps = 0) }
  if x.st = .idle then { x with st := .active } else x

/-- A context freed: only its ring remains. -/
def Ctx.freed (x : Ctx) : Ctx :=
  { Ctx.initial with gen := x.gen, ready := x.ready, ringBase := x.ringBase, ringLog := x.ringLog, vector := x.vector, tailco := x.tailco,
                     irqco := x.irqco, ringSeq := x.ringSeq, wrote := x.wrote, head := x.head, lastTail := x.lastTail,
                     lastIrq := x.lastIrq, tailDirty := x.tailDirty, irqDirty := x.irqDirty }

/-- CLOSE: a CLOSED record, a commit entry with END, and the context is free. -/
def Pending.close (p : Pending) (heads : List (Nat × Nat)) (c : Nat) : Pending :=
  let x := p.ctx c
  if x.st = .free then p
  else
    let p := p.record heads c 5 0 x.commit 0
    let e : CommitEntry := { ended := true, prefill := false, ctx := c, oldc := x.commit, newc := x.commit }
    { p.setCtx c (p.ctx c).freed with commits := p.commits ++ [e] }

/-- The contexts of a meter that it releases from EXHAUSTED. -/
def refill (m : Nat) (x : Ctx) : Ctx := if x.st = .exhausted ∧ x.meter = m then { x with st := x.runnable } else x

/-- METER. -/
def Pending.addMeter (p : Pending) (m : Nat) (add : Int) (weight : Option Nat) : Pending :=
  let x := p.meter m
  let n := (max 0 (min ((x.count : Int) + add) (2 ^ 48 - 1))).toNat
  let p := p.setMeter m { x with count := n, weight := weight.getD x.weight }
  if 0 < n then { p with ctxs := mapAll (fun _ => Ctx.initial) (refill m) p.ctxs } else p

/-- OPEN. What a CLOSE of this settle wrote goes to the ring of the earlier opening, whose head moves no more: records without
room there are dropped. -/
def Pending.openCtx (p : Pending) (heads : List (Nat × Nat)) (c : Nat) (e : StepEntry) : Pending :=
  let room := fun (r : RingRecord) => decide (r.ctx ≠ c) || decide (r.seq < headOf heads c + 2 ^ r.log)
  let rs := (p.records.filter room).map fun r => if r.ctx = c then { r with fresh := false } else r
  { p.setCtx c ((p.ctx c).opened e) with records := rs, lost := p.lost + (p.records.length - rs.length) }

/-- Apply an entry that no check rejects. -/
def Pending.apply (p : Pending) (heads : List (Nat × Nat)) (e : StepEntry) : Pending :=
  let c := e.ctx
  let x := p.ctx c
  match e.type with
  | 1 => p.openCtx heads c e
  | 2 =>
    let f : PrefillEntry := { addr := e.q8.toNat, left := e.w4.toNat, last := decide (e.flags = 1) }
    p.setCtx c { x with prefills := x.prefills ++ [f], lastSeen := x.lastSeen || f.last }
  | 3 => p.setCtx c (x.decode (bitsOf 3 0 e.w4.toNat) (bitsOf 31 16 e.w4.toNat))
  | 4 => p.setCtx c (if x.st = .active then { x with st := .idle } else x)
  | 5 => p.close heads c
  | 6 => p.addMeter e.meter e.q8.toInt (if e.flags = 2 then some (bitsOf 23 16 e.w4.toNat) else none)
  | _ => { p with adopt := some (e.q8.toNat, e.q16.toNat) }

/-- Apply the entries of one order: the pending results, the pairs seen, the codes. -/
def State.applyEntries (s : State) (heads : List (Nat × Nat)) :
    List StepEntry → Pending × List (Nat × Nat) → List Nat × (Pending × List (Nat × Nat))
  | [], r => ([], r)
  | e :: es, (p, seen) =>
    let code := s.entryCode p seen e
    let p := if code = 0 then p.apply heads e else { p with rejected := p.rejected + 1 }
    let seen := if code = 0 then seen ++ [(e.ctx, e.type)] else seen
    let (codes, r) := s.applyEntries heads es (p, seen)
    (code :: codes, r)

/-- Apply the frozen orders in ascending sequence number; `left` says which of them have entries that wait for later settles. -/
def State.applyOrders (s : State) (heads : List (Nat × Nat)) (left : List ServeOrder) :
    List ServeOrder → Pending × List (Nat × Nat) → Pending
  | [], r => r.1
  | o :: os, r =>
    let (codes, (p, seen)) := s.applyEntries heads o.entries r
    let o := { o with codes := o.codes ++ codes, fromEntry := o.fromEntry + o.entries.length, entries := [] }
    let p := if left.any fun q => decide (q.seq = o.seq) then { p with left := p.left ++ [o] } else { p with done := p.done ++ [o] }
    s.applyOrders heads left os (p, seen)

/-- Split the waiting orders at `n` entries: those a settle takes, those that wait. -/
def splitOrders : Nat → List ServeOrder → List ServeOrder × List ServeOrder
  | _, [] => ([], [])
  | n, o :: os =>
    if n = 0 then ([], o :: os)
    else if o.entries.length ≤ n then
      let (a, b) := splitOrders (n - o.entries.length) os
      (o :: a, b)
    else ([{ o with entries := o.entries.take n }], { o with entries := o.entries.drop n, fromEntry := o.fromEntry + n } :: os)

/-! ## The output phase (R236 to R240) -/

/-- An outcome entry (Table 08.8). -/
structure Outcome where
  poison : Bool
  accept : Nat
  stop : Nat
  ndraft : Nat
  out : List Word
  drafts : List Word
deriving DecidableEq, Repr

/-- The little-endian words of bytes. -/
def leWords : List Byte → List Word
  | a :: b :: c :: d :: bs => BitVec.ofNat 32 (ofBytes [a, b, c, d]) :: leWords bs
  | _ => []

/-- Read the outcome entry of a slot. -/
def State.outcome (s : State) (slot : Nat) : Outcome × State :=
  let ((bs, ps), s) := s.hbmRead (s.fget Reg.SV_AREA_BASE + Config.areaOffset 2 + 128 * slot) 128
  let w := (wordAt bs 0).toNat
  ({ poison := ps.any id, accept := bitsOf 3 0 w, stop := bitsOf 7 4 w, ndraft := min 8 (bitsOf 11 8 w),
     out := leWords ((bs.drop 4).take 36), drafts := leWords ((bs.drop 40).take 32) }, s)

/-- Whether an outcome is well formed (R237). -/
def Outcome.wf (o : Outcome) (r : RunEntry) : Bool :=
  if r.prefill then (if r.lastChunk then decide (o.accept = 1) else decide (o.accept = 0) && decide (o.stop = 0))
  else decide (1 ≤ o.accept) && decide (o.accept ≤ 1 + r.spec) && decide (o.stop ≤ o.accept)

/-- What the emission loop of a slot leaves: pending results, tokens emitted, whether an END was emitted. -/
structure Emission where
  p : Pending
  e : Nat
  ended : Bool

/-- The state that a withheld token leaves: EXHAUSTED, but a context whose record was dropped stays FAULTED (R248). -/
def Ctx.exhaust (x : Ctx) : Ctx := if x.st = .faulted then x else { x with st := .exhausted }

/-- Emit tokens `i` to `lim` of a slot whose first output position is base + 1 (R238): `n` tokens are left. A context whose END record is
dropped has entered FAULTED, which it leaves only by CLOSE (R221, R248). -/
def emitTokens (heads : List (Nat × Nat)) (c base stop : Nat) : Nat → List Word → Emission → Emission
  | _, [], m => m
  | i, t :: ts, m =>
    let x := m.p.ctx c
    let v := m.p.meter x.meter
    if v.count = 0 then
      let p := (m.p.record heads c 3 0 (base + i) 0)
      { m with p := { p.setCtx c (p.ctx c).exhaust with withheld := p.withheld + 1 } }
    else
      let p := m.p.setMeter x.meter { v with count := v.count - 1 }
      let p := p.record heads c (if i = stop then 2 else 1) t.toNat (base + i) 0
      let m := { p := { p with emitted := p.emitted + 1 }, e := m.e + 1, ended := decide (i = stop ∧ (p.ctx c).st ≠ .faulted) }
      if i = stop then m else emitTokens heads c base stop (i + 1) ts m

/-- A slot whose outcome is poisoned or malformed, or whose context or meter is poisoned (R240). -/
def Pending.slotError (p : Pending) (heads : List (Nat × Nat)) (c : Nat) (r : RunEntry) (detail : Nat) : Pending :=
  let x := p.ctx c
  let p := p.record heads c 4 0 x.commit detail
  let e : CommitEntry := { ended := false, prefill := r.prefill, ctx := c, oldc := x.commit, newc := x.commit }
  { p.setCtx c { p.ctx c with st := .faulted } with commits := p.commits ++ [e] }

/-- A prompt's entries after `n` tokens of the head have run. -/
def consume (n : Nat) : List PrefillEntry → List PrefillEntry
  | [] => []
  | f :: fs => if f.left ≤ n then fs else { f with addr := f.addr + 4 * n, left := f.left - n } :: fs

/-- The commit of a slot. -/
def Pending.commitSlot (p : Pending) (c : Nat) (r : RunEntry) (oldc newc : Nat) (ended : Bool) : Pending :=
  let e : CommitEntry := { ended := ended, prefill := r.prefill, ctx := c, oldc := oldc, newc := newc }
  let x := { p.ctx c with commit := newc }
  let x := if r.prefill then { x with prefills := consume r.count x.prefills } else x
  { p.setCtx c (if ended then x.freed else x) with commits := p.commits ++ [e] }

/-- A slot that emits: a decode slot, or a last chunk, whose prompt completes: the prefill pointer moves past its meter (R233). A last
chunk that emits nothing keeps its prompt token as INPUT; a poisoned one poisons the context record (log 112). -/
def Pending.emitSlot (p : Pending) (heads : List (Nat × Nat)) (c : Nat) (r : RunEntry) (o : Outcome) (prompt : Word × Bool) : Pending :=
  let base := if r.prefill then r.pos + r.count - 1 else r.pos
  let toks := o.out.take (if r.prefill then 1 else o.accept)
  let m := emitTokens heads c base o.stop 1 toks { p := p, e := 0, ended := false }
  let x := m.p.ctx c
  let input := if 0 < m.e then toks.getD (m.e - 1) 0 else if r.prefill then prompt.1 else x.input
  let st := if r.prefill && decide (0 < m.e) && decide (x.st = .prefill) then x.runnable else x.st
  let x := { x with input := input, drafts := o.drafts.take o.ndraft, st := st, poisoned := x.poisoned || (decide (m.e = 0) && prompt.2) }
  let p' := m.p.setCtx c x
  let p' := if r.prefill then { p' with ptrPre := (x.meter + 1) % 16384 } else p'
  p'.commitSlot c r (p.ctx c).commit (base + m.e) m.ended

/-- The prompt token at a last chunk's final position: its value and whether it is poisoned. -/
def State.promptToken (s : State) (r : RunEntry) : (Word × Bool) × State :=
  let ((bs, ps), s) := s.hbmRead (r.addr + 4 * (r.count - 1)) 4
  ((wordAt bs 0, ps.any id), s)

/-- The mirrored copy of a context's record that the device holds: of a context that it adopted, the last one kept. -/
def State.mirroredCopy (s : State) (c : Nat) (x : Ctx) : Option Ctx :=
  (s.serve.kept.reverse.flatMap (·.ctxs)).findSome? fun m =>
    if m.ctx = c then m.entry.filter fun e => decide (e.tag = x.tag) else none

/-- A context with a poisoned record: its ring is the mirrored copy's, where there is one (R240). -/
def State.ringFromMirror (s : State) (p : Pending) (c : Nat) : Pending :=
  match s.mirroredCopy c (p.ctx c) with
  | some e => p.setCtx c { p.ctx c with ringBase := e.ringBase, ringLog := e.ringLog }
  | none => p

/-- The output phase of one slot. The prompt token of a last chunk is read only where its first token is withheld (R238). -/
def State.outputSlot (s : State) (heads : List (Nat × Nat)) (p : Pending) (slot : Nat) (r : RunEntry) : Pending × State :=
  let (o, s) := s.outcome slot
  let x := p.ctx r.ctx
  if o.poison then (p.slotError heads r.ctx r 1, s)
  else if !o.wf r then (p.slotError heads r.ctx r 2, s)
  else if x.poisoned || (p.meter x.meter).poisoned then ((s.ringFromMirror p r.ctx).slotError heads r.ctx r 3, s)
  else if r.prefill && !r.lastChunk then (p.commitSlot r.ctx r x.commit (r.pos + r.count) false, s)
  else if r.prefill && decide ((p.meter x.meter).count = 0) then
    let (t, s) := s.promptToken r
    (p.emitSlot heads r.ctx r o t, s)
  else (p.emitSlot heads r.ctx r o (0, false), s)

/-- The output phase over the runs of the ending step. -/
def State.outputPhase (s : State) (heads : List (Nat × Nat)) : List (Nat × RunEntry) → Pending → Pending × State
  | [], p => (p, s)
  | (slot, r) :: rs, p =>
    let (p, s) := s.outputSlot heads p slot r
    s.outputPhase heads rs p

/-- Contexts that dropped records write their ERROR record once the ring has room (R248). -/
def Pending.lateErrors (heads : List (Nat × Nat)) : List (Nat × Ctx) → Pending → Pending
  | [], p => p
  | (c, x) :: xs, p =>
    let p := if x.full && decide (x.ringSeq < x.ringEnd (headOf heads c)) then
        (p.setCtx c { p.ctx c with full := false, st := .faulted }).record heads c 4 0 x.commit 4
      else p
    Pending.lateErrors heads xs p

/-- Contexts listed as lost by an admission write a STATE_LOST record and are freed as by CLOSE (R390). -/
def Pending.loseCtxs (heads : List (Nat × Nat)) : List Nat → Pending → Pending
  | [], p => p
  | c :: cs, p =>
    let x := p.ctx c
    let p := if x.st = .free then p
      else
        let q := p.record heads c 7 0 x.commit 0
        let e : CommitEntry := { ended := true, prefill := false, ctx := c, oldc := x.commit, newc := x.commit }
        { q.setCtx c (q.ctx c).freed with commits := q.commits ++ [e] }
    Pending.loseCtxs heads cs p

/-! ## Free frames as the lead models them (R232, R244, R245) -/

/-- Pages of a context: as many as its mapped positions reach. -/
def pagesOf (reach : Nat) : Nat := ceilDiv reach 64

/-- Frames that `pages` global pages of a context take on a KV rank; local pages end at 8,192. -/
def framesOn (nrank rank pages : Nat) : Nat := min 8192 ((pages + nrank - 1 - rank) / nrank)

/-- Whether a context's frames come from the mirrors' half: it lies outside SV_CTX_RANGE. -/
def State.mirrorHalf (s : State) (c : Nat) : Bool :=
  !(decide (s.fget Reg.SV_CTX_RANGE_LO ≤ c) && decide (c ≤ s.fget Reg.SV_CTX_RANGE_HI))

/-- Frames free on a KV rank in one half, given the contexts. -/
def State.rankFree (s : State) (ctxs : SMap Ctx) (half : Bool) (rank : Nat) : Nat :=
  let n := s.fget Reg.SV_KV_CFG_NRANK + 1
  s.fget Reg.SV_POOL_PAGES_PAGES - ((ctxs.filter fun x => s.mirrorHalf x.1 == half).map fun x => framesOn n rank (pagesOf x.2.reach)).sum

/-- Whether a context may be given positions up to `reach`: the frames it needs fit every rank's free count. -/
def State.fits (s : State) (ctxs : SMap Ctx) (c reach : Nat) : Bool :=
  let n := s.fget Reg.SV_KV_CFG_NRANK + 1
  let x := mapGet (fun _ => Ctx.initial) ctxs c
  (upFrom 0 n).all fun r =>
    decide (framesOn n r (pagesOf (max x.reach reach)) - framesOn n r (pagesOf x.reach) ≤ s.rankFree ctxs (s.mirrorHalf c) r)

/-- Note the positions that a context's pages will cover. -/
def Pending.reserve (p : Pending) (c reach : Nat) : Pending :=
  p.setCtx c { p.ctx c with reach := max (p.ctx c).reach reach }

/-! ## Selection (R232, R233) -/

/-- The order of a number after `last`, wrapping: numbers above come first. -/
def wrapKey (last : Option Nat) (n c : Nat) : Int :=
  match last with
  | none => c
  | some l => if l < c then c else c + n

/-- Whether a context's backlog is not empty as of the sampled heads. The settle's own records are not in it before the cut. -/
def State.backlogged (s : State) (heads : List (Nat × Nat)) (p : Pending) (c : Nat) : Bool :=
  let x := s.ctx c
  decide ((p.ctx c).gen = x.gen) && !x.backlogEmpty (headOf heads c)

/-- Decode candidates of a meter that are not chosen or skipped, in order. -/
def State.cands (s : State) (heads : List (Nat × Nat)) (p : Pending) (done : List Nat) (m : Nat) : List Nat :=
  let cs := p.ctxs.filter fun x => decide (x.2.meter = m) && decide (x.2.st = .active) && !s.backlogged heads p x.1 &&
    !x.2.mirror && !done.contains x.1
  sortBy (fun c => wrapKey (p.meter m).last 32768 c) (cs.map (·.1))

/-- The selection so far: pending results, chosen contexts, skipped contexts, the last meter that gave one. -/
structure Choice where
  p : Pending
  chosen : List Nat
  skipped : List Nat
  lastm : Option Nat

/-- Positions of a decode slot at a speculative depth. -/
def Ctx.positions (x : Ctx) (depth : Nat) : Nat := 1 + min x.spec (min depth x.drafts.length)

/-- One meter's turn: up to `left` contexts, from the list of its candidates. -/
def State.meterTurn (s : State) (dmax depth m : Nat) : Nat → List Nat → Choice → Choice
  | _, [], k => k
  | 0, _, k => k
  | left + 1, c :: cs, k =>
    if dmax ≤ k.chosen.length then k
    else
      let x := k.p.ctx c
      let reach := x.commit + x.positions depth
      if s.fits k.p.ctxs c reach then
        let p := (k.p.reserve c reach).setMeter m { k.p.meter m with last := some c }
        s.meterTurn dmax depth m left cs { k with p := p, chosen := k.chosen ++ [c], lastm := some m }
      else s.meterTurn dmax depth m (left + 1) cs { k with skipped := k.skipped ++ [c] }

/-- One round over the meters. -/
def State.meterRound (s : State) (heads : List (Nat × Nat)) (dmax depth : Nat) : List Nat → Choice → Choice
  | [], k => k
  | m :: ms, k =>
    let cs := s.cands heads k.p (k.chosen ++ k.skipped) m
    s.meterRound heads dmax depth ms (s.meterTurn dmax depth m (k.p.meter m).weight cs k)

/-- Rounds until one takes nothing or every slot is filled: at most `fuel`. -/
def State.meterRounds (s : State) (heads : List (Nat × Nat)) (dmax depth : Nat) (ms : List Nat) : Nat → Choice → Choice
  | 0, k => k
  | fuel + 1, k =>
    let k' := s.meterRound heads dmax depth ms k
    if k'.chosen.length = k.chosen.length ∨ dmax ≤ k'.chosen.length then k' else s.meterRounds heads dmax depth ms fuel k'

/-- The meters that contexts name, from the pointer up, wrapping. -/
def meterOrder (ctxs : SMap Ctx) (ptr : Nat) : List Nat :=
  sortBy (fun m => ((m + 16384 - ptr) % 16384 : Nat)) ((ctxs.map (·.2.meter)).eraseDups)

/-- Choose the decode slots (R232). -/
def State.chooseDecode (s : State) (heads : List (Nat × Nat)) (shapes : List ServShape) (p : Pending) : Choice :=
  let dmax := shapes.foldl (fun n k => max n k.d) 0
  let depth := shapes.foldl (fun n k => max n k.s) 0
  let ms := meterOrder p.ctxs p.ptrDec
  let k := s.meterRounds heads dmax depth ms (p.ctxs.length + 1) { p := p, chosen := [], skipped := [], lastm := none }
  match k.lastm with
  | some m => { k with p := { k.p with ptrDec := (m + 1) % 16384 } }
  | none => k

/-- A selection takes one step of a context's count. -/
def Ctx.stepTaken (x : Ctx) : Ctx :=
  if 0 < x.steps then
    let x := { x with steps := x.steps - 1 }
    if x.steps = 0 ∧ x.endless = false then { x with st := .idle } else x
  else x

/-- Whether a context may be given prompt tokens: its meter is not suspended (R222), its backlog is empty (R248). -/
def State.mayPrefill (s : State) (heads : List (Nat × Nat)) (p : Pending) (c : Nat) : Bool :=
  let x := p.ctx c
  decide (x.st = .prefill) && !x.mirror && !x.prefills.isEmpty && decide (0 < (p.meter x.meter).weight) && !s.backlogged heads p c

/-- The context that held the last chunk, while its prompt is unfinished. -/
def Pending.holder (p : Pending) : Option Nat :=
  p.lastPrefill.bind fun c => if (p.ctx c).st = .prefill ∧ 0 < (p.ctx c).reach then some c else none

/-- Search the meters from the prefill pointer, and in a meter the contexts after its last-chosen one. -/
def State.searchPrefill (s : State) (heads : List (Nat × Nat)) (p : Pending) : Option Nat :=
  (meterOrder p.ctxs p.ptrPre).findSome? fun m =>
    let cs := (p.ctxs.filter fun x => decide (x.2.meter = m) && s.mayPrefill heads p x.1).map (·.1)
    (sortBy (fun c => wrapKey (p.meter m).last 32768 c) cs).head?

/-- The context of the prefill chunk (R233): the holder, else the first found. -/
def State.choosePrefill (s : State) (heads : List (Nat × Nat)) (p : Pending) : Option Nat :=
  match p.holder with
  | some c => some c
  | none => s.searchPrefill heads p

/-- The shape chosen for `n` decode slots and `t` prompt tokens left (R233). -/
def chooseShape (shapes : List ServShape) (n t : Nat) : Nat :=
  match shapes.findIdx? fun k => decide (n ≤ k.d) && decide (t ≤ k.c) with
  | some k => k
  | none =>
    let best := (shapes.filter fun k => decide (n ≤ k.d)).foldl (fun c k => max c k.c) 0
    (shapes.findIdx? fun k => decide (n ≤ k.d) && decide (k.c = best)).getD 0

/-- The run entry of a decode slot (Table 08.6). -/
def Ctx.decodeRun (x : Ctx) (c depth : Nat) : RunEntry :=
  let n := x.positions depth
  { prefill := false, lastChunk := false, spec := n - 1, ctx := c, pos := x.commit, count := n, input := x.input,
    drafts := x.drafts.take (n - 1), addr := 0, seed := x.seed }

/-- The run entry of a prefill chunk of `n` tokens from a prompt's head entry. -/
def Ctx.prefillRun (x : Ctx) (c n : Nat) (f : PrefillEntry) : RunEntry :=
  { prefill := true, lastChunk := f.last && decide (n = f.left), spec := 0, ctx := c, pos := x.commit, count := n, input := 0,
    drafts := [], addr := f.addr, seed := x.seed }

/-- The prefill chunk of a step of a chunk capacity: none where it does not fit the free frames. -/
def State.prefillChunk (s : State) (p : Pending) (c cap : Nat) : Option RunEntry :=
  match (p.ctx c).prefills with
  | [] => none
  | f :: _ =>
    let n := min f.left cap
    if n = 0 ∨ s.fits p.ctxs c ((p.ctx c).commit + n) = false then none else some ((p.ctx c).prefillRun c n f)

/-- The pages of a chosen context are those of the positions that it runs (R244): `reach` is what was mapped before. -/
def Ctx.runs (x : Ctx) (depth reach : Nat) : Ctx := { x.stepTaken with reach := max reach (x.commit + x.positions depth) }

/-- Select the work of the next step: shape and runs. -/
def State.selectWork (s : State) (heads : List (Nat × Nat)) (shapes : List ServShape) (p : Pending) : Pending :=
  let k := s.chooseDecode heads shapes p
  let chosen := sortBy (fun (c : Nat) => (c : Int)) k.chosen
  let pre := (s.choosePrefill heads k.p).filter fun c => s.mayPrefill heads k.p c
  let left := match pre with
    | some c => ((p.ctx c).prefills.head?.map (·.left)).getD 0
    | none => 0
  let shape := chooseShape shapes chosen.length left
  let sh := shapes.getD shape { d := 0, s := 0, c := 0 }
  let runs := (chosen.zip (upFrom 0 chosen.length)).map fun x => (x.2, (p.ctx x.1).decodeRun x.1 sh.s)
  let q := chosen.foldl (fun (q : Pending) c => q.setCtx c ((p.ctx c).runs sh.s (p.ctx c).reach)) k.p
  let p := { q with shape := shape, runs := runs, lastPrefill := q.holder }
  match pre.bind fun c => s.prefillChunk p c sh.c with
  | none => p
  | some r =>
    let p := (p.reserve r.ctx (r.pos + r.count)).setMeter (p.ctx r.ctx).meter { p.meter (p.ctx r.ctx).meter with last := some r.ctx }
    { p with runs := runs ++ [(1024, r)], lastPrefill := some r.ctx }

/-! ## The table image (R234, R235) -/

/-- A run entry's 64 bytes. -/
def RunEntry.bytes (r : RunEntry) : List Byte :=
  toBytes 4 (2 ^ 31 + 2 ^ 30 * b2n r.prefill + 2 ^ 29 * b2n r.lastChunk + 2 ^ 16 * r.spec + r.ctx) ++ toBytes 4 r.pos ++
  toBytes 4 r.count ++ toBytes 4 ((r.pos + r.count - 1) / 64 + 1) ++ toBytes 4 r.input.toNat ++
  (if r.prefill then toBytes 8 r.addr ++ List.replicate 24 0
   else (r.drafts ++ List.replicate (8 - r.drafts.length) 0).flatMap fun (d : Word) => toBytes 4 d.toNat) ++
  toBytes 8 r.seed.toNat ++ List.replicate 4 0

/-- A commit entry's 16 bytes. -/
def CommitEntry.bytes (e : CommitEntry) : List Byte :=
  toBytes 4 (2 ^ 31 + 2 ^ 30 * b2n e.ended + 2 ^ 29 * b2n e.prefill + e.ctx) ++ toBytes 4 e.oldc ++ toBytes 4 e.newc ++
  List.replicate 4 0

/-- The bytes of the entries 0 to n − 1 of a table, from entry `i`: `f` gives an entry's bytes, zeros where there is none. -/
def tableBytes (f : Nat → Option (List Byte)) (size : Nat) : Nat → Nat → List Byte
  | _, 0 => []
  | i, n + 1 => (f i).getD (List.replicate size 0) ++ tableBytes f size (i + 1) n

/-- The 147,600 bytes of a table image: `ended` are the runs of the ending step, whose commits come first in slot order. -/
def imageBytesOf (take cut : Nat) (ended : List (Nat × RunEntry)) (p : Pending) : List Byte :=
  let slots := ended.map (·.1)
  let commitAt := fun i =>
    if i < 1025 then (slots.findIdx? fun k => decide (k = i)).bind fun n => (p.commits[n]?).map (·.bytes)
    else (p.commits[slots.length + (i - 1025)]?).map (·.bytes)
  let runAt := fun i => (p.runs.find? fun r => decide (r.1 = i)).map fun r => r.2.bytes
  let pre := p.runs.any fun r => decide (r.1 = 1024)
  toBytes 2 take ++ toBytes 1 p.shape ++ toBytes 1 (b2n pre) ++ toBytes 2 (p.runs.filter fun r => decide (r.1 < 1024)).length ++
  toBytes 2 p.commits.length ++ toBytes 8 cut ++ List.replicate 48 0 ++ tableBytes runAt 64 0 1025 ++ tableBytes commitAt 16 0 5121

/-- The HBM address of an image buffer. -/
def State.imageAddr (s : State) (b : Nat) : Nat := s.fget Reg.SV_AREA_BASE + Config.areaOffset b

/-- The next buffer. -/
def State.nextBuffer (s : State) : Nat := 1 - s.serve.buffer

/-! ## SETTLE (R226) -/

/-- Whether a take's shape source is SERVE. -/
def State.shapesServed (s : State) : Bool :=
  match s.take.active with
  | some r => !r.shapePlan
  | none => false

/-- The serving shapes of the active reel. -/
def State.servShapes (s : State) : List ServShape :=
  match s.take.active with
  | some r => r.serving.shapes
  | none => []

/-- The settle tick of the step. -/
def State.settleTick (s : State) : Int := s.cutTick - 4096 * s.fget Reg.SV_TIMING_SETTLE

/-- Whether the step runs: RUNNING or DRAINING, plan time running, no replay stop wanted, a step shape in effect. -/
def State.stepRuns (s : State) : Bool :=
  (decide (s.dev = .running) || decide (s.dev = .draining)) && s.planRuns && !s.stopWanted && decide (0 < s.stepLength)

/-- Whether an order was received before the settle tick. -/
def ServeOrder.before (o : ServeOrder) (t : Int) : Bool :=
  match o.rcvd with
  | some p => decide (p < t)
  | none => true

/-- The orders a settle freezes: those of the recorded stream, those frozen before, or those received in time. -/
def State.freezeOrders (s : State) : List ServeOrder × State :=
  match s.serve.frozen with
  | some f => (f, s)
  | none =>
    let ok := s.serve.orders.takeWhile fun o => o.before s.settleTick
    let (a, b) := splitOrders (max 1 (min 4096 (s.fget Reg.SV_CTRL_MAXENT))) ok
    let rest := b ++ s.serve.orders.drop ok.length
    (a, { s with serve.orders := rest, serve.frozen := some a })

/-- The recorded serving entries of this settle, as orders that no host waits for. -/
def State.streamOrders (s : State) : Nat → List ServeOrder × State
  | 0 => ([], s)
  | fuel + 1 =>
    match s.streamTake fun e => decide (e.kind = 1) && decide (e.cut = s.fget Reg.SV_CUTS_CUTS) with
    | (none, s) => ([], s)
    | (some e, s) =>
      let o : ServeOrder :=
        { seq := e.words.getD 0 0, tag := 0, rcvd := none, entries := e.entries, fromEntry := 0, codes := [] }
      let (os, s) := s.streamOrders fuel
      (o :: os, s)

/-- (CTX, head) pairs as words, and back. -/
def headWords : List (Nat × Nat) → List DWord
  | [] => []
  | h :: hs => BitVec.ofNat 64 h.1 :: BitVec.ofNat 64 h.2 :: headWords hs

/-- The pairs that words hold. -/
def wordHeads : List DWord → List (Nat × Nat)
  | c :: h :: ws => (c.toNat, h.toNat) :: wordHeads ws
  | _ => []

/-- The ring heads that a settle samples. -/
def State.sampleHeads (s : State) : List (Nat × Nat) × State :=
  if 2 ≤ s.recState then
    match s.streamTake fun e => decide (e.kind = 2) && decide (e.cut = s.fget Reg.SV_CUTS_CUTS) with
    | (some e, s) => (wordHeads e.words, s)
    | (none, s) => ([], s)
  else (s.serve.ctxs.map fun x => (x.1, x.2.head), s)

/-- The inputs of a settle, frozen: a replayed step's settle takes the same (R231). -/
def State.settleInputs (s : State) : (List ServeOrder × List (Nat × Nat)) × State :=
  if s.serve.frozen.isSome then ((s.serve.frozen.getD [], s.serve.frozenHeads), s)
  else
    let (heads, s) := s.sampleHeads
    let (orders, s) := if 2 ≤ s.recState then s.streamOrders s.log.stream.length else s.freezeOrders
    ((orders, heads), { s with serve.frozen := some orders, serve.frozenHeads := heads })

/-- Record the inputs of a settle. -/
def State.recordSettle (s : State) (orders : List ServeOrder) (heads : List (Nat × Nat)) : State :=
  let s := orders.foldl (fun s o => s.recordInput 1 s.settleTick [o.seq] o.entries []) s
  if heads.isEmpty then s else s.recordInput 2 s.settleTick (headWords heads) [] []

/-- Pending results with nothing done. -/
def State.freshPending (s : State) : Pending :=
  let v := s.serve
  { ctxs := v.ctxs, meters := v.meters, ptrDec := v.ptrDec, ptrPre := v.ptrPre, lastPrefill := v.lastPrefill, shape := 0,
    commits := [], runs := [], records := [], done := [], left := [], digest := 0, emitted := 0, withheld := 0, rejected := 0,
    lost := 0, adopt := none }

/-- The settle of the step. -/
def State.settle (s : State) : State :=
  let ((orders, heads), s) := s.storesFirst.settleInputs
  let s := s.recordSettle orders heads
  let (p, s) := s.outputPhase heads s.serve.runs s.freshPending
  let p := Pending.loseCtxs heads s.serve.lostCtxs (Pending.lateErrors heads p.ctxs p)
  let p := s.applyOrders heads s.serve.orders orders (p, [])
  let p := s.selectWork heads s.servShapes p
  let img := imageBytesOf s.takeTag (s.fget Reg.SV_CUTS_CUTS + 1) s.serve.runs p
  let s := s.hbmPut (s.imageAddr s.nextBuffer) img
  { s with serve.pend := some { p with digest := crc64 img }, serve.lostCtxs := [] }.fset Reg.SV_STATUS_PHASE 2

/-- SETTLE: on the lead of a take whose shape source is SERVE, once per step. -/
def execSettle (s : State) : Host.Outcome State Fault Refusal :=
  if s.stepRuns = true ∧ s.shapesServed = true ∧ s.fget Reg.SV_CTRL_ROLE = 1 ∧ s.settleTick ≤ s.planNow ∧
      s.serve.pend.isNone = true ∧ s.take.msgSent = false then .next s.settle
  else .next s

end Sys2Proof.Machine
end

