-- ==== Sys2Proof/Machine/Cut.lean ====
section
/-! DEFINITION. The cut message, preparation and the cut; exchange and adoption; output rings; mirroring to the stand-in
(R227 to R231, R244, R246 to R251, R360 to R362). -/

namespace Sys2Proof.Machine

/-! ## The cut message (R192, R227, R374, R375) -/

/-- The gate index of the next cut. -/
def State.cutGate (s : State) : Nat := (s.cutTick / 4096).toNat

/-- The message that the lead sends: from the settle's image, or W0's SSEL since the last one; none where no image was built. -/
def State.ownMessage (s : State) : Option CutMsg :=
  let g := s.cutGate % 2 ^ 20
  if s.shapesServed then
    s.serve.pend.map fun p =>
      { gate := g, shape := p.shape, digest := p.digest, adopt := (p.adopt.map (·.1)).getD 0 }
  else
    some { gate := g, shape := s.take.ssel.getD s.take.shape, digest := 0, adopt := 0 }

/-- A cut message has left or arrived: an SSEL since the last one counts no more (Table 06.23), but for one of W0 at or after the message's
tick, which is for the following one (R192). -/
def State.passNominations (s : State) : State :=
  let late := s.take.sselLate
  let s := (upFrom 0 4).foldl (fun s cl => if cl = 0 ∧ late.isSome = true then s else s.fsetb (Reg.CL_SEQ_SSEL_VALID cl) false) s
  { s with take.ssel := late, take.sselLate := none }

/-- Send the cut message. -/
def State.sendCut (s : State) (m : CutMsg) : State :=
  let s := (s.emitCut m.gate m.shape m.digest m.adopt s.takeLinks).passNominations
  { s with take.cutMsg := some m, take.msgSent := true }

/-- CUT_MESSAGE_SEND: the lead at cut − READY × 4,096. -/
def execCutMessageSend (s : State) : Host.Outcome State Fault Refusal :=
  if s.isLead = true ∧ s.stepRuns = true ∧ s.take.msgSent = false ∧
      s.cutTick - 4096 * s.fget Reg.SV_TIMING_READY ≤ s.planNow then
    match s.ownMessage with
    | some m => .next (s.sendCut m)
    | none => .next s
  else .next s

/-- A CUT set in a replay stop: the replay order, unless it is the faulted step's cut message. -/
def State.hearOrder (s : State) (st : StopState) (l gate shape : Nat) (digest : DWord) : State :=
  if st.order.isSome ∨ (gate = s.cutGate % 2 ^ 20 ∧ gate ≠ s.cutOrder.1) then s
  else
    let s := s.emitCut gate shape digest 0 (s.takeLinks.filter (· ≠ l))
    { s with time.stop := some { st with order := some (gate, shape, digest) } }

/-- A CUT set while the step runs: a replay order fences the device; the next cut's message is taken and forwarded once. -/
def State.hearCut (s : State) (l gate shape : Nat) (digest : DWord) (adopt : Nat) : State :=
  if gate = s.cutOrder.1 then s.leadUnheard
  else if gate ≠ s.cutGate % 2 ^ 20 ∨ s.take.cutMsg.isSome then s
  else
    let m : CutMsg := { gate := gate, shape := shape, digest := digest, adopt := adopt }
    { (s.emitCut gate shape digest adopt (s.takeLinks.filter (· ≠ l))).passNominations with take.cutMsg := some m }

/-- CUT_MESSAGE_RECEIVE. A set of another take is discarded with a notice; a device outside a take, or fenced, takes none; a link
that is not open or not MATCH carries none (R320). -/
def execCutMessageReceive (r : SetRx) (take gate shape : Nat) (digest : DWord) (adopt : Nat) (s : State) :
    Host.Outcome State Fault Refusal :=
  let l := r.link.val
  if s.dev = .off ∨ s.dev = .failed ∨ s.linkState l < stateAlign ∨ stateUp < s.linkState l ∨ s.matched l = false then .next s
  else
  let content := [4, take, gate, shape, digest.toNat, adopt]
  let again := (s.link l).further r.copy content
  let s := s.receiveSet l r.copy content
  if again then .next s
  else if s.dev.inTake = false ∨ take ≠ s.takeTag then .next (s.notice 57 take)
  else if s.dev = .fenced ∨ s.dev = .armed then .next s
  else
    match s.time.stop with
    | some st => .next (s.hearOrder st l gate shape digest)
    | none => .next (s.hearCut l gate shape digest adopt)

/-! ## Reading a table image -/

/-- The run entries of an image, with their indices. -/
def imageRuns (img : List Byte) : List (Nat × RunEntry) :=
  (upFrom 0 1025).filterMap fun i =>
    let o := 64 + 64 * i
    let w := (wordAt img o).toNat
    if bitOf w 31 then
      let pre := bitOf w 30
      some (i, { prefill := pre, lastChunk := bitOf w 29, spec := bitsOf 19 16 w, ctx := bitsOf 14 0 w,
                 pos := (wordAt img (o + 4)).toNat, count := (wordAt img (o + 8)).toNat, input := wordAt img (o + 16),
                 drafts := if pre then [] else leWords ((img.drop (o + 20)).take 32),
                 addr := if pre then ofBytes ((img.drop (o + 20)).take 8) else 0,
                 seed := BitVec.ofNat 64 (ofBytes ((img.drop (o + 52)).take 8)) })
    else none

/-- The commit entries of an image, in order. -/
def imageCommits (img : List Byte) : List CommitEntry :=
  (upFrom 0 5121).filterMap fun i =>
    let o := 64 + 64 * 1025 + 16 * i
    let w := (wordAt img o).toNat
    if bitOf w 31 then
      some { ended := bitOf w 30, prefill := bitOf w 29, ctx := bitsOf 14 0 w, oldc := (wordAt img (o + 4)).toNat,
             newc := (wordAt img (o + 8)).toNat }
    else none

/-- The image in the next buffer. -/
def State.nextImage (s : State) : List Byte := memRead s.hbm (s.imageAddr s.nextBuffer) 147600

/-- Whether an image is the one for the next cut of this take. -/
def State.imageCurrent (s : State) (img : List Byte) : Bool :=
  decide (ofBytes (img.take 2) = s.takeTag) && decide (ofBytes ((img.drop 8).take 8) = s.fget Reg.SV_CUTS_CUTS + 1)

/-! ## Page frames (R242 to R244) -/

/-- The HBM address of a page table entry. -/
def State.pageEntry (s : State) (ctx lp : Nat) : Nat := s.fget Reg.SV_AREA_BASE + 0x10000000 + ctx * 32768 + 4 * lp

/-- A page table entry. -/
def State.pageWord (s : State) (ctx lp : Nat) : Nat := ofBytes (memRead s.hbm (s.pageEntry ctx lp) 4)

/-- The local pages of a context that are mapped, ascending. -/
def State.mappedPages (s : State) (ctx : Nat) : List Nat :=
  let base := s.pageEntry ctx 0
  s.hbm.filterMap fun e =>
    if base ≤ e.1 ∧ e.1 < base + 32768 ∧ (e.1 - base) % 4 = 3 ∧ 128 ≤ e.2.toNat then some ((e.1 - base) / 4) else none

/-- The frames of a context, in ascending local page order. -/
def State.framesOf (s : State) (ctx : Nat) : List Nat := (s.mappedPages ctx).map fun lp => s.pageWord ctx lp % 2 ^ 24

/-- Free lists in the making: own frames, mirror frames, mappings (context, local page, frame), whether a frame was lacking. -/
structure Alloc where
  free : List Nat
  mirrorFree : List Nat
  maps : List (Nat × Nat × Nat)
  lacking : Bool

/-- Frames of a freed context return to the head of its half's list. -/
def State.returnFrames (s : State) (a : Alloc) (c : Nat) : Alloc :=
  if s.mirrorHalf c then { a with mirrorFree := s.framesOf c ++ a.mirrorFree } else { a with free := s.framesOf c ++ a.free }

/-- Map one local page of a context with the next frame of its half. -/
def State.allocPage (s : State) (a : Alloc) (c lp : Nat) : Alloc :=
  if s.mirrorHalf c then
    match a.mirrorFree with
    | f :: fs => { a with mirrorFree := fs, maps := a.maps ++ [(c, lp, f)] }
    | [] => { a with lacking := true }
  else
    match a.free with
    | f :: fs => { a with free := fs, maps := a.maps ++ [(c, lp, f)] }
    | [] => { a with lacking := true }

/-- The local pages on this device that positions [pos, pos + n) lie in. -/
def State.localPages (s : State) (pos n : Nat) : List Nat :=
  let nr := s.fget Reg.SV_KV_CFG_NRANK + 1
  let g0 := pos / 64
  ((upFrom g0 ((pos + n + 63) / 64 - g0)).filter fun g => decide (g % nr = s.fget Reg.SV_KV_CFG_KRANK) && decide (g / nr < 8192)).map (· / nr)

/-- Map every unmapped page of a run; `freed` are contexts whose old pages are gone by then. -/
def State.allocRun (s : State) (freed : List Nat) (a : Alloc) (r : RunEntry) : Alloc :=
  (s.localPages r.pos r.count).foldl (fun a lp =>
    let old := !freed.contains r.ctx && decide (2 ^ 31 ≤ s.pageWord r.ctx lp)
    if old || a.maps.any (fun m => decide (m.1 = r.ctx) && decide (m.2.1 = lp)) then a else s.allocPage a r.ctx lp) a

/-- Prepare the commit and the page mappings of the next step (R228, R244). -/
def State.prepare (s : State) (img : List Byte) : State :=
  let commits := imageCommits img
  let freed := ((commits.filter (·.ended)).map (·.ctx)).eraseDups
  let a : Alloc := { free := s.serve.freeList, mirrorFree := s.serve.mirrorFree, maps := [], lacking := false }
  let a := freed.foldl (fun a c => s.returnFrames a c) a
  let a := (imageRuns img).foldl (fun a r => s.allocRun freed a r.2) a
  let p : Prepared := { maps := a.maps, free := a.free, mirrorFree := a.mirrorFree, lacking := a.lacking, commits := commits }
  { s with serve.prepared := some p }.fset Reg.SV_STATUS_PHASE 3

/-- PREPARE: once the image for the next cut is in the next buffer. -/
def execPrepare (s : State) : Host.Outcome State Fault Refusal :=
  let img := s.nextImage
  if s.stepRuns = true ∧ s.shapesServed = true ∧ s.fget Reg.SV_CTRL_ROLE ≠ 0 ∧ s.serve.prepared.isNone = true ∧
      s.imageCurrent img = true then .next (s.storesFirst.prepare img)
  else .next s

/-! ## The checks of a cut (R229) -/

/-- The device's own digest of its next buffer, none where a unit of it is poisoned; 0 in a take whose shape source is PLAN. -/
def State.ownDigest (s : State) : Option DWord × State :=
  if s.shapesServed then
    let ((bs, ps), s) := s.hbmRead (s.imageAddr s.nextBuffer) 147600
    (if ps.any id then none else some (crc64 bs), s)
  else (some 0, s)

/-- The case bits of SV_STATUS that a cut fault sets: DIGERR, NOMSG, LATEPREP, POOLERR. -/
def State.cutErrors (s : State) (own : Option DWord) : Bool × Bool × Bool × Bool :=
  let dig := match s.take.cutMsg with
    | some m => decide (own ≠ some m.digest)
    | none => false
  let late := s.shapesServed && s.serve.prepared.isNone
  let pool := match s.serve.prepared with
    | some p => p.lacking
    | none => false
  (dig, s.take.cutMsg.isNone, late, pool)

/-- Set a status bit that a condition calls for. -/
def State.mark (s : State) (f : Fld) (b : Bool) : State := if b then s.fsetb f true else s

/-- A cut fault: source 0x25, nothing commits. -/
def State.cutFault (s : State) (e : Bool × Bool × Bool × Bool) : State :=
  let s := ((s.mark Reg.SV_STATUS_DIGERR e.1).mark Reg.SV_STATUS_NOMSG e.2.1).mark Reg.SV_STATUS_LATEPREP e.2.2.1
  (s.mark Reg.SV_STATUS_POOLERR e.2.2.2).raise 0x25 0 0 (Config.faultDetail 0x25 s.cutGate).toNat

/-! ## What a cut commits (R230) -/

/-- Clear the page table entries of a context. -/
def State.unmapCtx (s : State) (c : Nat) : State :=
  (s.mappedPages c).foldl (fun s lp => s.hbmPut (s.pageEntry c lp) (toBytes 4 0)) s

/-- A commit on a device that is not the lead: the pointer advances, or the context is freed. -/
def State.commitFollower (s : State) (e : CommitEntry) : State :=
  if e.ended then s.setCtx e.ctx (s.ctx e.ctx).freed
  else s.setCtx e.ctx { s.ctx e.ctx with commit := e.newc, st := .held }

/-- The commit part, then the run part (R230, steps 1 and 2). -/
def State.commitPages (s : State) (p : Prepared) : State :=
  let s := ((p.commits.filter (·.ended)).map (·.ctx)).foldl (fun s c => s.unmapCtx c) s
  let s := if s.fget Reg.SV_CTRL_ROLE = 2 then p.commits.foldl (fun s e => s.commitFollower e) s else s
  let s := p.maps.foldl (fun s m => s.hbmPut (s.pageEntry m.1 m.2.1) (toBytes 4 (2 ^ 31 + m.2.2))) s
  { s with serve.freeList := p.free, serve.mirrorFree := p.mirrorFree }.fset Reg.SV_POOL_FREE_FREE p.free.length

/-- Waiting records of a context that have room in their ring. -/
def Ctx.reachable (x : Ctx) : List RingRecord := x.ready.filter fun r => !r.fresh || decide (r.seq < x.head + 2 ^ r.log)

/-- A context at the cut: as the settle left it, its ring as it is now. Opened anew, it has a new ring; of what waited for the old
one, the records with room are still written. -/
def Ctx.merge (live pend : Ctx) : Ctx :=
  if live.gen = pend.gen then
    { pend with head := live.head, wrote := live.wrote, lastTail := live.lastTail, lastIrq := live.lastIrq,
                tailDirty := live.tailDirty, irqDirty := live.irqDirty, ready := live.ready }
  else { pend with ready := live.reachable.map fun r => { r with fresh := false } }

/-- The contexts at the cut: mirrors as they are, the others as the settle left them. -/
def State.mergeCtxs (s : State) (p : Pending) : SMap Ctx :=
  let mirrors := s.serve.ctxs.filter (·.2.mirror)
  (p.ctxs.filter fun x => !x.2.mirror).foldl (fun m x => mapPut (fun _ => Ctx.initial) m x.1 ((s.ctx x.1).merge x.2)) mirrors

/-- The contexts that a cut opens anew, as they are before it. -/
def State.reopened (s : State) (p : Pending) : List Ctx :=
  ((p.ctxs.filter fun x => !x.2.mirror).map fun x => (s.ctx x.1, x.2)).filterMap fun x => if x.1.gen = x.2.gen then none else some x.1

/-- Write the tail of a ring: bytes 0 to 3 of its tail block (R246). -/
def State.postTail (s : State) (base : DWord) (log seq : Nat) : State :=
  s.hostPost (base + BitVec.ofNat 64 (2 ^ log * 64)) (toBytes 4 seq)

/-- What an old ring is owed goes out when its context is opened anew: tail and interrupt; the records that can no longer be
written are dropped. -/
def State.closeRing (s : State) (x : Ctx) : State :=
  let s := if x.tailDirty then s.postTail x.ringBase x.ringLog x.wrote else s
  let s := if x.irqDirty then s.hostIrq x.vector else s
  s.bumpBy Reg.SV_STATUS_BKLOST (x.ready.length - x.reachable.length)

/-- Release the records of a cut to their contexts' rings, in order (R247). -/
def State.release (s : State) (wall cut : Nat) (rs : List RingRecord) : State :=
  rs.foldl (fun s r =>
    let x := s.ctx r.ctx
    let r := { r with wall := wall, cut := cut, holdover := s.holdover, stamp := s.serve.stamp }
    { s with serve.stamp := s.serve.stamp + 1 }.setCtx r.ctx { x with ready := x.ready ++ [r] }) s

/-- Attach the codes of a partly applied order to what waits of it. -/
def putCodes (left orders : List ServeOrder) : List ServeOrder :=
  orders.map fun o =>
    match left.find? fun q => decide (q.seq = o.seq) with
    | some q => { o with codes := q.codes }
    | none => o

/-- The lead's part of the commit (R230, step 3): meters, contexts, pointers, counts; the orders applied complete. -/
def State.commitLead (s : State) (p : Pending) (wall cut : Nat) : State :=
  let v : Serve :=
    { s.serve with ctxs := s.mergeCtxs p, meters := p.meters, ptrDec := p.ptrDec, ptrPre := p.ptrPre,
                   lastPrefill := p.lastPrefill, runs := p.runs, orders := putCodes p.left s.serve.orders }
  let old := s.reopened p
  let s := old.foldl (fun (s : State) x => s.closeRing x) { s with serve := v }
  let s := (s.bumpBy Reg.SV_EMITTED_COUNT p.emitted).bumpBy Reg.SV_WITHHELD_COUNT p.withheld
  let s := ((s.bumpBy Reg.SV_REJECTED_COUNT p.rejected).bumpBy Reg.SV_STATUS_BKLOST p.lost).release wall cut p.records
  p.done.foldl (fun s o => s.finishSeq o.seq { status := .ok, detail := 0, result := 0, codes := o.codes }) s

/-! ## Adoption (R251) -/

/-- A context adopted as of a kept cut. -/
def State.adoptCtx (s : State) (m : MirrorCtx) : State :=
  let live := s.ctx m.ctx
  let x := match m.entry with
    | some e => { e with mirror := false, commit := m.commit, reach := live.reach, gen := live.gen + 1, ready := [] }
    | none => { live with mirror := false, commit := m.commit, st := CtxState.held }
  s.setCtx m.ctx x

/-- The record that an adoption writes for a context of the lead. -/
def State.adoptRecord (s : State) (wall cut type : Nat) (m : MirrorCtx) : State :=
  match m.entry with
  | none => s
  | some e =>
    let v := mapGet (fun _ => Meter.initial) s.serve.meters e.meter
    let s := s.release wall cut [ringRecord m.ctx e type 0 m.commit v.count 0]
    s.setCtx m.ctx { s.ctx m.ctx with ringSeq := e.ringSeq + 1 }

/-- A context that only cuts later than K hold: it is freed, and its ring is the one recorded in the later cut (R251). -/
def State.loseMirror (s : State) (m : MirrorCtx) : State :=
  let fs := (s.mappedPages m.ctx).map fun lp => s.pageWord m.ctx lp % 2 ^ 24
  let s := { s.unmapCtx m.ctx with serve.mirrorFree := fs ++ s.serve.mirrorFree }
  let x := m.entry.getD (s.ctx m.ctx)
  s.setCtx m.ctx { x.freed with gen := (s.ctx m.ctx).gen + 1, ready := [] }

/-- Meters of a kept cut become the device's own. -/
def State.adoptMeters (s : State) (ms : List (Nat × Nat × Nat)) : State :=
  ms.foldl (fun s m =>
    let x := mapGet (fun _ => Meter.initial) s.serve.meters m.1
    { s with serve.meters := mapPut (fun _ => Meter.initial) s.serve.meters m.1 { x with count := m.2.1, weight := m.2.2 } }) s

/-- The contexts of kept cuts later than `k` that the cut `k` lacks, each as its latest cut has it. -/
def lostAfter (kept : List MirrorCut) (k : MirrorCut) : List MirrorCtx :=
  let late := (kept.filter fun c => decide (k.cut < c.cut)).flatMap (·.ctxs)
  late.foldl (fun ls m =>
    if k.ctxs.any fun x => decide (x.ctx = m.ctx) then ls else ls.filter (fun x => decide (x.ctx ≠ m.ctx)) ++ [m]) []

/-- Adopt the lost take's contexts as of cut `k`. -/
def State.adopt (s : State) (k wall cut : Nat) : State :=
  let s := match s.serve.kept.find? fun m => decide (m.cut = k) with
    | none => s
    | some m =>
      let s := m.ctxs.foldl (fun (s : State) x => s.adoptCtx x) s
      let s := s.adoptMeters m.meters
      let s := m.ctxs.foldl (fun (s : State) x => s.adoptRecord wall cut 6 x) s
      (lostAfter s.serve.kept m).foldl (fun (s : State) x => (s.loseMirror x).adoptRecord wall cut 7 x) s
  let s := (s.fsetb Reg.SV_MIRROR_EN false).fsetb Reg.SV_MIRROR_STAT_BROKEN true
  { s with take.members := true }

/-- The adoption that the cut message names: the lead knows the cut index from its entry; how a follower learns it is open, and its value
free (log 55). -/
def State.adoptAtCut (s : State) (wall cut : Nat) : State :=
  match s.take.cutMsg with
  | none => s
  | some m =>
    if m.adopt = 0 then s
    else
      let k := match s.serve.pend.bind (·.adopt) with
        | some a => a.2
        | none => Config.adoptedCut m.adopt m.digest
      s.adopt k wall cut

/-! ## Exchange (R360 to R362) -/

/-- The device of a KV rank in a reel. -/
def Reel.kvDevice (r : Reel) (rank : Nat) : Option Nat := (r.members.find? fun m => decide (m.kvRank = rank)).map (·.device)

/-- The own contexts. -/
def State.ownCtxs (s : State) : List Ctx := (s.serve.ctxs.filter fun x => !x.2.mirror).map (·.2)

/-- The KV condition of an exchange. -/
def State.kvKept (s : State) (old new : Reel) : Bool :=
  let ranks := (upFrom 0 old.serving.nrank).filter fun r => old.kvDevice r != new.kvDevice r
  (ranks.all fun r => s.ownCtxs.all fun x => decide (x.commit ≤ 64 * r)) &&
  (decide (old.serving.nrank = new.serving.nrank) || s.ownCtxs.all fun x => decide (x.st = .free) || decide (x.commit = 0))

/-- Why an exchange is refused at its cut: `w` is the cut's wall tick. -/
def State.exchangeRefused (s : State) (old new : Reel) (w tj : Nat) : Option Nat :=
  if s.take.members then some 0x25
  else if !s.kvKept old new then some 0x26
  else if tj ≠ 0 ∧ tj < w + 65536 then some 0x27
  else none

/-- Count and log one cancelled operation of the old reel. -/
def State.cancelled (s : State) (ctr : Nat) : State :=
  (s.bump Reg.HI_XCHG_STAT_CANCELLED).logEvent 0x88 0 0 0 ctr

/-- Counters of the landings of a list that are due after a tick. -/
def lateLandings (ls : List Landing) (t : Int) : List Nat :=
  (ls.filter fun l => !l.released && decide (t < l.p)).map fun l => if l.flag then l.sync else 0

/-- Landings of a list that stay: released, or due by a tick. -/
def keepLandings (ls : List Landing) (t : Int) : List Landing := ls.filter fun l => l.released || decide (l.p ≤ t)

/-- Cancel what the old reel has due at or after the cut: SIG, SETC and REDX results, and the landings due after it. -/
def State.cancelOld (s : State) (t : Int) : State :=
  let sched := (s.take.sched.filter fun e => decide (t ≤ e.due)).map (·.ctr)
  let redx := s.seqs.flatMap fun q => (q.2.redx.filter fun r => r.issued && decide (t ≤ r.p)).map fun _ => 0
  let land := s.cores.flatMap fun c => lateLandings (c.2.landing ++ c.2.inflight) t
  let hbm := s.hbmStacks.flatMap fun k => lateLandings k.2.landing t
  let s := { s with take.sched := s.take.sched.filter fun e => decide (e.due < t),
                    seqs := mapAll (fun _ => Seq.initial) (fun q => { q with redx := q.redx.filter fun r => decide (r.p < t) }) s.seqs,
                    cores := mapAll (fun _ => Core.initial) (fun c =>
                      { c with landing := keepLandings c.landing t, inflight := keepLandings c.inflight t }) s.cores,
                    hbmStacks := mapAll (fun _ => Stack.initial) (fun k => { k with landing := keepLandings k.landing t }) s.hbmStacks }
  (sched ++ redx ++ land ++ hbm).foldl (fun s c => s.cancelled c) s

/-- Clear the latches that the new reel does not carry. -/
def State.carryTrigs (s : State) (carry : BitVec 4) : State :=
  (upFrom 0 4).foldl (fun s n => if carry.getLsbD n then s else s.clearTrig n) s

/-- The pause of an exchange with joiners: from wall tick `w` to T_J, and the pending gates to the links that the new reel
adds. -/
def State.exchangePause (s : State) (t : Int) (w tj : Nat) (added : List Nat) : State :=
  let frames := (tj - w) / 512
  let h : HoldState := { tick := t, wallAt := w, frames := frames, pause := true }
  let s := { s with time.frozen := some t, time.hold := some h, take.pauseTo := some tj }.toHolding
  let s := (s.bumpBy Reg.TB_HELD_FRAMES_FRAMES frames).fadeAll
  s.time.gates.foldl (fun s g =>
    ((upFrom 1 6).filter (bitOf g.reasons.toNat ·)).foldl (fun (s : State) r =>
      s.emitHold s.takeTag g.gate (if r = 6 then 0 else g.frames) r s.deviceId added) s) s

/-- The exchange takes effect: banks flip, old operations are cancelled, the new reel's grid is mapped, as a take that starts it would
have it (R28, R353), and its control values are loaded. -/
def State.flipReel (s : State) (new : Reel) (t : Int) : State :=
  let s := (s.cancelOld t).mapGrid new.grid
  let s := ((s.loadBanks new).carryTrigs new.trigCarry).loadControl new
  { s with take.staged := none }

/-- A pending exchange: its cut, and the wall tick at which the joiners start. -/
def State.setExchange (s : State) (k tj : Nat) : State :=
  ({ s with take.exchange := some (k, tj), take.members := false }.fset Reg.HI_XCHG_CUT_VALUE k).fset Reg.HI_XCHG_TJ_VALUE tj

/-- No exchange is pending. -/
def State.dropExchange (s : State) : State :=
  ({ s with take.exchange := none }.fset Reg.HI_XCHG_CUT_VALUE 0).fset Reg.HI_XCHG_TJ_VALUE 0

/-- The end of an exchange order. -/
def State.exchangeEnds (s : State) (v : Verdict) (result : Nat) : State :=
  ((s.finishOp 0x06 v).fset Reg.HI_XCHG_STAT_RESULT result).dropExchange

/-! ## CUT -/

/-- The step's registers at a cut. -/
def State.cutRegisters (s : State) (index shape : Nat) (digest : DWord) (runs : List (Nat × RunEntry)) : State :=
  let s := (s.fset Reg.SV_CUTS_CUTS index).fset Reg.SV_DIGEST_DIGEST digest.toNat
  let s := (s.fset Reg.SV_LAST_SHAPE shape).fsetb Reg.SV_LAST_PREFILL (runs.any fun r => decide (r.1 = 1024))
  let s := s.fset Reg.SV_LAST_NDEC (runs.filter fun r => decide (r.1 < 1024)).length
  (s.fset Reg.SV_STATUS_PHASE 0).fset Reg.FC_STATUS_REPLAYS 0

/-- The clusters that still execute a segment, or whose arrays are still at work: an overrun at the cut (R45, R130). -/
def State.overruns (s : State) : List Nat :=
  (upFrom 0 4).filter fun c => !s.halted c && ((s.seq c).executing || (s.coresOf c).any (s.arraysBusy ·))

/-- Every core swaps its carried halves (R151). -/
def State.swapAll (s : State) : State :=
  let s := s.mappedCores.foldl (fun s key => s.swapCarried key) s
  { s with carriedOk := some s.written }

/-- Whether the device mirrors its commits. -/
def State.mirrors (s : State) : Bool :=
  s.flag Reg.SV_MIRROR_EN && !s.flag Reg.SV_MIRROR_STAT_BROKEN && decide (s.fget Reg.SV_CTRL_ROLE ≠ 0)

/-- The KV of one committed position in this device's local pages: local page, offset, bytes, flags. A frame holds its page's 64
positions in order, in equal parts (PRESUMED, log 57). -/
def State.kvPiece (s : State) (c q : Nat) : List (Nat × Nat × List Byte × List Bool) × State :=
  let size := 32 * s.fget Reg.SV_POOL_STRIDE_STRIDE
  let a := q % 64 * size / 64
  match (s.localPages q 1).filter fun lp => decide (2 ^ 31 ≤ s.pageWord c lp) with
  | [] => ([], s)
  | lp :: _ =>
    let ((bs, ps), s) := s.hbmRead (s.fget Reg.SV_POOL_BASE_BASE + s.pageWord c lp % 2 ^ 24 * size + a) ((q % 64 + 1) * size / 64 - a)
    ([(lp, a, bs, ps)], s)

/-- The KV pieces of a run of positions. -/
def State.kvPieces (s : State) (c : Nat) : List Nat → List (Nat × Nat × List Byte × List Bool) × State
  | [] => ([], s)
  | q :: qs =>
    let (x, s) := s.kvPiece c q
    let (xs, s) := s.kvPieces c qs
    (x ++ xs, s)

/-- The committed KV that a cut mirrors, read while the pages of its ended contexts are still mapped (R249). -/
def State.mirrorKv (s : State) : List CommitEntry → List MirrorCtx × State
  | [] => ([], s)
  | e :: es =>
    let (kv, s) := s.kvPieces e.ctx (upFrom e.oldc (e.newc - e.oldc))
    let (ms, s) := s.mirrorKv es
    ({ ctx := e.ctx, commit := e.newc, kv := kv, entry := none } :: ms, s)

/-- The own context records and meters that the lead mirrors. -/
def State.ownRecords (s : State) : List MirrorCtx × List (Nat × Nat × Nat) :=
  if s.fget Reg.SV_CTRL_ROLE = 1 then
    ((s.serve.ctxs.filter fun x => !x.2.mirror && decide (x.2.st ≠ .free)).map fun x =>
        { ctx := x.1, commit := x.2.commit, kv := [], entry := some x.2 },
     (s.serve.meters.filter fun m => s.ownMeter m.1).map fun m => (m.1, m.2.count, m.2.weight))
  else ([], [])

/-- Queue the cut's mirror, with the context records as the cut leaves them, or stop mirroring where MAXLAG cuts are unacknowledged
(R249, R250). -/
def State.queueMirror (s : State) (index : Nat) (commits : List CommitEntry) (kv : List MirrorCtx) : State :=
  if !s.mirrors then s
  else if s.fget Reg.SV_MIRROR_MAXLAG ≤ s.serve.mirrorQueue.length + s.serve.unacked.length then
    let s := { s with serve.mirrorQueue := [], serve.unacked := [] }.fsetb Reg.SV_MIRROR_STAT_BROKEN true
    s.raise 0x09 0 0 (Config.faultDetail 0x09 index).toNat
  else
    let job : MirrorJob := { cut := index, commits := commits, ctxs := kv ++ s.ownRecords.1, meters := s.ownRecords.2 }
    { s with serve.mirrorQueue := s.serve.mirrorQueue ++ [job] }

/-- Entries of a replayed stream for a RESUME before this cut are skipped (R435). -/
def State.skipResumes (s : State) (index : Nat) : State :=
  let f := fun (e : RecEntry) => decide (e.kind = 5) && decide (e.cut < index)
  let n := (s.log.stream.filter f).length
  if s.recState = 2 ∧ 0 < n then
    { s with log.stream := s.log.stream.filter fun e => !f e }.bumpBy Reg.CN_REC_SKIP_COUNT n
  else s

/-- The EXCHANGE orders of a replayed stream that were given before this cut, in order; K = 0 cancels. -/
def State.streamExchange (s : State) (index : Nat) : Nat → State
  | 0 => s
  | fuel + 1 =>
    if s.recState ≠ 2 then s
    else
      match s.streamTake fun e => decide (e.kind = 6) && decide (e.cut < index) with
      | (some e, s) =>
        let k := (e.words.getD 0 0).toNat
        (if k = 0 then s.dropExchange else s.setExchange k (e.words.getD 1 0).toNat).streamExchange index fuel
      | (none, s) => s

/-- The step after the cut starts: shape, counters, carried halves, triggers, counts of the step. -/
def State.startNext (s : State) (shape : Nat) (t : Int) : State :=
  let late := s.overruns
  let s := (s.beginStep shape t).snapTriggers
  let s := { s with time.held := 0, serve.pend := none, serve.prepared := none, serve.frozen := none, serve.frozenHeads := [],
                    take.firstDone := true }
  let s := if s.faults.admission = .joined then { s with faults.admission := .idle } else s
  late.foldl (fun s c => s.haltAtAddr c 0x41 none (((s.cueEntry c 0).map (·.addr)).getD 0)) s.flushRecord

/-- An exchange whose conditions hold, at its cut. -/
def State.doExchange (s : State) (new : Reel) (shape : Nat) (t : Int) (w tj : Nat) : State :=
  if (new.member s.deviceId).isNone then (s.exchangeEnds (.plain .ok 0) 0).leaveTake
  else
    let before := s.takeLinks
    let s := (s.flipReel new t).startNext shape t
    let added := s.takeLinks.filter fun l => !before.contains l
    let s := (s.exchangeEnds (.plain .ok 0) 0).logEvent 0x84 0 0 0 (4 * 2 ^ 28 + new.take)
    if tj = 0 then s else s.exchangePause t w tj added

/-- The step start at a cut: under the staged reel where an exchange takes effect, else under the old one. A refused exchange leaves the
staged reel held (DESIGN CHOICE, log 113: R24 says only that the take continues under the old reel). -/
def State.turnStep (s : State) (index shape : Nat) (t : Int) : State :=
  match s.take.exchange, s.take.active, s.take.staged with
  | some (k, tj), some old, some new =>
    if k ≠ index then s.startNext shape t
    else
      match s.exchangeRefused old new (s.wallOf t) tj with
      | some d => (s.startNext shape t).exchangeEnds (.plain .refused d) d
      | none => s.doExchange new shape t (s.wallOf t) tj
  | _, _, _ => s.startNext shape t

/-- The end of a take at the cut that a DRAIN names. -/
def State.drainCut (s : State) (index : Nat) : State :=
  match s.take.drainAt with
  | some k => if k ≤ index then (s.finishOp 0x05 (.plain .ok 0)).leaveTake else s
  | none => s

/-- The commit of a cut. -/
def State.commitCut (s : State) (m : CutMsg) (digest : DWord) : State :=
  let t := s.cutTick
  let wall := s.wallOf t
  let index := s.fget Reg.SV_CUTS_CUTS + 1
  let commits := (s.serve.prepared.map (·.commits)).getD []
  let runs := if s.shapesServed then imageRuns s.nextImage else []
  let (kv, s) := if s.mirrors then s.mirrorKv commits else ([], s)
  let s := match s.serve.prepared with
    | some p => s.commitPages p
    | none => s
  let s := match s.serve.pend with
    | some p => s.commitLead p wall index
    | none => s
  let s := s.adoptAtCut wall index
  let s := if s.shapesServed then { s with serve.buffer := s.nextBuffer } else s
  let s := (s.cutRegisters index m.shape digest runs).queueMirror index commits kv
  let s := ((s.skipResumes index).streamExchange index s.log.stream.length).swapAll
  (s.turnStep index m.shape t).drainCut index

/-- What happens before a cut's tick: what is due applies, and bundles that hold nothing to issue pass. -/
def State.beforeCut (s : State) : State :=
  (upFrom 0 4).foldl (fun u c => u.runTo c s.cutTick) (s.settleDue (s.cutTick - 1))

/-- CUT: once plan time has reached the cut's tick and no gate at or before it is pending (R63). -/
def execCut (s : State) : Host.Outcome State Fault Refusal :=
  if s.stepRuns = true ∧ s.cutTick ≤ s.planNow ∧ (s.time.gates.all fun g => decide (s.cutTick < 4096 * g.gate)) = true then
    let s := s.beforeCut
    let (own, s) := s.ownDigest
    let e := s.cutErrors own
    if e.1 || e.2.1 || e.2.2.1 || e.2.2.2 then .next (s.cutFault e)
    else
      match s.take.cutMsg, own with
      | some m, some d => .next (s.commitCut m d)
      | _, _ => .next s
  else .next s

/-- EXCHANGE_PAUSE_END. -/
def execExchangePauseEnd (s : State) : Host.Outcome State Fault Refusal :=
  match s.time.hold, s.take.pauseTo with
  | some h, some tj =>
    if h.pause = true ∧ tj ≤ s.wallNow then .next ({ s with take.pauseTo := none }.endHold h) else .next s
  | _, _ => .next s

/-! ## Output rings (R246 to R248) -/

/-- The address of a record in its ring. -/
def RingRecord.addr (r : RingRecord) : DWord := r.base + BitVec.ofNat 64 (r.seq % 2 ^ r.log * 64)

/-- Whether a record has room: below the head reported plus the ring's size, and fewer than 4,096 items undelivered. -/
def State.ringRoom (s : State) (x : Ctx) (r : RingRecord) : Bool :=
  decide (s.host.posted.length < 4096) && (!r.fresh || decide (r.seq < x.head + 2 ^ r.log))

/-- The PHASE of a record (R246). -/
def RingRecord.phase (r : RingRecord) : Bool := decide (r.seq / 2 ^ r.log % 2 = 0)

/-- Write a context's tail. -/
def State.writeTail (s : State) (c : Nat) : State :=
  let x := s.ctx c
  let s := s.postTail x.ringBase x.ringLog x.wrote
  s.setCtx c { x with tailDirty := false, lastTail := s.wallNow }

/-- Send a context's MSI-X message. -/
def State.writeIrq (s : State) (c : Nat) : State :=
  let x := s.ctx c
  (s.hostIrq x.vector).setCtx c { x with irqDirty := false, lastIrq := s.wallNow }

/-- Whether a context's tail may be written: TAILCO has passed since the last write. -/
def State.tailDue (s : State) (c : Nat) : Bool :=
  let x := s.ctx c
  x.tailDirty && (decide (x.lastTail = 0) || decide (x.lastTail + x.tailco ≤ s.wallNow))

/-- Whether a context's interrupt may go: IRQCO has passed since the last one. -/
def State.irqDue (s : State) (c : Nat) : Bool :=
  let x := s.ctx c
  x.irqDirty && (decide (x.lastIrq = 0) || decide (x.lastIrq + x.irqco ≤ s.wallNow))

/-- The tail and then the interrupt of a context, each where it is due (R247). -/
def State.tellHost (s : State) (c : Nat) : State :=
  let s := if s.tailDue c then s.writeTail c else s
  if s.irqDue c then s.writeIrq c else s

/-- The tail and the interrupt of an earlier opening's ring, after the last record for it. -/
def State.tellOld (s : State) (r : RingRecord) : State :=
  (s.postTail r.base r.log (r.seq + 1)).hostIrq r.vector

/-- The context whose record is written next: of the first waiting records that have room, the one released first (R247). -/
def State.nextRecord (s : State) : Option Nat :=
  let heads := s.serve.ctxs.filterMap fun x => (x.2.ready.head?.filter fun r => s.ringRoom x.2 r).map fun r => (x.1, r.stamp)
  ((sortBy (fun (x : Nat × Nat) => (x.2 : Int)) heads).head?).map (·.1)

/-- Write a context's first waiting record, in the order of release; after the context's last, the tail and the interrupt where they are
due; after the last that can be written, the zero-length read (R341). -/
def State.writeRecord (s : State) (c : Nat) : State :=
  let x := s.ctx c
  match x.ready with
  | [] => s
  | r :: rs =>
    if s.nextRecord = some c then
      let x := { x with ready := rs, wrote := if r.fresh then r.seq + 1 else x.wrote, tailDirty := x.tailDirty || r.fresh,
                        irqDirty := x.irqDirty || r.fresh }
      let s := (s.postItem r.addr (r.bytes r.phase) (.record r)).setCtx c x
      let more : Bool := match rs with
        | [] => false
        | q :: _ => s.ringRoom x q
      let s := if r.fresh then (if more then s else s.tellHost c)
        else if rs.any fun q => !q.fresh then s else s.tellOld r
      if s.nextRecord.isNone then s.closeBatch else s
    else s

/-- RING_RECORD_WRITE. -/
def execRingRecordWrite (ctx : BitVec 15) (s : State) : Host.Outcome State Fault Refusal :=
  .next (if s.hostUp = true ∧ s.host.rewrite = [] then s.writeRecord ctx.toNat else s)

/-- TAIL_WRITE: a tail that waits for TAILCO, and an interrupt that waits for IRQCO. -/
def execTailWrite (ctx : BitVec 15) (s : State) : Host.Outcome State Fault Refusal :=
  .next (if s.hostUp then s.tellHost ctx.toNat else s)

/-! ## Mirroring (R249, R250) -/

/-- Send a cut's mirror on virtual channel 0 to the stand-in: the KV pieces, then the records (R249). -/
def State.sendMirror (s : State) (j : MirrorJob) : State :=
  let dev := s.fget Reg.SV_MIRROR_STANDIN
  let s := s.emit (.mirrorSent j.cut dev j.commits j.ctxs j.meters)
  let s := (j.ctxs.flatMap (·.kv)).foldl (fun (s : State) x =>
    s.sendDefault 0 3 dev 0 x.2.2.1 (x.2.2.2.flatMap fun p => [p, p, p, p])) s
  s.sendDefault 0 3 dev 0 (toBytes 8 j.cut) []

/-- MIRROR_SEND: the oldest cut that waits, once the one before is acknowledged. -/
def execMirrorSend (s : State) : Host.Outcome State Fault Refusal :=
  match s.serve.mirrorQueue with
  | [] => .next s
  | j :: rest =>
    if s.serve.unacked.isEmpty = true ∧ s.dev ≠ .off ∧ s.dev ≠ .failed then
      .next { s.sendMirror j with serve.mirrorQueue := rest, serve.unacked := [j.cut] }
    else .next s

end Sys2Proof.Machine
end

