-- ==== Sys2Proof/Machine/Bells.lean ====
section
/-! DEFINITION. The mailbox's queues: doorbells, completions, delivery and the gateway's part (R339 to R341, R346, R442 to R444). -/

namespace Sys2Proof.Machine

/-! ## Doorbells (R442, R443) -/

/-- The BAR2 offset of a doorbell: 0 OQ_TAIL, 4 CQ_HEAD, 0x20000 + 4 × CTX RING_HEAD. -/
def bellOffset (slot o : Nat) : Nat := 0x40000 * slot + o

/-- Difference of two counts modulo 2^32. -/
def countDiff (a b : Nat) : Nat := (a + 2 ^ 32 - b % 2 ^ 32) % 2 ^ 32

/-- OQ_TAIL on the slot's own device: the new descriptors are read. -/
def State.bellOrders (s : State) (n value : Nat) : State :=
  let b := s.bell n
  let posted := countDiff value b.oqHead
  if posted < countDiff b.oqTail b.oqHead ∨ 2 ^ s.fget (Reg.HI_PX_CFG_OQLOG n) < posted then s.notice 443 (bellOffset n 0)
  else
    let fresh := countDiff value b.oqTail
    let s := s.setBell n { b with oqTail := value }
    if fresh = 0 then s else s.hostFetch n b.oqTail fresh

/-- CQ_HEAD on the slot's own device. -/
def State.bellCompletions (s : State) (n value : Nat) : State :=
  let b := s.bell n
  if countDiff b.cqTail b.cqHead < countDiff value b.cqHead then s.notice 443 (bellOffset n 4)
  else s.setBell n { b with cqHead := value }

/-- RING_HEAD on the slot's own device. -/
def State.bellRing (s : State) (n c value : Nat) : State :=
  let x := s.ctx c
  let head := x.head + countDiff value x.head
  if s.fget Reg.SV_CTRL_ROLE ≠ 1 ∨ x.st = .free ∨ c < s.fget Reg.SV_CTX_RANGE_LO ∨ s.fget Reg.SV_CTX_RANGE_HI < c ∨
      x.wrote < head then s.notice 443 (bellOffset n (0x20000 + 4 * c))
  else s.setCtx c { x with head := head }

/-- A doorbell as the device that the slot stands for takes it. -/
def State.ownBell (s : State) (n o value : Nat) : State :=
  if o = 0 then s.bellOrders n value
  else if o = 4 then s.bellCompletions n value
  else if 0x20000 ≤ o ∧ o % 4 = 0 then s.bellRing n ((o - 0x20000) / 4) value
  else s

/-- A doorbell write, on the PCIe function of a device that presents one: dropped with a notice where the access is not 32 bits wide, the slot is not valid or the mailboxes are not
enabled; one for a proxied slot is forwarded unchecked; reserved offsets drop it. -/
def State.doorbell (s : State) (n o : Nat) (value : Word) (w : Width) : State :=
  if s.pathOpen .pcie = false then s
  else if w ≠ .w32 ∨ s.flag (Reg.HI_PX_DEV_VALID n) = false ∨ s.flag Reg.HI_MB_CTRL_EN = false then s.notice 443 (bellOffset n o)
  else if n = s.ownSlot then s.ownBell n o value.toNat
  else s.sendProxied 0 5 (s.fget (Reg.HI_PX_DEV_DEVICE n)) (bellOffset n o) (toBytes 4 value.toNat)

/-- OQ_TAIL. -/
def execOqTail (slot : Fin 64) (value : Word) (w : Width) (s : State) : Host.Outcome State Fault Refusal :=
  .next (s.doorbell slot.val 0 value w)

/-- CQ_HEAD. -/
def execCqHead (slot : Fin 64) (value : Word) (w : Width) (s : State) : Host.Outcome State Fault Refusal :=
  .next (s.doorbell slot.val 4 value w)

/-- RING_HEAD. -/
def execRingHead (slot : Fin 64) (ctx : BitVec 15) (value : Word) (w : Width) (s : State) : Host.Outcome State Fault Refusal :=
  .next (s.doorbell slot.val (0x20000 + 4 * ctx.toNat) value w)

/-! ## Completions (R341, R346) -/

/-- Whether the completion queue has a free slot. -/
def State.queueRoom (s : State) : Bool :=
  let b := s.bell s.ownSlot
  decide (countDiff b.cqTail b.cqHead < 2 ^ s.fget (Reg.HI_PX_CFG_CQLOG s.ownSlot))

/-- The PHASE of the completion queue's entry at its tail (Table 12.5). -/
def State.queuePhase (s : State) : Bool :=
  decide ((s.bell s.ownSlot).cqTail / 2 ^ s.fget (Reg.HI_PX_CFG_CQLOG s.ownSlot) % 2 = 0)

/-- The host address of the completion queue's entry at its tail. -/
def State.queueSlot (s : State) : DWord :=
  BitVec.ofNat 64 (s.fget (Reg.HI_PX_CQ_ADDR s.ownSlot) +
    64 * ((s.bell s.ownSlot).cqTail % 2 ^ s.fget (Reg.HI_PX_CFG_CQLOG s.ownSlot)))

/-- The completion queue's tail moves on, and its interrupt goes out where a vector is set. -/
def State.queueAdvance (s : State) : State :=
  let b := s.bell s.ownSlot
  let s := s.setBell s.ownSlot { b with cqTail := (b.cqTail + 1) % 2 ^ 32 }
  let v := s.fget (Reg.HI_PX_CFG_CQVEC s.ownSlot)
  if v = 0 then s else s.hostIrq v

/-- Write the oldest waiting completion into the queue, with its interrupt; the last one that waits ends a batch (R341). -/
def State.postOne (s : State) : State :=
  match s.host.ready with
  | [] => s
  | c :: rest =>
    let s := ({ s with host.ready := rest }.postItem s.queueSlot (c.bytes s.queuePhase) (.completion c)).queueAdvance
    if rest = [] then s.closeBatch else s

/-! ## Writing again after a host-interface reset (R341) -/

/-- Write an item again; a completion needs a free slot of the queue (R346). -/
def State.rewriteItem (s : State) (i : HostItem) : State :=
  let s := { s.bump Reg.HI_REWRITE_COUNT with host.unread := s.host.unread + 1 }
  match i with
  | .completion c => (s.hostPost s.queueSlot (c.bytes s.queuePhase)).queueAdvance
  | .record r => s.hostPost r.addr (r.bytes r.phase)

/-- The contexts of a list of items, each once, in order. -/
def itemCtxs (is : List HostItem) : List Nat :=
  is.foldl (fun cs i =>
    match i with
    | .record r => if cs.contains r.ctx then cs else cs ++ [r.ctx]
    | .completion _ => cs) []

/-- Every item is written again: the tail of each affected ring follows, and the batch ends. -/
def State.rewritten (s : State) : State :=
  ((itemCtxs s.host.posted).foldl (fun (s : State) c =>
    let x := s.ctx c
    s.postTail x.ringBase x.ringLog x.wrote) s).closeBatch

/-- Whether an item can be written again now. -/
def State.itemRoom (s : State) : HostItem → Bool
  | .completion _ => s.queueRoom
  | .record _ => true

/-- Write the retained, undelivered items again in order, as far as the completion queue has room: `fuel` items at most. -/
def State.rewriteFrom (s : State) : Nat → State
  | 0 => s
  | fuel + 1 =>
    match s.host.rewrite with
    | [] => s
    | i :: rest =>
      if s.itemRoom i then
        let s := { s with host.rewrite := rest }.rewriteItem i
        if rest = [] then s.rewritten else s.rewriteFrom fuel
      else s

/-- Write again what is left. -/
def State.rewriteAll (s : State) : State := s.rewriteFrom s.host.rewrite.length

/-- COMPLETION_POST: what must be written again goes first; then into a slot between the head and the tail, while fewer than 4,096 items
are undelivered. -/
def execCompletionPost (s : State) : Host.Outcome State Fault Refusal :=
  if s.hostUp = true ∧ s.flag (Reg.HI_PX_DEV_VALID s.ownSlot) = true then
    .next (if s.host.rewrite ≠ [] then s.rewriteAll
      else if s.queueRoom = true ∧ s.host.posted.length < 4096 then s.postOne else s)
  else .next s

end Sys2Proof.Machine
end

