-- ==== Sys2Proof/Machine/Processors.lean ====
section
/-! DEFINITION. The management processors: shares of a period, telemetry, director election (R394 to R401). -/

namespace Sys2Proof.Machine

/-- Store a management processor. -/
def State.setProc (s : State) (d : Nat) (p : Processor) : State :=
  if d = 0 then { s with manage.procW := p } else { s with manage.procE := p }

/-! ## Work classes and telemetry (R394, R395) -/

/-- What fault handling, mailbox and dispatcher assist use of a period, in microseconds, given what each has pending: at least
its share, and in the order of Table 14.1 what the others leave. The telemetry class keeps its 200. -/
def classUse (w : PeriodLoad) : Nat :=
  let f := min w.fault 300
  let m := min w.mailbox 250
  let d := min w.serving 250
  let left := 1000 - f - m - d - min w.telemetry 200
  let f2 := min (w.fault - f) left
  let m2 := min (w.mailbox - m) (left - f2)
  let d2 := min (w.serving - d) (left - f2 - m2)
  f + m + d + f2 + m2 + d2

/-- Whether telemetry completes its sampling in a period. -/
def PeriodLoad.sampled (w : PeriodLoad) : Bool := decide (w.telemetry ≤ 1000 - classUse w)

/-- Telemetry does not complete: the rate halves, down to 1/256, and the loss is recorded. -/
def State.overloaded (s : State) (d lost : Nat) : State :=
  let s := (s.bump (Reg.DD_MP_OVER d)).bumpBy (Reg.DD_MP_LOST d) lost
  let s := s.setProc d { s.proc d with good := 0 }
  let t := s.fget (Reg.DD_MP_TDIV d)
  if t < 8 then (s.fset (Reg.DD_MP_TDIV d) (t + 1)).logOn d 0x87 0 0 0 ((t + 1) * 2 ^ 28 + min lost 0xFFFF) else s

/-- Telemetry completes: after 16 consecutive periods the rate doubles, up to the configured rate. -/
def State.sampledOk (s : State) (d : Nat) : State :=
  let n := (s.proc d).good + 1
  let t := s.fget (Reg.DD_MP_TDIV d)
  if t = 0 then s
  else if 16 ≤ n then (s.setProc d { s.proc d with good := 0 }).fset (Reg.DD_MP_TDIV d) (t - 1)
  else s.setProc d { s.proc d with good := n }

/-- MANAGEMENT_PERIOD. -/
def execManagementPeriod (die : Fin 2) (w : PeriodLoad) (s : State) : Host.Outcome State Fault Refusal :=
  .next (if s.dev = .off then s else if w.sampled then s.sampledOk die.val else s.overloaded die.val w.lost)

/-! ## The election (R398 to R401) -/

/-- The strap sample of a die. -/
def State.strapOf (s : State) (d : Nat) : Bool := if d = 0 then s.manage.straps.dirW else s.manage.straps.dirE

/-- DIRMAP; 0b00 until the call sheet has been read. -/
def State.dirmap (s : State) : Nat := s.fget Reg.DD_STATUS_DIRMAP

/-- The director that a strap level selects: 0 West, 1 East. -/
def directorOf (map : Nat) (level : Bool) : Nat :=
  match map with
  | 0 => b2n level
  | 1 => b2n (!level)
  | _ => 0

/-- Show the election: CONTRA if either processor is in it, else the director's state. -/
def State.showElection (s : State) : State :=
  let e := if s.contra then EState.contra else (s.proc (s.fget Reg.DD_STATUS_DIRECTOR)).estate
  let s := s.fset Reg.DD_STATUS_ESTATE e.code
  let s := if s.contra then s.fsetb Reg.DD_STATUS_CONTRA true else s
  s.fset Reg.DD_HB_RUN (min 255 (s.proc (s.fget Reg.DD_STATUS_DIRECTOR)).missed)

/-- A processor enters CONTRA: an in-band interrupt, and in a take before a drain the device fences (R401). -/
def State.enterContra (s : State) (d : Nat) : State :=
  if (s.proc d).estate = .contra then s
  else
    let s := ((s.setProc d { s.proc d with estate := .contra }).showElection).emit (.ibi d)
    if s.dev.intake then s.fence else s

/-- Compare the samples of both dies, once exchanged: false if they contradict. -/
def State.agrees (s : State) (d : Nat) : Bool :=
  decide (s.dirmap ≠ 3) &&
  (match (s.proc d).seen with
   | some x => x == s.strapOf d
   | none => true)

/-- A processor settles on the director. -/
def State.settleElection (s : State) (d : Nat) : State :=
  let s := s.setProc d { s.proc d with estate := .settled, got := 0 }
  (s.fset Reg.DD_STATUS_DIRECTOR (directorOf s.dirmap (s.strapOf d))).showElection

/-- What a heartbeat with agreeing samples does in each election state. -/
def State.heard (s : State) (d : Nat) : State :=
  match (s.proc d).estate with
  | .undecided => s.settleElection d
  | .settled => s.settleElection d
  | .isolated => if 10 ≤ (s.proc d).got then s.settleElection d else s.showElection
  | .contra => s

/-- HEARTBEAT: the other processor's sample reaches processor `die`. -/
def execHeartbeat (die : Fin 2) (strap : Bool) (s : State) : Host.Outcome State Fault Refusal :=
  if s.dev = .off then .next s
  else
    let d := die.val
    let s := s.setProc d { s.proc d with seen := some strap, missed := 0, got := (s.proc d).got + 1 }
    .next (if s.agrees d then s.heard d else s.enterContra d)

/-- HEARTBEAT_MISSED: one heartbeat did not come; the third in a row isolates a settled processor. -/
def execHeartbeatMissed (die : Fin 2) (s : State) : Host.Outcome State Fault Refusal :=
  if s.dev = .off then .next s
  else
    let d := die.val
    let p := s.proc d
    let s := (s.setProc d { p with missed := p.missed + 1, got := 0 }).bump Reg.DD_HB_MISSES
    let s := if p.estate = .settled ∧ 3 ≤ p.missed + 1 then s.setProc d { s.proc d with estate := .isolated } else s
    .next s.showElection

/-- A die samples its director-select pin. -/
def State.sampleStrap (s : State) (d : Nat) (level : Bool) : State :=
  let p := s.manage.straps
  let p := if d = 0 then { p with dirW := level } else { p with dirE := level }
  { s with manage.straps := p }.fsetb (if d = 0 then Reg.DD_STATUS_STRAPW else Reg.DD_STATUS_STRAPE) level

/-- STRAP_SAMPLE. -/
def execStrapSample (die : Fin 2) (level : Bool) (s : State) : Host.Outcome State Fault Refusal :=
  if s.dev = .off then .next s
  else
    let s := s.sampleStrap die.val level
    .next (if s.agrees die.val then s else s.enterContra die.val)

end Sys2Proof.Machine
end

