-- ==== Sys2Proof/Machine/Boot.lean ====
section
/-! DEFINITION. Power, reset and boot; the screen test; the host interface's reset and delivery (R153, R264, R266, R336 to R345,
R349, R386 to R388, R409, R413 to R415, R448, R457). -/

namespace Sys2Proof.Machine

/-! ## The update journal (R413) -/

/-- No record: slot A active, nothing pending. -/
def Journal.initial : Journal := { seq := 0, activeB := false, trial := none, trials := 0, stage := 0, verA := 0, verB := 0 }

/-- The current record: the one with the highest SEQ. -/
def State.journal (s : State) : Journal :=
  s.manage.journals.foldl (fun a b => if a.seq < b.seq then b else a) Journal.initial

/-- Show the journal in SC_UPD, SC_VER_A, SC_VER_B and SC_JSEQ. -/
def State.showJournal (s : State) : State :=
  let j := s.journal
  let s := (s.fset Reg.SC_UPD_STAGE j.stage).fsetb Reg.SC_UPD_TRIAL j.trial.isSome
  let s := (s.fsetb Reg.SC_UPD_TRIALSLOT (j.trial.getD false)).fset Reg.SC_UPD_TRIALS j.trials
  let s := (s.fset Reg.SC_VER_A_VALUE j.verA.toNat).fset Reg.SC_VER_B_VALUE j.verB.toNat
  s.fset Reg.SC_JSEQ_VALUE (j.seq % 2 ^ 32)

/-- Where a new record goes: over the older of the two, at flash offset 0 or 0x1000. -/
def State.journalPlace (s : State) : Nat :=
  match s.manage.journals with
  | a :: _ => if a = s.journal then 1 else 0
  | [] => 0

/-- Write a new record over the older of the two. -/
def State.writeJournal (s : State) (j : Journal) : State :=
  let new := { j with seq := s.journal.seq + 1 }
  let js := match s.journalPlace, s.manage.journals with
    | 0, _ :: b => new :: b.take 1
    | _, a :: _ => [a, new]
    | _, [] => [new]
  ({ s with manage.journals := js }.emit (.flashWrite (0x1000 * s.journalPlace) new.bytes)).showJournal

/-! ## Entry to BOOT and to OFF (R349, R448) -/

/-- What a loss of main or standby power leaves: flash and fuses. -/
def Manage.unpowered (m : Manage) : Manage :=
  { Manage.initial with grade := m.grade, step := m.step, fusedOff := m.fusedOff, mainGood := m.mainGood, stbyGood := m.stbyGood,
                        straps := m.straps, lastNonce := m.lastNonce, sheets := m.sheets, keys := m.keys, minver := m.minver, imgA := m.imgA, imgB := m.imgB,
                        fwA := m.fwA, fwB := m.fwB, journals := m.journals, retired := m.retired, badSlots := m.badSlots }

/-- The stacks' rows in the repair record of flash, which is all of them that a reset or a loss of power leaves (R264). -/
def State.stacksUnpowered (s : State) : SMap Stack := mapAll (fun _ => Stack.initial) Stack.unpowered s.hbmStacks

/-- HM_REPAIR.PENDING counts the rows of the repair record. -/
def State.showRepairs (s : State) : State :=
  (upFrom 0 8).foldl (fun (s : State) i => s.fset (Reg.HM_REPAIR_PENDING i) (min (s.stack i).repair.length 1023)) s

/-- Enter BOOT: every register and every unit as after reset; flash, fuses and straps stay, and so do the logs and their count of
clears, which a reset does not lose (R426, Table 15.10). -/
def State.enterBoot (s : State) : State :=
  let clears := s.fget Reg.CN_CLEARS_COUNT
  let l := (s.logEvent 0x83 0 0 0 (s.dev.code * 16 + 1)).log
  let r : State :=
    { State.reset with pending := s.pending, free := s.free, out := s.out, manage := s.manage.unpowered, hbmStacks := s.stacksUnpowered,
                       log := { Log.initial with west := l.west, east := l.east } }
  (r.showRepairs.showJournal.fset Reg.CN_CLEARS_COUNT clears).emit (.platformEvent 0x83 (s.dev.code * 16 + 1))

/-- Enter OFF: HBM, the logs and a take are lost. -/
def State.enterOff (s : State) : State :=
  { State.reset with pending := s.pending, free := s.free, out := s.out, manage := s.manage.unpowered,
                     hbmStacks := s.stacksUnpowered, dev := .off }

/-- MAIN_POWER_GOOD: main and standby power are good; the straps are sampled on entry to BOOT (R457). -/
def execMainPowerGood (p : Straps) (s : State) : Host.Outcome State Fault Refusal :=
  if s.dev = .off then
    .next { s with manage.mainGood := true, manage.stbyGood := true, manage.straps := p }.enterBoot
  else .next s

/-- POWER_LOST: main power, or standby power. -/
def execPowerLost (mainLost : Bool) (s : State) : Host.Outcome State Fault Refusal :=
  let s := if mainLost then { s with manage.mainGood := false } else { s with manage.stbyGood := false }
  .next (if s.dev = .off then s else s.enterOff)

/-- I3C_RESET. -/
def execI3cReset (s : State) : Host.Outcome State Fault Refusal := .next (if s.dev = .off then s else s.enterBoot)

/-- RESET: the device returns to BOOT once the completion is delivered. -/
def execReset (o : Order) (s : State) : Host.Outcome State Fault Refusal :=
  .next (s.receive o 0x0E (fun _ => true) fun s => { s.done 0x0E o (.plain .ok 0) with host.resetAfter := some o.seq })

/-! ## Delivery (R340, R341) -/

/-- Whether an item is the completion of the RESET that waits. -/
def State.endsReset (s : State) (i : HostItem) : Bool :=
  match i, s.host.resetAfter with
  | .completion c, some n => decide (c.seq = n)
  | _, _ => false

/-- Items are delivered: they are retained no longer, and a RESET among them takes effect. -/
def State.deliver (s : State) (is rest : List HostItem) : State :=
  let s := { s with host.posted := rest }.emit (.delivered is.length)
  if is.any (s.endsReset ·) then s.enterBoot else s

/-- A gateway answers the writes that it performed for a proxied device. -/
def State.answerProxied (s : State) (dev : Nat) : Nat → State
  | 0 => s
  | n + 1 => (s.sendProxied 1 6 dev 0 (toBytes 4 0)).answerProxied dev n

/-- The oldest zero-length read completes: the items posted before it are delivered, the proxied writes before it answered. -/
def State.readDone (s : State) (r : HostRead) (rest : List HostRead) : State :=
  let s := r.proxied.foldl (fun (s : State) p => s.answerProxied p.1 p.2) { s with host.reads := rest }
  s.deliver (s.host.posted.take r.own) (s.host.posted.drop r.own)

/-- DELIVERY_READ_COMPLETE: a read behind posted writes completes (R341). -/
def execDeliveryReadComplete (s : State) : Host.Outcome State Fault Refusal :=
  match s.host.reads with
  | [] => .next s
  | r :: rest => .next (if s.dev ≠ .off ∧ (s.hostRole = 1 ∨ s.hostRole = 2) then s.readDone r rest else s)

/-! ## The host interface's reset (R339) -/

/-- HOST_INTERFACE_RESET: queues, EN and transfers in progress; every order not yet received is discarded and counted. -/
def State.resetHost (s : State) : State :=
  let b := s.bell s.ownSlot
  let s := s.bumpBy Reg.HI_PARTIAL_COUNT (countDiff b.oqTail b.oqHead)
  let s := (upFrom 0 64).foldl (fun (s : State) n => { s with regs := mapClear s.regs (Reg.HI_PX_CFG n) 0x24 }) s
  let s := (s.fsetb Reg.HI_MB_CTRL_EN false).fsetb Reg.HI_STATUS_RSTSEEN true
  { s with host.bells := [], host.rewrite := s.host.posted, host.proxied := [], host.reads := [], host.unread := 0 }

/-- HOST_INTERFACE_RESET. -/
def execHostInterfaceReset (s : State) : Host.Outcome State Fault Refusal := .next (if s.dev = .off then s else s.resetHost)

/-- The host sets HI_MB_CTRL.EN: doorbells count from here (Table 16.2), and what was not delivered is written again. -/
def State.enableMailbox (s : State) : State :=
  if s.flag Reg.HI_MB_CTRL_EN then s else ({ s with host.bells := [] }.fsetb Reg.HI_MB_CTRL_EN true).rewriteAll

/-- HI_MB_CTRL_EN, over any path. -/
def execHiMbCtrlEn (p : Path) (s : State) : Host.Outcome State Fault Refusal :=
  .next (if s.pathOpen p then s.enableMailbox else s)

/-! ## The screen test (R264, R353, R386 to R388) -/

/-- Slots that the screen test and the fuses leave, per cluster. -/
def State.countGood (s : State) (cl : Nat) : Nat := (s.goodSlots cl).length

/-- HI_GRID.GOOD and FC_FITNESS.GRIDMAX follow the slots' DISABLED bits. -/
def State.noteGood (s : State) : State :=
  let n := (upFrom 0 4).map fun cl => s.countGood cl
  let s := s.fset Reg.HI_GRID_GOOD ((upFrom 0 4).foldl (fun a cl => a + 16 ^ cl * n.getD cl 0) 0)
  s.fset Reg.FC_FITNESS_GRIDMAX (n.foldl min s.vcores)

/-- Disable a slot. -/
def State.disableSlot (s : State) (key : Nat) : State := s.fsetb (Reg.CL_SLOT_ID_DISABLED (key / 16) (key % 16)) true

/-- What the screen test finds on the stacks: repairs done, the repair record's rows among them, rows left. -/
def State.screenStack (s : State) (r : ScreenResult) (i : Nat) : State :=
  let n := (r.repaired.filter fun x => decide (stackOf x.1 = i)).length
  let s := (s.bumpBy (Reg.HM_REPAIR_USED i) n).fset (Reg.HM_REPAIR_LEFT i) (r.spareLeft.getD i 0)
  let k := s.stack i
  (s.fset (Reg.HM_REPAIR_PENDING i) 0).setStack i { k with repair := [] }

/-- Apply the result of a screen test. -/
def State.applyScreen (s : State) (r : ScreenResult) : State :=
  let bad := s.manage.badSlots ++ r.badSlots.filter fun k => !s.manage.badSlots.contains k
  let retired := s.manage.retired ++ r.retired.filter fun x => !s.manage.retired.contains x
  let s := { s with manage.badSlots := bad, manage.retired := retired }
  let s := (bad ++ s.manage.fusedOff).foldl (fun (s : State) k => s.disableSlot k) s
  let s := ((upFrom 0 8).foldl (fun (s : State) i => s.screenStack r i) (s.rowsDestroyed r.repaired)).noteGood
  let s := (s.fset Reg.FC_FITNESS_LINKS r.usableLinks).fset Reg.FC_FITNESS_LANEDEG r.degradedLinks
  let s := s.fset Reg.FC_FITNESS_HBMOUT ((upFrom 0 8).filter fun i => decide (r.spareLeft.getD i 0 = 0)).length
  (s.fset Reg.FC_FITNESS_SLOTOUT bad.length).fset Reg.FC_RETIRED_COUNT retired.length

/-- SCREEN: in READY, in the background. -/
def execScreen (o : Order) (s : State) : Host.Outcome State Fault Refusal :=
  .next (s.receive o 0x11 (fun s => decide (s.dev = .ready)) fun s =>
    if (s.running? 0x11).isSome then s.done 0x11 o (.plain .busy 0) else s.background 0x11 o)

/-- SCREEN_COMPLETE. -/
def execScreenComplete (r : ScreenResult) (s : State) : Host.Outcome State Fault Refusal :=
  match s.running? 0x11 with
  | some _ => .next ((s.applyScreen r).finishOp 0x11 (.plain .ok 0))
  | none => .next s

/-! ## The call sheet (R316, R317, R336 to R338, Table 15.2) -/

/-- Whether a copy is valid. -/
def CallSheet.valid (c : CallSheet) : Bool := decide (c.version = 1) && c.crcOk

/-- The valid copy with the higher GENERATION. -/
def State.chosenSheet (s : State) : Option CallSheet :=
  s.manage.sheets.foldl (fun best c =>
    match best, c with
    | some b, some x => if x.valid && decide (b.generation < x.generation) then some x else best
    | none, some x => if x.valid then some x else none
    | _, none => best) none

/-- The host roles that a role strap admits (Table 12.3). -/
def admittedRoles (strap : BitVec 2) : List Nat :=
  match strap.toNat with
  | 0 => [0, 3]
  | 1 => [0, 1, 2]
  | 2 => [0, 1]
  | _ => [0]

/-- The link and the device that a plan entry expects: at a plane link the Rileth port of the device's own slot (R318), whatever the
entry's other fields say. -/
def State.plannedEnd (s : State) (e : Nat) : Nat × Nat :=
  if bitsOf 31 30 e = 1 then (s.ownSlot % 64, 0x3FFFF) else (bitsOf 29 24 e, bitsOf 17 0 e)

/-- The expected partner of each link shows in LK_CABLE. -/
def State.showPlan (s : State) : State :=
  (upFrom 0 64).foldl (fun (s : State) l =>
    let e := (s.manage.plan.getD l 0).toNat
    let s := s.fset (Reg.LK_CABLE_EXPKIND l) (bitsOf 31 30 e)
    (s.fset (Reg.LK_CABLE_EXPLINK l) (s.plannedEnd e).1).fset (Reg.LK_CABLE_EXPDEV l) (s.plannedEnd e).2) s

/-- The recorder parameters of a sheet. -/
def State.loadRecorder (s : State) (c : CallSheet) : State :=
  let s := s.fset Reg.CN_CFG_INTERVAL (if c.interval = 0 then 3600 else c.interval)
  let s := (s.fset Reg.CN_CFG_PROFILE c.profile).fset Reg.CN_CFG_TRIGMASK c.trigMask.toNat
  (upFrom 0 7).foldl (fun (s : State) k => s.fset (Reg.CN_SNAPREG_OFFSET k) (c.snap.getD k 0)) s

/-- Take over a valid sheet. -/
def State.useSheet (s : State) (c : CallSheet) : State :=
  let m := { s.manage with sheet := some c, plan := c.cabling, rack := c.rack, blockLo := c.blockLo, blockHi := c.blockHi }
  let s := ({ s with manage := m }.fset Reg.DD_STATUS_DIRMAP c.dirmap.toNat).loadRecorder c
  let s := if 1200 ≤ c.watts ∧ c.watts ≤ 2400 then s.fset Reg.PW_LIMIT_WATTS c.watts else s.notice 402 c.watts
  if (admittedRoles s.manage.straps.role).contains c.hostRole.toNat then s.fset Reg.HI_STATUS_HOSTROLE c.hostRole.toNat
  else s.notice 338 c.hostRole.toNat

/-- Read the call sheet: the defaults of R336 where neither copy is valid. -/
def State.readSheet (s : State) : State :=
  match s.chosenSheet with
  | some c => s.useSheet c
  | none => (s.fset Reg.CN_CFG_TRIGMASK 0x1C).notice 336 0

/-- The slots that HI_PX_DEV shows: the device's own, and those that a gateway proxies. -/
def State.showSlots (s : State) : State :=
  let own := s.ownSlot
  let map := match s.manage.sheet with
    | some c => if s.hostRole = 2 then c.proxyMap.toNat else 0
    | none => 0
  (upFrom 0 64).foldl (fun (s : State) n =>
    if (n = own ∧ s.hasPosition = true) ∨ (n ≠ own ∧ bitOf map n = true) then
      (s.fsetb (Reg.HI_PX_DEV_VALID n) true).fset (Reg.HI_PX_DEV_DEVICE n) (if n = own then s.deviceId else s.manage.rack * 64 + n)
    else s) s

/-! ## Firmware selection (R414, R415) -/

/-- What boot starts: slot B, whether it is a trial, whether it fell back; none where no slot is valid. -/
structure BootChoice where
  slotB : Bool
  trial : Bool
  fallback : Bool

/-- Whether a slot's image is valid. -/
def BootFacts.slotValid (b : BootFacts) (slotB : Bool) : Bool := if slotB then b.slotBValid else b.slotAValid

/-- Where the chosen slot fails, the other one starts if it is valid. -/
def BootFacts.settle (b : BootFacts) (c : BootChoice) : Option BootChoice :=
  if b.slotValid c.slotB then some c
  else if b.slotValid (!c.slotB) then some { slotB := !c.slotB, trial := c.trial, fallback := true }
  else none

/-- Read the current record, writing the new one that a trial calls for. -/
def State.chooseSlot (s : State) : BootChoice × State :=
  let j := s.journal
  match j.trial with
  | some t =>
    if 0 < j.trials then ({ slotB := t, trial := true, fallback := false }, s.writeJournal { j with trials := j.trials - 1 })
    else ({ slotB := j.activeB, trial := false, fallback := true }, s.writeJournal { j with trial := none })
  | none => ({ slotB := j.activeB, trial := false, fallback := false }, s)

/-- The header of the image in a slot. -/
def State.fwHeader (s : State) (slotB : Bool) : FwHeader := headerOf (if slotB then s.manage.imgB else s.manage.imgA)

/-- Raise MINVER and blow the revocation fuses that the active image calls for. -/
def State.blowFuses (s : State) (h : FwHeader) : State :=
  let keys := (List.zip (upFrom 0 8) s.manage.keys).map fun k => if h.revoke.getLsbD k.1 then { k.2 with revoked := true } else k.2
  { s with manage.minver := max s.manage.minver h.secver, manage.keys := keys }

/-- Note what was started. -/
def State.started (s : State) (c : BootChoice) : State :=
  let s := (s.fsetb Reg.SC_STATUS_BOOTSLOT c.slotB).fsetb Reg.SC_STATUS_TRIALBOOT c.trial
  let s := s.fsetb Reg.SC_STATUS_FALLBACK c.fallback
  if c.slotB = s.journal.activeB then s.blowFuses (s.fwHeader c.slotB) else s

/-- A download that was not verified before is verified at boot (Table 14.6). -/
def State.verifyAgain (s : State) (b : BootFacts) : State :=
  let j := s.journal
  if j.stage = 1 ∧ b.slotValid (!j.activeB) = true then s.writeJournal { j with stage := 2 } else s

/-! ## BOOT_COMPLETE (R349) -/

/-- The scrubs of boot are done. -/
def State.bootScrubbed (s : State) : State :=
  let s := (upFrom 0 4).foldl (fun (s : State) cl =>
    (upFrom 0 11).foldl (fun (s : State) p => (s.fsetb (Reg.CL_SCRUB_BUSY cl p) false).fsetb (Reg.CL_SCRUB_DONE cl p) true) s) s
  (upFrom 0 8).foldl (fun (s : State) i =>
    ((s.fsetb (Reg.HM_SCRUB_BUSY i) false).fsetb (Reg.HM_SCRUB_DONE i) true).fsetb (Reg.HM_STATUS_READY i) true) s

/-- Show the director straps as each die samples them at boot (R398). -/
def State.sampleDirector (s : State) (w e : Bool) : State :=
  let m := { s.manage with straps := { s.manage.straps with dirW := w, dirE := e } }
  ({ s with manage := m }.fsetb Reg.DD_STATUS_STRAPW w).fsetb Reg.DD_STATUS_STRAPE e

/-- Both processors look at their straps once the call sheet is read: with no valid interpretation they enter CONTRA (R398, R399). -/
def State.checkDirmap (s : State) : State := if s.dirmap = 3 then (s.enterContra 0).enterContra 1 else s

/-- Boot with firmware started: call sheet, position, screen test, scrubs. In CONTRA the device stays in BOOT (R401). -/
def State.bootWith (s : State) (c : BootChoice) (b : BootFacts) : State :=
  let s := ((((s.verifyAgain b).started c).sampleDirector b.dirW b.dirE).readSheet.checkDirmap).showPlan.showSlots
  if s.contra then s
  else
    let s := if s.hasPosition then s else s.notice 317 s.manage.straps.slot.toNat
    let s := (s.applyScreen b.screen).bootScrubbed
    if (upFrom 0 4).any fun cl => decide (9 ≤ s.countGood cl) then s.setDev .ready else s.enterFailed

/-- BOOT_COMPLETE. In CONTRA the device stays in BOOT (R401). -/
def execBootComplete (b : BootFacts) (s : State) : Host.Outcome State Fault Refusal :=
  if s.dev = .boot ∧ s.contra = false then
    let (c, s) := s.chooseSlot
    match b.settle c with
    | some c => .next (s.bootWith c b)
    | none => .next s.enterFailed
  else .next s

/-- TRIAL_TIMEOUT: a trial image that does not reach READY within 20 s is reset, and counts as a trial (R414). -/
def execTrialTimeout (s : State) : Host.Outcome State Fault Refusal :=
  if s.dev = .boot ∧ s.journal.trial.isSome = true ∧ 0 < s.journal.trials ∧ 20000000000 ≤ s.wallNow then
    .next s.chooseSlot.2.enterBoot
  else .next s

end Sys2Proof.Machine
end

