-- ==== Sys2Proof/Machine/FrontEnd.lean ====
section
/-! DEFINITION. The front-end ports: shard fetch and PTP (R265, R270 to R277, R460). -/

namespace Sys2Proof.Machine

/-! ## The shard (R270) -/

/-- The chunks of this device's shard rank, in manifest order. -/
def State.chunksIn (s : State) (r : Reel) : List Chunk :=
  match r.member s.deviceId with
  | some m => r.manifest.chunks.filter fun c => decide (c.rank = m.shardRank)
  | none => []

/-- The chunks of the active reel. -/
def State.chunks (s : State) : List Chunk :=
  match s.take.active with
  | some r => s.chunksIn r
  | none => []

/-- Bytes of a SHA-256 value, first byte first. -/
def shaBytes (h : BitVec 256) : List Byte := (toBytes 32 h.toNat).reverse

/-- The shard digest of a chunk list (R272). -/
def shardDigest (cs : List Chunk) : BitVec 256 := sha256 (cs.flatMap fun c => shaBytes c.sha)

/-- Whether the shard is verified under a reel's manifest. -/
def State.shardVerified (s : State) (r : Reel) : Bool :=
  decide (s.fget Reg.FE_FETCH_STAT_STATE = 2) &&
  decide ((s.fetch.digests.map (·.2)) = (s.chunksIn r).map (·.sha)) &&
  decide (s.fetch.regions = (s.chunksIn r).map fun c => (c.dest, c.len))

/-! ## Ports -/

/-- Whether a front-end port is up. -/
def State.portUp (s : State) (p : Nat) : Bool := bitOf (s.fget (if p = 0 then Reg.FE_PORT_P0 else Reg.FE_PORT_P1)) 0

/-- The ports that may carry a target and are up. -/
def State.targetPorts (s : State) (r : Reel) (target : Nat) : List Nat :=
  match r.manifest.targets.find? fun t => decide (t.1 = target) with
  | some t => (upFrom 0 2).filter fun p => t.2.ports.getLsbD p && s.portUp p
  | none => []

/-! ## Fetch (R272 to R274) -/

/-- A fetch ends with a code: FE_FETCH_STAT, and the order's completion. A shard that is not verified leaves no digest. -/
def State.endFetch (s : State) (state code : Nat) (st : Status) : State :=
  let s := (s.fset Reg.FE_FETCH_STAT_STATE state).fset Reg.FE_FETCH_STAT_CODE code
  s.finishOp 0x03 (.plain st code)

/-- No chunk is verified any longer. -/
def State.unverify (s : State) : State :=
  let s := (upFrom 0 8).foldl (fun (s : State) k => s.fset (Reg.FE_SHARD_DIGEST_BYTES k) 0) s
  let f := { s.fetch with verified := [], retries := [], digests := [], regions := [] }
  ({ s with fetch := f }.fset Reg.FE_FETCH_DONE_CHUNKS 0).fset Reg.FE_FETCH_STAT_STATE 0

/-- Show the shard digest: byte 4k in [7:0] of word k. -/
def State.showDigest (s : State) (h : BitVec 256) : State :=
  (upFrom 0 8).foldl (fun (s : State) k => s.fset (Reg.FE_SHARD_DIGEST_BYTES k) (ofBytes (((shaBytes h).drop (4 * k)).take 4))) s

/-- Every chunk is verified: the digest is written and the weight regions are fixed. -/
def State.fetchDone (s : State) : State :=
  let cs := s.chunks
  let f := { s.fetch with digests := List.zip (upFrom 0 cs.length) (cs.map (·.sha)), regions := cs.map fun c => (c.dest, c.len) }
  ({ s with fetch := f }.showDigest (shardDigest cs)).endFetch 2 0 .ok

/-- A chunk fails and ends the fetch. -/
def State.fetchFail (s : State) (index code : Nat) : State :=
  let s := if s.flag Reg.FE_FETCH_FAIL_VALID then s
    else (s.fset Reg.FE_FETCH_FAIL_CHUNK index).fsetb Reg.FE_FETCH_FAIL_VALID true
  s.endFetch 3 code .failed

/-- Whether a fetch runs. -/
def State.fetching (s : State) : Bool := decide (s.fget Reg.FE_FETCH_STAT_STATE = 1)

/-- The chunk reads outstanding: the first QPS chunks that are not verified, in manifest order. QPS is 1 to 64 (log 79). -/
def State.outstanding (s : State) : List Nat :=
  ((upFrom 0 s.chunks.length).filter fun i => !s.fetch.verified.contains i).take (max 1 (min 64 (s.fget Reg.FE_FETCH_CFG_QPS)))

/-- Issue the read of a chunk, one RDMA READ to its target, over a port that the target allows; which of two is a free choice. Without one
the fetch fails. -/
def State.readChunk (s : State) (i : Nat) : State :=
  match s.take.active, s.chunks[i]? with
  | some r, some c =>
    match s.targetPorts r c.target, r.manifest.targets.find? fun t => decide (t.1 = c.target) with
    | p :: ps, some t =>
      let (n, s) := s.draw
      s.emit (.chunkRead i ((p :: ps).getD ((Config.freeWord n).toNat % (ps.length + 1)) p) t.2 t.2.ipv4 c.raddr c.len)
    | _, _ => s.fetchFail i 4
  | _, _ => s

/-- Issue reads while the fetch runs. -/
def State.readChunks (s : State) : List Nat → State
  | [] => s
  | i :: is => if s.fetching then (s.readChunk i).readChunks is else s

/-- Start a fetch from the first chunk. -/
def State.startFetch (s : State) (o : Order) : State :=
  let s := s.unverify.fset Reg.FE_FETCH_TOTAL_CHUNKS s.chunks.length
  let s := { s with fetch.epoch := s.fetch.epoch + 1 }.fset Reg.FE_FETCH_STAT_STATE 1
  let s := s.background 0x03 o
  if s.chunks.isEmpty then s.fetchDone
  else
    match s.take.active with
    | some r =>
      match (List.zip (upFrom 0 s.chunks.length) s.chunks).find? fun c => (s.targetPorts r c.2.target).isEmpty with
      | some c => s.fetchFail c.1 4
      | none => s.readChunks s.outstanding
    | none => s

/-- Whether every stack's scrub is done. -/
def State.hbmScrubbed (s : State) : Bool := (upFrom 0 8).all fun i => s.flag (Reg.HM_SCRUB_DONE i)

/-- The outcome of a FETCH that reads nothing: its code is shown. -/
def State.fetchNow (s : State) (o : Order) (st : Status) (code : Nat) : State :=
  (s.fset Reg.FE_FETCH_STAT_CODE code).done 0x03 o (.plain st code)

/-- The effect of FETCH. -/
def State.fetchOrder (s : State) (o : Order) : State :=
  if s.dev ≠ .loaded ∨ s.hbmScrubbed = false then s.fetchNow o .state 3
  else if s.fetching then s.fetchNow o .busy 5
  else
    match s.take.active with
    | some r => if s.shardVerified r then s.fetchNow o .ok 0 else s.startFetch o
    | none => s.fetchNow o .state 3

/-- FETCH: its own code of Table 09.4 names the states that do not admit it. -/
def execFetch (o : Order) (s : State) : Host.Outcome State Fault Refusal :=
  .next (s.receive o 0x03 (fun _ => true) fun s => s.fetchOrder o)

/-- An UNLOAD stops a fetch (R274). -/
def State.stopFetch (s : State) : State := if s.fetching then s.unverify.endFetch 0 6 .cancelled else s

/-- A digest mismatched: the chunk is read again, or the fetch ends. -/
def State.mismatch (s : State) (i : Nat) : State :=
  let n := mapGet (fun _ => 0) s.fetch.retries i
  if n < s.fget Reg.FE_FETCH_CFG_RETRY then
    let s := { s with fetch.retries := mapPut (fun _ => 0) s.fetch.retries i (n + 1) }
    (s.bump Reg.FE_FETCH_RETRIES_COUNT).readChunk i
  else s.fetchFail i 1

/-- A chunk is verified: the next read is issued, or the shard is complete. -/
def State.chunkVerified (s : State) (i : Nat) : State :=
  let before := s.outstanding
  let s := { s with fetch.verified := s.fetch.verified ++ [i] }
  let s := s.fset Reg.FE_FETCH_DONE_CHUNKS s.fetch.verified.length
  if s.fetch.verified.length = s.chunks.length then s.fetchDone
  else s.readChunks (s.outstanding.filter fun j => !before.contains j)

/-- The read-back of REREAD: the same digest and no poisoned unit. -/
def State.readBack (s : State) (c : Chunk) : Bool × State :=
  let ((bs, ps), s) := s.hbmRead c.dest c.len
  (decide (sha256 bs = c.sha) && !ps.any id, s)

/-- A chunk's data arrive: hashed as they are written, and read back where REREAD asks for it. -/
def State.chunkData (s : State) (i : Nat) (c : Chunk) (data : List Byte) : State :=
  let s := s.hbmWrite c.dest data (List.replicate (data.length / 8) false)
  if sha256 data ≠ c.sha then s.mismatch i
  else if s.flag Reg.FE_FETCH_CFG_REREAD then
    let (ok, s) := s.readBack c
    if ok then s.chunkVerified i else s.mismatch i
  else s.chunkVerified i

/-- CHUNK_ARRIVAL: an outstanding chunk's read completes with its LEN bytes, or fails in transport. -/
def execChunkArrival (index : Nat) (data : List Byte) (transportFailed : Bool) (s : State) : Host.Outcome State Fault Refusal :=
  if s.fetching = true ∧ s.outstanding.contains index = true then
    match s.chunks[index]? with
    | some c =>
      if transportFailed then .next (s.fetchFail index 2)
      else if data.length = c.len then .next (s.chunkData index c data)
      else .next s
    | none => .next s
  else .next s

/-- FRONT_END_FRAME_DROP. -/
def execFrontEndFrameDrop (_port : Fin 2) (s : State) : Host.Outcome State Fault Refusal :=
  .next (if s.dev = .off then s else s.bump Reg.FE_DROP_COUNT)

/-! ## PTP (R276, R277)

The messages follow IEEE 1588-2019 (PRESUMED, log 74). -/

/-- Whether PTP takes in messages on a port. -/
def State.ptpPort (s : State) (p : Nat) : Bool :=
  s.flag Reg.FE_PTP_CFG_EN && bitOf (s.fget Reg.FE_PTP_CFG_PORTS) p && s.portUp p

/-- Whether the settings and the ports let the clock work: a domain and a transport that exist, a port that is up. -/
def State.ptpUsable (s : State) : Bool :=
  decide (s.fget Reg.FE_PTP_CFG_DOMAIN ≤ 127) && decide (s.fget Reg.FE_PTP_CFG_TRANSPORT ≠ 3) && (s.ptpPort 0 || s.ptpPort 1)

/-- The state of a clock that has no time transmitter: disabled, listening, or faulty. -/
def State.ptpIdle (s : State) : Nat := if !s.flag Reg.FE_PTP_CFG_EN then 0 else if s.ptpUsable then 1 else 4

/-- Whether the clock takes in a message: on an enabled port, of its domain, over its transport. -/
def State.ptpTakes (s : State) (h : PtpHead) : Bool :=
  s.ptpUsable && s.ptpPort h.port && decide (h.domain = s.fget Reg.FE_PTP_CFG_DOMAIN) &&
  decide (h.transport = s.fget Reg.FE_PTP_CFG_TRANSPORT)

/-- Whether a message comes from the time transmitter that the best master clock algorithm chose. -/
def State.ptpChosen (s : State) (h : PtpHead) : Bool := s.ptpTakes h && decide (s.time.ptp.chosen = some (h.port, h.sender))

/-- An offset from the time transmitter is measured: where PTP disciplines wall time, the device acts on it (R69). -/
def State.ptpOffset (s : State) (offset : Int) : State :=
  let v := max (-(2 ^ 31)) (min (2 ^ 31 - 1) offset)
  let s := s.fset Reg.FE_PTP_OFS_OFS (unsignedOf 32 v)
  if s.fget Reg.FE_PTP_STAT_STATE = 3 then
    let s := { s with time.ptpOn := true }.timeSignals
    if s.source = 2 then s.actOnError offset else s
  else s

/-- No time transmitter is chosen. -/
def State.ptpLost (s : State) : State :=
  let s := s.fset Reg.FE_PTP_STAT_STATE s.ptpIdle
  { s with time.ptpOn := false,
           time.ptp := { s.time.ptp with chosen := none, pair := none, last := none, ask := none, delay := none } }.timeSignals

/-- The order in which the best master clock algorithm prefers foreign masters: the data sets' members in turn, the smaller one first. -/
def ptpRank (m : (Nat × Nat) × PtpClock) : List Nat :=
  let c := m.2
  [c.priority1, c.clockClass, c.accuracy, c.variance, c.priority2, c.gm.toNat, c.steps, m.1.2, m.1.1]

/-- Whether one list of numbers precedes another, member by member. -/
def precedes : List Nat → List Nat → Bool
  | a :: as, b :: bs => decide (a < b) || (decide (a = b) && precedes as bs)
  | _, _ => false

/-- The best of the foreign masters. -/
def bestMaster (ms : List ((Nat × Nat) × PtpClock)) : Option ((Nat × Nat) × PtpClock) :=
  ms.foldl (fun best m =>
    match best with
    | some b => if precedes (ptpRank m) (ptpRank b) then some m else best
    | none => some m) none

/-- Show the grandmaster and the UTC offset of the time transmitter. -/
def State.ptpShow (s : State) (c : PtpClock) : State :=
  let s := s.fset Reg.FE_PTP_GM_CLOCKID c.gm.toNat
  match c.utc with
  | some u => (s.fsetb Reg.FE_PTP_UTC_VALID true).fset Reg.FE_PTP_UTC_UTCOFS u.toNat
  | none => s

/-- The best master clock algorithm: another time transmitter starts uncalibrated. -/
def State.ptpChoose (s : State) : State :=
  match bestMaster s.time.ptp.masters with
  | none => if s.time.ptp.chosen = none ∧ s.fget Reg.FE_PTP_STAT_STATE = s.ptpIdle then s else s.ptpLost
  | some m =>
    if s.time.ptp.chosen = some m.1 then s.ptpShow m.2
    else
      let s := (s.ptpLost.fset Reg.FE_PTP_STAT_PORT m.1.1).fset Reg.FE_PTP_STAT_STATE 2
      { s with time.ptp := { s.time.ptp with chosen := some m.1 } }.ptpShow m.2

/-- An Announce: its sender's data set replaces the one it sent before. A clock 255 steps away is no candidate. -/
def State.ptpAnnounce (s : State) (h : PtpHead) (c : PtpClock) : State :=
  let rest := s.time.ptp.masters.filter fun m => decide (m.1 ≠ (h.port, h.sender))
  let ms := if 255 ≤ c.steps then rest else rest ++ [((h.port, h.sender), c)]
  { s with time.ptp := { s.time.ptp with masters := ms } }.ptpChoose

/-- Ask for the path delay: a Delay_Req leaves, stamped by the wall tick. -/
def State.ptpAsk (s : State) (h : PtpHead) : State :=
  let p := s.time.ptp
  let n := p.asks % 65536
  { s with time.ptp := { p with ask := some (n, (s.wallNow : Int)), asks := p.asks + 1 } }.emit (.delayReq h.port h.domain h.transport n)

/-- A Sync is complete: sent at `origin`, received at `at_`. Its offset is measured once the path delay is known, which is asked for. -/
def State.ptpSynced (s : State) (h : PtpHead) (origin at_ : Int) : State :=
  let s := { s with time.ptp := { s.time.ptp with pair := none, last := some (origin, at_) } }
  let s := match s.time.ptp.delay with
    | some d => s.ptpOffset (at_ - origin - d)
    | none => s
  s.ptpAsk h

/-- A Delay_Resp completes the measurement of the path delay: half of the round trip; an uncalibrated clock becomes a time receiver. -/
def State.ptpDelay (s : State) (h : PtpHead) (arrival : Int) : State :=
  match s.time.ptp.ask, s.time.ptp.last with
  | some (n, sent), some (origin, at_) =>
    if n = h.seq then
      let d := (at_ - sent + (arrival - origin)) / 2
      let s := { s with time.ptp := { s.time.ptp with ask := none, delay := some d } }
      if s.fget Reg.FE_PTP_STAT_STATE = 2 then (s.fset Reg.FE_PTP_STAT_STATE 3).ptpOffset (at_ - origin - d) else s
    else s
  | _, _ => s

/-- The effect of a PTP message. -/
def State.ptp (s : State) (m : PtpMsg) : State :=
  match m with
  | .sync h (some origin) => if s.ptpChosen h then s.ptpSynced h origin s.wallNow else s
  | .sync h none => if s.ptpChosen h then { s with time.ptp := { s.time.ptp with pair := some (h.seq, (s.wallNow : Int)) } } else s
  | .followUp h origin =>
    match s.time.ptp.pair with
    | some (n, at_) => if s.ptpChosen h && decide (n = h.seq) then s.ptpSynced h origin at_ else s
    | none => s
  | .delayResp h arrival => if s.ptpChosen h then s.ptpDelay h arrival else s
  | .announce h c => if s.ptpTakes h then s.ptpAnnounce h c else s

/-- PTP_MESSAGE. -/
def execPtpMessage (m : PtpMsg) (s : State) : Host.Outcome State Fault Refusal :=
  .next (if s.dev = .off then s else s.ptp m)

/-- The clock starts anew under changed settings. -/
def State.ptpRestart (s : State) : State := { s with time.ptp := { s.time.ptp with masters := [] } }.ptpLost

/-- A port went up or down: the masters heard on a port that is down are gone. -/
def State.ptpPorts (s : State) : State :=
  { s with time.ptp := { s.time.ptp with masters := s.time.ptp.masters.filter fun m => s.ptpPort m.1.1 } }.ptpChoose

/-- FE_PORT of a port: link up and its speed. -/
def portCode (up fast : Bool) : Nat := if up then (if fast then 5 else 3) else 0

/-- FRONT_END_LINK_CHANGE. -/
def execFrontEndLinkChange (port : Fin 2) (up fast : Bool) (s : State) : Host.Outcome State Fault Refusal :=
  if s.dev = .off then .next s
  else
    .next (s.fset (if port.val = 0 then Reg.FE_PORT_P0 else Reg.FE_PORT_P1) (portCode up fast)).ptpPorts

end Sys2Proof.Machine
end

