-- ==== Sys2Proof/Machine/Coding.lean ====
section
/-! DEFINITION. What a link puts on its lanes: codewords with their Reed-Solomon code, control fields, packet headers and their
check codes, ordered-set bodies, lanes and scrambling (R280 to R283, R285, R286, R288, R302, R303, R305, R309). -/

namespace Sys2Proof.Machine

/-! ## The code (R281)

A codeword is read as a polynomial whose first symbol has the highest power (PRESUMED, log 108). -/

/-- A symbol: an element of GF(2^10), generated by x^10 + x^3 + 1. -/
abbrev Sym := BitVec 10

/-- Multiplication by α. -/
def gfDouble (x : Sym) : Sym := if x.msb then (x <<< 1) ^^^ 9#10 else x <<< 1

/-- The sum of α^i × a over the set bits i of b below n. -/
def gfMulTo (a b : Sym) : Nat → Sym → Sym
  | 0, acc => acc
  | n + 1, acc => gfMulTo a b n (gfDouble acc ^^^ (if b.getLsbD n then a else 0))

/-- The product of two symbols. -/
def gfMul (a b : Sym) : Sym := gfMulTo a b 10 0

/-- α to a power. -/
def gfAlpha : Nat → Sym
  | 0 => 1
  | n + 1 => gfDouble (gfAlpha n)

/-- The product of the squares a^2, a^4, … of which `n` are left. -/
def gfSquares : Nat → Sym → Sym → Sym
  | 0, _, acc => acc
  | n + 1, a, acc => gfSquares n (gfMul a a) (gfMul acc (gfMul a a))

/-- The inverse of a nonzero symbol: its power 2^10 − 2. -/
def gfInv (a : Sym) : Sym := gfSquares 9 a 1

/-- The sum of two polynomials, lowest power first. -/
def polyAdd : List Sym → List Sym → List Sym
  | [], q => q
  | p, [] => p
  | a :: p, b :: q => (a ^^^ b) :: polyAdd p q

/-- A polynomial times a symbol. -/
def polyScale (c : Sym) (p : List Sym) : List Sym := p.map (gfMul c)

/-- The product of two polynomials. -/
def polyMul : List Sym → List Sym → List Sym
  | [], _ => []
  | a :: p, q => polyAdd (polyScale a q) (0 :: polyMul p q)

/-- The value of a polynomial at a symbol. -/
def polyAt (x : Sym) : List Sym → Sym
  | [] => 0
  | a :: p => a ^^^ gfMul x (polyAt x p)

/-- The product of (x − α^i) for i below a number. -/
def rsGenerator : Nat → List Sym
  | 0 => [1]
  | n + 1 => polyMul [gfAlpha n, 1] (rsGenerator n)

/-- One step of the division by the generator: the remainder, highest power first, takes in a data symbol. -/
def rsStep (g rem : List Sym) (d : Sym) : List Sym :=
  List.zipWith (fun a b => a ^^^ gfMul (d ^^^ rem.headD 0) b) (rem.drop 1 ++ [0]) g

/-- The 12 parity symbols of the data symbols. -/
def rsParity (data : List Sym) : List Sym :=
  let g := (rsGenerator 12).reverse.drop 1
  data.foldl (rsStep g) (List.replicate 12 0)

/-- The value of a codeword at α^i. -/
def rsSyndrome (w : List Sym) (i : Nat) : Sym := w.foldl (fun acc c => gfMul acc (gfAlpha i) ^^^ c) 0

/-- The 12 syndromes of a received word. -/
def rsSyndromes (w : List Sym) : List Sym := (upFrom 0 12).map (rsSyndrome w)

/-- The search for the shortest recurrence of the syndromes: the locator, the one before its last change, its order, the steps since,
and the discrepancy then. -/
structure Locator where
  cur : List Sym
  old : List Sym
  order : Nat
  since : Nat
  disc : Sym
deriving DecidableEq, Repr

/-- How far the recurrence misses the syndrome `n`. -/
def Locator.miss (k : Locator) (ss : List Sym) (n : Nat) : Sym :=
  (upFrom 0 (k.order + 1)).foldl (fun acc i => acc ^^^ gfMul (k.cur.getD i 0) (ss.getD (n - i) 0)) 0

/-- Take the syndrome `n` into account. -/
def Locator.step (ss : List Sym) (k : Locator) (n : Nat) : Locator :=
  let d := k.miss ss n
  if d = 0 then { k with since := k.since + 1 }
  else
    let next := polyAdd k.cur (polyScale (gfMul d (gfInv k.disc)) (List.replicate k.since 0 ++ k.old))
    if 2 * k.order ≤ n then { cur := next, old := k.cur, order := n + 1 - k.order, since := 1, disc := d }
    else { k with cur := next, since := k.since + 1 }

/-- The error locator of the syndromes. -/
def rsLocate (ss : List Sym) : Locator :=
  (upFrom 0 12).foldl (Locator.step ss) { cur := [1], old := [1], order := 0, since := 1, disc := 1 }

/-- The formal derivative: the odd coefficients, one power lower. -/
def polyDeriv (p : List Sym) : List Sym := (upFrom 1 (p.length - 1)).map fun i => if i % 2 = 1 then p.getD i 0 else 0

/-- The error at the symbol `j` of a word of `n` symbols, if the locator names it. -/
def rsError (n : Nat) (ss : List Sym) (k : Locator) (j : Nat) : Option Sym :=
  let e := n - 1 - j
  let xinv := gfAlpha (1023 - e)
  if polyAt xinv k.cur = 0 then
    let value := polyAt xinv ((polyMul ss k.cur).take 12)
    some (gfMul (gfAlpha e) (gfMul value (gfInv (polyAt xinv (polyDeriv k.cur)))))
  else none

/-- A received word with up to 6 bad symbols corrected, and the places corrected; none for a word that the decoder cannot
correct. -/
def rsCorrect (w : List Sym) : Option (List Sym × List Nat) :=
  let ss := rsSyndromes w
  if ss.all (· == 0) then some (w, [])
  else
    let k := rsLocate ss
    let errs := (upFrom 0 w.length).map (rsError w.length ss k)
    let fixed := List.zipWith (fun a e => a ^^^ e.getD 0) w errs
    let places := (upFrom 0 w.length).filter fun j => (errs.getD j none).isSome
    if k.order ≤ 6 ∧ places.length = k.order ∧ (rsSyndromes fixed).all (· == 0) = true then some (fixed, places) else none

/-! ## Codewords (R282) -/

/-- A codeword's content: the control field and the body of 256 bytes. -/
structure Codeword where
  control : BitVec 82
  body : List Byte
deriving DecidableEq, Repr

/-- The 213 data symbols: the control field, then the body, bit 0 first. -/
def Codeword.data (c : Codeword) : List Sym :=
  let n := c.control.toNat + 2 ^ 82 * ofBytes (c.body.take 256)
  (upFrom 0 213).map fun i => BitVec.ofNat 10 (n / 2 ^ (10 * i))

/-- The 225 symbols of a codeword. -/
def Codeword.symbols (c : Codeword) : List Sym := c.data ++ rsParity c.data

/-- The content of 225 symbols. -/
def codewordOf (w : List Sym) : Codeword :=
  let n := (w.take 213).foldr (fun c acc => c.toNat + 1024 * acc) 0
  { control := BitVec.ofNat 82 n, body := toBytes 256 (n / 2 ^ 82) }

/-- TYPE. -/
def Codeword.type (c : Codeword) : Nat := bitsOf 81 80 c.control.toNat

/-- OSTYPE of an ordered set. -/
def Codeword.osType (c : Codeword) : Nat := bitsOf 79 76 c.control.toNat

/-- The active lanes of a mask, ascending. -/
def activeLanes (m : BitVec 4) : List Nat := (upFrom 0 4).filter fun i => m.getLsbD i

/-- The lane of the symbol `j` of the codeword in slot `slot`: the link's symbols go to its active lanes in turn. -/
def laneOf (m : BitVec 4) (slot j : Nat) : Nat :=
  let ls := activeLanes m
  ls.getD ((225 * slot + j) % ls.length) 0

/-- What a codeword puts on a lane. -/
def Codeword.onLane (c : Codeword) (m : BitVec 4) (slot lane : Nat) : List Sym :=
  ((c.symbols.zip (upFrom 0 225)).filter fun x => decide (laneOf m slot x.2 = lane)).map (·.1)

/-! ## Scrambling and signalling (R280) -/

/-- One step of the sequence of x^58 + x^39 + 1: its next bit, and the last 58 bits, newest least significant. -/
def scrambleStep (r : BitVec 58) : Bool × BitVec 58 :=
  let b := r.getLsbD 57 ^^ r.getLsbD 38
  (b, (r <<< 1) ||| (if b then 1 else 0))

/-- Scramble the bits of a lane; the scrambler goes on. -/
def scramble : BitVec 58 → List Bool → List Bool × BitVec 58
  | r, [] => ([], r)
  | r, b :: bs =>
    let (x, r) := scrambleStep r
    let (out, r) := scramble r bs
    ((b ^^ x) :: out, r)

/-- The bits of a lane's symbols, the first bit of a symbol first. -/
def laneBits (ss : List Sym) : List Bool := ss.flatMap fun c => (upFrom 0 10).map fun i => c.getLsbD i

/-- A lane's bits from an ALIGN codeword on, where the scrambler is reset, to a value that the spec leaves open (log 108). -/
def laneStream (lane : Nat) (ss : List Sym) : List Bool := (scramble (Config.scramblerReset lane) (laneBits ss)).1

/-- The PAM4 level of two bits, Gray-coded. -/
def pam4 (first second : Bool) : Nat :=
  match first, second with
  | false, false => 0
  | false, true => 1
  | true, true => 2
  | true, false => 3

/-! ## Control fields (Table 10.2) -/

/-- An ACK field that is valid. -/
def ackWord (nak : Bool) (seq cvc credits : Nat) : Nat :=
  2 ^ 31 + 2 ^ 30 * b2n nak + 2 ^ 18 * (seq % 4096) + 2 ^ 16 * (cvc % 4) + 2 ^ 8 * (credits % 256)

/-- The control field of a flit. -/
def flitControl (vc seq : Nat) (last bad : Bool) (pmap low : Nat) : BitVec 82 :=
  BitVec.ofNat 82 (2 ^ 78 * (vc % 4) + 2 ^ 77 * b2n last + 2 ^ 76 * b2n bad + 2 ^ 64 * (seq % 4096) + 2 ^ 32 * (pmap % 2 ^ 32) + low % 2 ^ 32)

/-- The control field of an ordered set. -/
def setControl (osType copy ack : Nat) : BitVec 82 :=
  BitVec.ofNat 82 (2 ^ 80 + 2 ^ 76 * (osType % 16) + 2 ^ 74 * (copy % 4) + ack % 2 ^ 32)

/-- An idle codeword. -/
def idleCodeword (ack : Nat) : Codeword := { control := BitVec.ofNat 82 (2 * 2 ^ 80 + ack % 2 ^ 32), body := List.replicate 256 0 }

/-! ## Packets (R286, R288, Table 10.3) -/

/-- One bit of a CRC of width 16 that takes the highest bit first. -/
def crc16Bit (c : BitVec 16) (b : Bool) : BitVec 16 := if c.msb ^^ b then (c <<< 1) ^^^ 0x1021#16 else c <<< 1

/-- The CRC-16 of R286 over the bits of a number from bit `hi` down to bit `lo`, `n` of them. -/
def crc16 (x hi : Nat) : Nat → BitVec 16 → BitVec 16
  | 0, c => c
  | n + 1, c => crc16 x (hi - 1) n (crc16Bit c (bitOf x hi))

/-- Bits [255:16] of a packet's header, as a number whose bits [15:0] are 0. -/
def Packet.headerBits (p : Packet) : Nat :=
  2 ^ 252 * (p.pkind % 16) + 2 ^ 248 * (p.nflit % 16) + 2 ^ 247 * b2n p.flag + 2 ^ 234 * (p.sync % 2 ^ 13) +
  2 ^ 216 * (p.ddev % 2 ^ 18) + 2 ^ 198 * (p.sdev % 2 ^ 18) + 2 ^ 192 * (p.dcore % 64) + 2 ^ 186 * (p.score % 64) +
  2 ^ 178 * (p.route % 256) + 2 ^ 162 * (p.remt % 2 ^ 16) + 2 ^ 130 * (p.pland % 2 ^ 32) + 2 ^ 90 * (p.daddr % 2 ^ 40) +
  2 ^ 78 * (p.data.length % 2 ^ 12) + 2 ^ 62 * (p.take % 2 ^ 16)

/-- HCRC of a packet, from bit 255 down (PRESUMED, log 108). -/
def Packet.hcrc (p : Packet) : BitVec 16 := crc16 p.headerBits 255 240 (BitVec.allOnes 16)

/-- The bytes of a packet: header, data, zeros up to whole flits. -/
def Packet.bytes (p : Packet) : List Byte :=
  let bs := toBytes 32 (p.headerBits + p.hcrc.toNat) ++ p.data
  bs ++ List.replicate (256 * (p.nflit + 1) - bs.length) 0

/-- The poison flags of a packet's granules, header first; one of the header granules stands for them. -/
def Packet.granules (p : Packet) : List Bool := [p.hdrPoison, false, false, false] ++ p.poison

/-- PMAP of the flit `f` of a packet. -/
def Packet.pmap (p : Packet) (f : Nat) : Nat :=
  ((upFrom 0 32).map fun g => if p.granules.getD (32 * f + g) false then 2 ^ g else 0).sum

/-- The body of the flit `f` of a packet. -/
def Packet.flitBody (p : Packet) (f : Nat) : List Byte := (p.bytes.drop (256 * f)).take 256

/-- Bits [79:32] of the control field of the flit `f`, with BAD taken as 0, in bytes, lowest first. -/
def Packet.flitHead (p : Packet) (seq f : Nat) : List Byte :=
  toBytes 6 ((flitControl p.vc seq (decide (f = p.nflit)) false (p.pmap f) 0).toNat / 2 ^ 32)

/-- CRC of a packet under a sequence number: the CRC-32 of IEEE 802.3, flit by flit. -/
def Packet.crc (p : Packet) (seq : Nat) : Word :=
  crcBytes 0xEDB88320#32 (BitVec.allOnes 32) ((upFrom 0 (p.nflit + 1)).flatMap fun f => p.flitHead seq f ++ p.flitBody f) ^^^
    BitVec.allOnes 32

/-- The codewords of a packet: flits in order, the last with LAST, the CRC and, where the packet is stomped, BAD (R298). -/
def Packet.codewords (p : Packet) (seq : Nat) (bad : Bool) : List Codeword :=
  (upFrom 0 (p.nflit + 1)).map fun f =>
    let last := decide (f = p.nflit)
    { control := flitControl p.vc seq last (last && bad) (p.pmap f) (if last then (p.crc seq).toNat else 0), body := p.flitBody f }

/-- Whether the CRC that a receiver found is that of what it received. -/
def Rx.crcOk (rx : Rx) (p : Packet) : Bool := decide (rx.crc = p.crc rx.seq)

/-- Whether the HCRC that a receiver found is that of the header it received. -/
def Rx.hcrcOk (rx : Rx) (p : Packet) : Bool := decide (rx.hcrc = p.hcrc)

/-- What a receiver finds on a packet that arrives undamaged. -/
def Packet.clean (p : Packet) (seq : Nat) : Rx := { seq := seq, crc := p.crc seq, hcrc := p.hcrc, bad := false, fixed := [] }

/-! ## Ordered sets (Table 10.5) -/

/-- An ordered set: every body byte not given is 0. -/
def orderedSet (osType copy : Nat) (bytes : List Byte) : Codeword :=
  { control := setControl osType copy 0, body := bytes ++ List.replicate (256 - bytes.length) 0 }

/-- ALIGN: the slot count, then a lane pattern that the spec does not give (log 108). -/
def alignSet (slot : Nat) : Codeword :=
  orderedSet 1 0 (toBytes 4 slot ++ (upFrom 4 252).map Config.alignPattern)

/-- Whether an ordered-set type is urgent: it takes the next slot, even between two flits of a packet (R302). -/
def urgentSet (osType : Nat) : Bool := decide (osType = 2) || decide (osType = 3) || decide (osType = 4)

/-- The types that Table 10.5 reserves. -/
def reservedSet (osType : Nat) : Bool := decide (osType = 0) || decide (10 ≤ osType)

/-- The first slot from `slot` on that a set may take on a link whose packet in progress leaves its next boundary at `boundary`;
slots that are multiples of 256 carry ALIGN (R283, R302). -/
def setSlot (osType slot boundary : Nat) : Nat :=
  let n := if urgentSet osType then slot else max slot boundary
  if n % 256 = 0 then n + 1 else n

/-- The codewords of what the device sends on a link; nothing for any other output. -/
def Out.codewords : Out → List Codeword
  | .packet _ seq p => p.codewords seq false
  | .stomp _ seq p => p.codewords seq true
  | .ackSent _ nak seq cvc credits => [idleCodeword (ackWord nak seq cvc credits)]
  | .slate _ tsend techo trecv dev holdover unaligned count =>
    [orderedSet 2 0 (toBytes 8 tsend.toNat ++ toBytes 8 techo.toNat ++ toBytes 8 trecv.toNat ++ toBytes 3 (dev % 2 ^ 18) ++
      toBytes 1 (b2n holdover + 2 * b2n unaligned) ++ toBytes 2 count)]
  | .hold _ take gate frames reason origin copy =>
    [orderedSet 3 copy (toBytes 2 take ++ toBytes 3 (gate % 2 ^ 20) ++ toBytes 1 frames ++ toBytes 1 (reason % 16) ++
      toBytes 3 (origin % 2 ^ 18))]
  | .cutMsg _ take gate shape digest adopt copy =>
    [orderedSet 4 copy (toBytes 2 take ++ toBytes 3 (gate % 2 ^ 20) ++ toBytes 3 (shape % 64) ++ toBytes 8 digest.toNat ++
      toBytes 2 adopt)]
  | .creditSet _ sent freed =>
    [orderedSet 5 0 ((upFrom 0 3).flatMap fun vc => toBytes 4 (sent.getD vc 0) ++ toBytes 4 (freed.getD vc 0))]
  | .trainSet _ b =>
    [orderedSet 6 0 (toBytes 3 (b.device % 2 ^ 18) ++ toBytes 1 b.slot ++ toBytes 1 b.role.toNat ++ toBytes 1 (b.link % 64) ++
      toBytes 4 b.grade.toNat ++ toBytes 1 b.lanes.toNat)]
  | .lanesSet _ m => [orderedSet 7 0 (toBytes 1 m.toNat)]
  | .sleepSet _ request grant => [orderedSet 8 0 (toBytes 1 (b2n request + 2 * b2n grant))]
  | .discardSet _ seq => [orderedSet 9 0 (toBytes 2 (seq % 4096))]
  | _ => []

end Sys2Proof.Machine
end

