-- ==== Sys2Proof/Machine/Links.lean ====
section
/-! DEFINITION. Links: states, training and cabling, loss and alternates, lane degrade, sleep, slates and hold markers (R36, R37,
R56 to R60, R67 to R71, R280 to R284, R300 to R312, R314 to R322, R367 to R371, R462). -/

namespace Sys2Proof.Machine

/-! ## Link states (Table 10.6) -/

/-- DISABLED. -/
def stateDisabled : Nat := 0
/-- DOWN. -/
def stateDown : Nat := 1
/-- TRAIN. -/
def stateTrain : Nat := 2
/-- SLEEP. -/
def stateSleep : Nat := 5
/-- WAKE. -/
def stateWake : Nat := 6
/-- FAILED. -/
def stateFailed : Nat := 7

/-- Whether a link is in ALIGNCHK or UP. -/
def State.linkOpen (s : State) (l : Nat) : Bool := decide (s.linkState l = stateAlign) || decide (s.linkState l = stateUp)

/-- Whether a link is in use by the armed reel. -/
def State.linkUsed (s : State) (l : Nat) : Bool := s.dev.inTake && s.flag (Reg.LK_STATUS_INUSE l)

/-- Lanes of a mask. -/
def laneCount (m : BitVec 4) : Nat := ((upFrom 0 4).filter fun i => m.getLsbD i).length

/-- Enabled lanes. -/
def State.laneEnable (s : State) (l : Nat) : BitVec 4 := BitVec.ofNat 4 (s.fget (Reg.LK_CTRL_LANEEN l))

/-- The parent's slates end: the device keeps its remaining time signals, or holdover (R67, R68). -/
def State.parentLost (s : State) (l : Nat) : State :=
  if s.hasParent = true ∧ s.fget Reg.TB_TREE_PLINK = l then { s with time.slateOn := false }.timeSignals else s

/-- The identity of a link's partner, while it is valid: device and link number. -/
def State.partnerId (s : State) (l : Nat) : Option (Nat × Nat) :=
  if s.flag (Reg.LK_STATUS_PARTNER l) then some (s.fget (Reg.LK_PARTNER_ID_DEVICE l), s.fget (Reg.LK_PARTNER_ID_LINK l)) else none

/-- A partner appears or disappears, or is another one (R309, R322): source 0x08, and management learns the link, both identities and
the wall tick. -/
def State.partnerChange (s : State) (l : Nat) (new : Option (Nat × Nat)) : State :=
  (s.emit (.partnerNotice l (s.partnerId l) new s.wallNow)).raise 0x08 2 l (Config.faultDetail 0x08 l).toNat

/-- The partner disappears from a trained link. -/
def State.partnerGone (s : State) (l : Nat) : State :=
  if s.flag (Reg.LK_STATUS_PARTNER l) then (s.partnerChange l none).fsetb (Reg.LK_STATUS_PARTNER l) false else s

/-- What a link that is DISABLED, DOWN or in TRAIN has lost: its travel and its partner. Only a link that trains anew loses its partner
without a notice. -/
def State.untrained (s : State) (l code : Nat) : State :=
  let s := s.fsetb (Reg.TB_TRAVEL_LINK_VALID l) false
  if code = stateTrain then s.fsetb (Reg.LK_STATUS_PARTNER l) false else s.partnerGone l

/-- Enter a link state. A link that leaves ALIGNCHK and UP brings no slates. -/
def State.toLink (s : State) (l code : Nat) : State :=
  let s := (s.fset (Reg.LK_STATUS_STATE l) code).onLink l fun k => { k with stateTick := s.wallNow }
  let s := if code = stateAlign ∨ code = stateUp then s else s.parentLost l
  if code ≤ 2 then s.untrained l code else s

/-- The fitness figure of links on fewer than 4 lanes (R386). -/
def State.noteLanes (s : State) : State :=
  let n := ((upFrom 0 64).filter fun l => s.linkOpen l && (decide (laneCount (s.link l).txMask < 4) || decide (laneCount (s.link l).rxMask < 4))).length
  s.fset Reg.FC_FITNESS_LANEDEG n

/-! ## Loss of a link (R300, R307, R369 to R371, R382) -/

/-- Call for a link's alternate: installed at once while plan time is stopped, else at the gate of a hold with reason 0x5; a link
without one raises source 0x26. -/
def State.callAlternate (s : State) (l : Nat) : State :=
  match s.altOf l with
  | none => s.raise 0x26 2 l (Config.faultDetail 0x26 l).toNat
  | some i =>
    if s.stopped then s.installAlt i
    else
      let todo := if s.take.altPending.contains i then s.take.altPending else s.take.altPending ++ [i]
      { s with take.altPending := todo }.placeRequest (s.eligibleGate / 4096) 1 5

/-- Whether every link in use is lost: failed, or lost to the plan. -/
def State.allLost (s : State) : Bool :=
  (upFrom 0 64).all fun l => !s.flag (Reg.LK_STATUS_INUSE l) || (s.link l).failedInTake

/-- A link is lost to the take: source 0x11, its alternate, and 0x31 with the last one. -/
def State.linkLost (s : State) (l : Nat) : State :=
  if s.linkUsed l then
    let s := ((s.onLink l fun k => { k with failedInTake := true }).raise 0x11 2 l (Config.faultDetail 0x11 l).toNat).callAlternate l
    if s.allLost then s.raise 0x31 0 0 (Config.faultDetail 0x31 0).toNat else s
  else s

/-- A link enters FAILED. -/
def State.failLink (s : State) (l : Nat) : State := (s.toLink l stateFailed).linkLost l

/-- LINK_DEAD: no codeword for 16,384 ticks, or no ACK progress for 65,536 ticks while packets are unacknowledged. -/
def execLinkDead (l : Fin 64) (s : State) : Host.Outcome State Fault Refusal :=
  let k := s.link l.val
  let silent := decide (k.codeTick + 16384 ≤ s.wallNow)
  let stuck := !(k.replay.isEmpty && k.toSend.isEmpty) && decide (k.ackTick + 65536 ≤ s.wallNow)
  if s.linkOpen l.val then
    if silent then .next ((s.failLink l.val).partnerGone l.val)
    else if stuck then .next (s.failLink l.val)
    else .next s
  else .next s

/-- LOSS_OF_SIGNAL on every lane. -/
def execLossOfSignal (l : Fin 64) (s : State) : Host.Outcome State Fault Refusal :=
  .next (if s.linkOpen l.val then (s.failLink l.val).partnerGone l.val else s)

/-- FAILED_TIMEOUT: after 10 ms. -/
def execFailedTimeout (l : Fin 64) (s : State) : Host.Outcome State Fault Refusal :=
  .next (if s.linkState l.val = stateFailed ∧ (s.link l.val).stateTick + 10000000 ≤ s.wallNow then s.toLink l.val stateDown else s)

/-! ## Lane degrade (R306, R307) -/

/-- A direction of a link has fewer lanes: below LANESMIN in a take the link is lost to the plan; else source 0x05. -/
def State.fewerLanes (s : State) (l n : Nat) : State :=
  if s.linkUsed l = true ∧ n < s.fget (Reg.LK_PLAN_LANESMIN l) then (s.fsetb (Reg.LK_STATUS_PLANLOST l) true).linkLost l
  else s.raise 0x05 2 l (Config.faultDetail 0x05 l).toNat

/-- A receiver declares a lane bad; LANES goes out where the cabling check admits it (R306, R307, R320). -/
def State.laneBad (s : State) (l : Nat) (lane : Fin 4) : State :=
  let k := s.link l
  let bit := BitVec.ofNat 4 (2 ^ lane.val)
  if s.linkOpen l = false ∨ k.rxMask &&& bit = 0 then s
  else
    let m := k.rxMask &&& ~~~bit
    let s := s.setLink l { k with rxMask := m }
    if laneCount m < 2 then
      let s := if s.linkUsed l then s.fsetb (Reg.LK_STATUS_PLANLOST l) true else s
      (s.failLink l).fset Reg.FC_FITNESS_LINKS (s.fget Reg.FC_FITNESS_LINKS - 1)
    else
      let s := if s.matched l then s.emit (.lanesSet l m) else s
      (s.fewerLanes l (laneCount m)).noteLanes

/-- LANE_LOCK_LOSS. -/
def execLaneLockLoss (l : Fin 64) (lane : Fin 4) (s : State) : Host.Outcome State Fault Refusal := .next (s.laneBad l.val lane)

/-- LANE_ERROR_LIMIT: more corrected symbols within 2^20 codewords than LK_LANEMAX. They were counted as their codewords came in. -/
def execLaneErrorLimit (l : Fin 64) (lane : Fin 4) (symbols : Nat) (s : State) : Host.Outcome State Fault Refusal :=
  .next (if s.linkOpen l.val = true ∧ s.fget (Reg.LK_LANEMAX_LIMIT l.val) < symbols then s.laneBad l.val lane else s)

/-- Whether the device receives on its links: powered, and not in FAILED. -/
def State.listens (s : State) : Bool := decide (s.dev ≠ .off) && decide (s.dev ≠ .failed)

/-- LANES: the partner asks for a mask of at least 2 lanes; the switch follows at the next ALIGN slot. -/
def execLanes (l : Fin 64) (mask : BitVec 4) (s : State) : Host.Outcome State Fault Refusal :=
  let m := (s.link l.val).txMask &&& mask
  if s.listens = true ∧ s.linkOpen l.val = true ∧ s.matched l.val = true ∧ 2 ≤ laneCount m ∧ m ≠ (s.link l.val).txMask then
    let n := (s.link l.val).slot s.wallNow (s.fget (Reg.LK_STATUS_LANES l.val))
    let s := (s.codeword l.val).onLink l.val fun k => { k with newMask := some m, maskDue := (n / 256 + 1) * 256 }
    .next (s.fewerLanes l.val (laneCount m))
  else .next s

/-- LANE_MASK_SWITCH at the next ALIGN slot. -/
def execLaneMaskSwitch (l : Fin 64) (s : State) : Host.Outcome State Fault Refusal :=
  let k := s.link l.val
  let n := k.slot s.wallNow (s.fget (Reg.LK_STATUS_LANES l.val))
  match k.newMask with
  | none => .next s
  | some m =>
    if n < k.maskDue then .next s
    else
      let s := s.setLink l.val { k with txMask := m, newMask := none, slotBase := n, slotFrom := s.wallNow }
      .next (((s.fset (Reg.LK_STATUS_LANES l.val) (laneCount m)).emit (.laneSwitch l.val m)).noteLanes)

/-! ## Training (R308, R309, R318) -/

/-- The identity that this device sends in TRAIN (R317). -/
def State.trainBody (s : State) (l : Nat) : TrainBody :=
  { device := s.deviceId, slot := s.manage.straps.slot.toNat, role := s.manage.straps.role, link := l, grade := s.view 4,
    lanes := s.laneEnable l }

/-- SIGNAL_DETECT: signal on at least 2 enabled lanes of a DOWN link. -/
def execSignalDetect (l : Fin 64) (mask : BitVec 4) (s : State) : Host.Outcome State Fault Refusal :=
  if s.listens = true ∧ s.linkState l.val = stateDown ∧ 2 ≤ laneCount (mask &&& s.laneEnable l.val) then
    let s := (s.toLink l.val stateTrain).onLink l.val fun k => { k with trains := [] }
    .next ((s.partnerChange l.val none).emit (.trainSet l.val (s.trainBody l.val)))
  else .next s

/-- TRAIN: the last two sets received are kept; sets go out until training is complete. -/
def execTrain (l : Fin 64) (b : TrainBody) (s : State) : Host.Outcome State Fault Refusal :=
  if s.listens = true ∧ s.linkState l.val = stateTrain then
    let s := (s.codeword l.val).onLink l.val fun k => { k with trains := keepLast 2 (k.trains ++ [b]) }
    .next (s.emit (.trainSet l.val (s.trainBody l.val)))
  else .next s

/-- The partner that two identical TRAIN sets name. -/
def Link.partner (k : Link) : Option TrainBody :=
  match k.trains with
  | [a, b] => if a = b then some b else none
  | _ => none

/-! ## The cabling check (R319, Table 11.2) -/

/-- KIND, LINK and DEVICE of a link's entry in the cabling plan. -/
def State.planEntry (s : State) (l : Nat) : Nat × Nat × Nat :=
  let e := (s.manage.plan.getD l 0).toNat
  (bitsOf 31 30 e, bitsOf 29 24 e, bitsOf 17 0 e)

/-- The plane of a plane link (Table 11.1). -/
def planeOf (l : Nat) : Nat := if l < 32 then l else l - 16

/-- Whether a partner is the one that the plan has for a link: for a plane link the Rileth port of its own slot, on the link's
plane. -/
def State.asPlanned (s : State) (l : Nat) (b : TrainBody) : Bool :=
  match s.planEntry l with
  | (0, _, _) => false
  | (1, _, _) => decide (b.device = 0x3FFFF) && decide (b.link = s.ownSlot) && decide (b.slot = planeOf l)
  | (_, ln, dev) => decide (b.device = dev) && decide (b.link = ln)

/-- Whether a partner's device is the one that the plan has for a link. -/
def State.plannedDevice (s : State) (l : Nat) (b : TrainBody) : Bool :=
  match s.planEntry l with
  | (0, _, _) => false
  | (1, _, _) => decide (b.device = 0x3FFFF)
  | (_, _, dev) => decide (b.device = dev)

/-- The result of the check of a trained link: 1 MATCH, 2 WRONGEND, 3 SWAPPED, 4 FOREIGN, 5 UNEXPECTED. A partner planned for
another link is SWAPPED before its device makes it WRONGEND. -/
def State.cablingResult (s : State) (l : Nat) (b : TrainBody) : Nat :=
  if (s.planEntry l).1 = 0 then 5
  else if s.asPlanned l b then 1
  else if (upFrom 0 64).any fun m => decide (m ≠ l) && s.asPlanned m b then 3
  else if s.plannedDevice l b then 2
  else 4

/-- Store a cabling result; any but MATCH is reported. In the bench position no check runs (R316). -/
def State.cabling (s : State) (l r : Nat) : State :=
  if s.manage.straps.role = 2 then s
  else
    let s := s.fset (Reg.LK_CABLE_RESULT l) r
    if r = 1 then s else s.raise 0x08 2 l (Config.faultDetail 0x08 l).toNat

/-! ## Slates going out (R37, R303) -/

/-- Send a slate. -/
def State.sendSlate (s : State) (l : Nat) : State :=
  let k := s.link l
  let s := s.emit (.slate l (BitVec.ofNat 64 s.wallNow) k.lastTsend k.lastTrecv s.deviceId s.holdover
    (s.flag Reg.TB_STATUS_UNALIGNED) k.slateCount)
  s.setLink l { k with slateCount := (k.slateCount + 1) % 65536, slateTick := s.wallNow }

/-- SLATE_SEND: INTERVAL frames after the last one, 0 taken as 1 (Table 02.17); no slates in SLEEP, nor from a device in FAILED (R310, R367). -/
def execSlateSend (l : Fin 64) (s : State) : Host.Outcome State Fault Refusal :=
  .next (if s.listens = true ∧ s.linkOpen l.val = true ∧
      (s.link l.val).slateTick + 512 * max 1 (s.fget Reg.TB_SLATE_CFG_INTERVAL) ≤ s.wallNow then s.sendSlate l.val else s)

/-! ## Training complete -/

/-- The sequence numbers are zero and the credits those of R293; packets that were unacknowledged are lost (log 60). -/
def Link.trained (k : Link) (m : BitVec 4) (now : Nat) : Link :=
  { k with txSeq := 0, rxSeq := 0, nakSent := false, replay := [], toSend := [], sent := [0, 0, 0], freed := [0, 0, 0],
           accepted := [0, 0, 0], partnerFreed := [0, 0, 0], ackTick := now, rtoTick := now, codeTick := now, packetTick := now,
           creditTick := now, txMask := m, rxMask := m, newMask := none, lastTsend := 0, lastTrecv := 0, slateCount := 0,
           slept := false, discards := [], sleepAsked := false, alignHeld := false, credited := true, lastAcc := 4095,
           slotBase := 0, slotFrom := now, maskDue := 0, lastSet := none }

/-- The partner's identity (R309, R318). -/
def State.showPartner (s : State) (l : Nat) (b : TrainBody) : State :=
  let changed := decide (s.fget (Reg.LK_PARTNER_ID_DEVICE l) ≠ b.device) || decide (s.fget (Reg.LK_PARTNER_ID_LINK l) ≠ b.link) ||
    decide (s.fget (Reg.LK_PARTNER_POS_SLOT l) ≠ b.slot) || decide (s.fget (Reg.LK_PARTNER_POS_ROLE l) ≠ b.role.toNat)
  let old := (s.fget (Reg.LK_PARTNER_ID_DEVICE l), s.fget (Reg.LK_PARTNER_ID_LINK l))
  let s := (s.fset (Reg.LK_PARTNER_ID_DEVICE l) b.device).fset (Reg.LK_PARTNER_ID_LINK l) b.link
  let s := (s.fset (Reg.LK_PARTNER_POS_SLOT l) b.slot).fset (Reg.LK_PARTNER_POS_ROLE l) b.role.toNat
  let s := (s.fset (Reg.LK_PARTNER_POS_LANECAP l) b.lanes.toNat).fsetb (Reg.LK_STATUS_PARTNER l) true
  if changed then
    (s.emit (.partnerNotice l (some old) (some (b.device, b.link)) s.wallNow)).raise 0x08 2 l (Config.faultDetail 0x08 l).toNat
  else s

/-- A link starts in ALIGNCHK on a lane mask. -/
def State.toAlign (s : State) (l : Nat) (m : BitVec 4) : State :=
  ((s.toLink l stateAlign).fset (Reg.LK_STATUS_LANES l) (laneCount m)).noteLanes

/-- TRAINING_COMPLETE on the lanes of a mask. -/
def execTrainingComplete (l : Fin 64) (mask : BitVec 4) (s : State) : Host.Outcome State Fault Refusal :=
  let m := mask &&& s.laneEnable l.val
  match (s.link l.val).partner with
  | none => .next s
  | some b =>
    if s.listens = true ∧ s.linkState l.val = stateTrain ∧ 2 ≤ laneCount m then
      let s := s.onLink l.val fun k => k.trained m s.wallNow
      let s := (s.toAlign l.val m).showPartner l.val b
      .next ((s.cabling l.val (s.cablingResult l.val b)).sendSlate l.val)
    else .next s

/-- TRAINING_TIMEOUT: after 50 ms the link is DOWN; a planned partner is MISSING. -/
def execTrainingTimeout (l : Fin 64) (s : State) : Host.Outcome State Fault Refusal :=
  if s.linkState l.val = stateTrain ∧ (s.link l.val).stateTick + 50000000 ≤ s.wallNow then
    let s := s.toLink l.val stateDown
    .next (if (s.planEntry l.val).1 = 0 then s else s.cabling l.val 6)
  else .next s

/-! ## Requests over the registers (Table 10.7) -/

/-- LK_CTRL.EN written: ignored with a notice on a link in use during a take. -/
def State.linkEnable (s : State) (l : Nat) (en : Bool) : State :=
  if s.linkUsed l then s.notice 313 (Reg.LK_CTRL l)
  else
    let s := s.fsetb (Reg.LK_CTRL_EN l) en
    if en then (if s.linkState l = stateDisabled then s.toLink l stateDown else s)
    else s.toLink l stateDisabled

/-- LK_CTRL_EN, over any path. -/
def execLkCtrlEn (p : Path) (l : Fin 64) (en : Bool) (s : State) : Host.Outcome State Fault Refusal :=
  .next (if s.pathOpen p then s.linkEnable l.val en else s)

/-- RETRAIN written: from ALIGNCHK or UP outside a take or on a link not in use; from FAILED always. The bit stays set where the link
does not act on it, and clears when it does (R13; DESIGN CHOICE, log 109). -/
def State.retrain (s : State) (l : Nat) : State :=
  if s.linkState l = stateFailed then (s.toLink l stateDown).fsetb (Reg.LK_CTRL_RETRAIN l) false
  else if s.linkOpen l = true ∧ s.linkUsed l = false then
    let s := ((s.toLink l stateTrain).fsetb (Reg.LK_CTRL_RETRAIN l) false).onLink l fun k => { k with trains := [] }
    s.emit (.trainSet l (s.trainBody l))
  else s.fsetb (Reg.LK_CTRL_RETRAIN l) true

/-- RETRAIN, over any path. -/
def execRetrain (p : Path) (l : Fin 64) (s : State) : Host.Outcome State Fault Refusal :=
  .next (if s.pathOpen p then s.retrain l.val else s)

/-! ## Sleep and wake (R310, R311) -/

/-- Ask the partner for sleep, where the link may sleep; else the request is refused and clears. -/
def State.askSleep (s : State) (l : Nat) : State :=
  if s.linkState l = stateUp ∧ s.linkUsed l = false ∧ s.matched l = true then
    ((s.fsetb (Reg.LK_CTRL_SLEEP l) true).onLink l fun k => { k with sleepAsked := true }).emit (.sleepSet l true false)
  else s.fsetb (Reg.LK_CTRL_SLEEP l) false

/-- LK_SLEEP_REQUEST, over any path. -/
def execLkSleepRequest (p : Path) (l : Fin 64) (s : State) : Host.Outcome State Fault Refusal :=
  .next (if s.pathOpen p then s.askSleep l.val else s)

/-- IDLE_TIMEOUT: no packet for IDLETO × 1,024 frames. -/
def execIdleTimeout (l : Fin 64) (s : State) : Host.Outcome State Fault Refusal :=
  let n := s.fget (Reg.LK_CFG_IDLETO l.val)
  .next (if s.listens = true ∧ n ≠ 0 ∧ s.linkState l.val = stateUp ∧
      (s.link l.val).packetTick + n * 1024 * 512 ≤ s.wallNow then s.askSleep l.val else s)

/-- A link whose sleep is granted sleeps once nothing is unacknowledged. -/
def State.sleepDrained (s : State) (l : Nat) : State :=
  let k := s.link l
  if k.slept = true ∧ s.linkState l = stateUp ∧ k.replay.isEmpty = true ∧ k.toSend.isEmpty = true then s.toLink l stateSleep else s

/-- Sleep is granted on this link. -/
def State.sleepGranted (s : State) (l : Nat) : State :=
  ((s.fsetb (Reg.LK_CTRL_SLEEP l) false).onLink l fun k => { k with slept := true, sleepAsked := false }).sleepDrained l

/-- SLEEP: a request is granted unless the link is in use here; an answer to a request of ours grants or refuses it. -/
def execSleep (l : Fin 64) (request grant : Bool) (s : State) : Host.Outcome State Fault Refusal :=
  if s.listens = true ∧ s.linkState l.val = stateUp ∧ s.matched l.val = true then
    let s := s.codeword l.val
    if request then
      if s.linkUsed l.val then .next (s.emit (.sleepSet l.val false false))
      else .next ((s.emit (.sleepSet l.val false true)).sleepGranted l.val)
    else if (s.link l.val).sleepAsked then
      if grant = true ∧ s.linkUsed l.val = false then .next (s.sleepGranted l.val)
      else .next ((s.fsetb (Reg.LK_CTRL_SLEEP l.val) false).onLink l.val fun k => { k with sleepAsked := false })
    else .next s
  else .next s

/-- A SLEEP link starts its fast retrain; the WAKE request clears as it leaves SLEEP. -/
def State.wakeLink (s : State) (l : Nat) : State := (s.toLink l stateWake).fsetb (Reg.LK_CTRL_WAKE l) false

/-- WAKE written: a SLEEP link wakes; else the bit stays set until the link next leaves SLEEP (R13, Table 10.7). -/
def State.askWake (s : State) (l : Nat) : State :=
  if s.linkState l = stateSleep then (s.wakeLink l).emit (.wakeSignal l) else s.fsetb (Reg.LK_CTRL_WAKE l) true

/-- WAKE, over any path. -/
def execWake (p : Path) (l : Fin 64) (s : State) : Host.Outcome State Fault Refusal :=
  .next (if s.pathOpen p then s.askWake l.val else s)

/-- PARTNER_WAKE_SIGNAL. -/
def execPartnerWakeSignal (l : Fin 64) (s : State) : Host.Outcome State Fault Refusal :=
  .next (if s.listens = true ∧ s.linkState l.val = stateSleep then s.wakeLink l.val else s)

/-- WAKE_TIMEOUT: after 20 µs. -/
def execWakeTimeout (l : Fin 64) (s : State) : Host.Outcome State Fault Refusal :=
  .next (if s.linkState l.val = stateWake ∧ (s.link l.val).stateTick + 20000 ≤ s.wallNow then
    s.toLink l.val stateDown else s)

/-! ## Slates coming in (R37, R68 to R71, R303, R311) -/

/-- Delay and offset of the partner relative to this device, from the four timestamps (R37). -/
def slateResult (t1 t2 t3 t4 : DWord) : Int × Int :=
  ((((t4 - t1).toInt - (t3 - t2).toInt)).tdiv 2, (((t2 - t1).toInt - (t4 - t3).toInt)).tdiv 2)

/-- A link in use that enters ALIGNCHK in a take asks for a realignment hold, once, with its measured error (R71, R311). -/
def State.alignHold (s : State) (l : Nat) (e : Int) : State :=
  if s.linkUsed l = false ∨ s.stopped = true ∨ (s.link l).alignHeld = true then s
  else
    let s := s.onLink l fun k => { k with alignHeld := true }
    if 130048 < e.natAbs then s.raise 0x24 2 l (Config.faultDetail 0x24 l).toNat
    else
      let g := ceilMul (s.planNow - s.time.parentErr + s.fget Reg.TB_HOLD_CFG_DIAM + s.fget Reg.TB_HOLD_CFG_MARGIN) 4096
      s.requestHoldAt (g / 4096) (min 255 (ceilDiv e.natAbs 512 + 1)) 4

/-- The link's own state follows the measured error (Table 10.6); `own` says that the error to the parent is acted on anyway. -/
def State.alignLink (s : State) (l : Nat) (e : Int) (own : Bool) : State :=
  if e.natAbs ≤ s.fget Reg.TB_SLATE_CFG_GUARD then
    if s.linkState l = stateAlign then (s.toLink l stateUp).onLink l fun k => { k with alignHeld := false } else s
  else
    let s := if s.linkState l = stateUp then s.toLink l stateAlign else s
    if own then s else s.alignHold l e

/-- Whether the parent has failed: its link is not open, or four slates in a row were lost (R68, R304). -/
def State.parentFailed (s : State) : Bool := !s.linkOpen (s.fget Reg.TB_TREE_PLINK) || decide (4 ≤ s.time.lostSlates)

/-- The alternate parent that the reel's tree names takes over from a failed parent during a take (R68). -/
def State.adoptParent (s : State) (l : Nat) : State :=
  match s.take.active with
  | some r =>
    if s.dev.inTake && s.hasParent && s.parentFailed && decide (r.tree.altParent = some l) then
      { s with time.lostSlates := 0 }.fset Reg.TB_TREE_PLINK l
    else s
  | none => s

/-- The error to the parent is measured. -/
def State.heardParent (s : State) (e : Int) : State :=
  let s := ({ s with time.slateOn := true, time.lostSlates := 0, time.parentErr := e }.timeSignals).noteError e
  s.actOnError e

/-- The result of an exchange: delay, link state, and on the parent's link the device's own error. -/
def State.slateMeasured (s : State) (l : Nat) (d off : Int) : State :=
  let s := (s.onLink l fun k => { k with delay := d.toNat }).fsetb (Reg.TB_TRAVEL_LINK_VALID l) true
  let s := (s.extreme 2 l 6 (s.linkRtt l)).adoptParent l
  let own := s.hasParent && decide (s.fget Reg.TB_TREE_PLINK = l)
  let s := s.alignLink l (-off) own
  if own then s.heardParent (-off) else s

/-- SLATE. The first slate of an exchange gives no result. -/
def execSlate (l : Fin 64) (tsend techo trecv : DWord) (dev : Nat) (holdover unaligned : Bool) (s : State) :
    Host.Outcome State Fault Refusal :=
  let _ := (dev, holdover, unaligned)
  if s.listens = true ∧ s.linkOpen l.val = true then
    let now := BitVec.ofNat 64 s.wallNow
    let s := (s.codeword l.val).onLink l.val fun k => { k with lastTsend := tsend, lastTrecv := now }
    if techo = 0 then .next s
    else
      let r := slateResult techo trecv tsend now
      .next (s.slateMeasured l.val r.1 r.2)
  else .next s

/-- WAKE_COMPLETE: the fast retrain is done within 20 µs, on every enabled lane; the link starts in ALIGNCHK, and a drift beyond
the guard of a link in use asks for realignment. -/
def execWakeComplete (l : Fin 64) (offset : Int) (s : State) : Host.Outcome State Fault Refusal :=
  if s.linkState l.val = stateWake ∧ s.wallNow ≤ (s.link l.val).stateTick + 20000 then
    let m := s.laneEnable l.val
    let now := s.wallNow
    let s := (s.toAlign l.val m).onLink l.val fun k =>
      { k with txMask := m, rxMask := m, newMask := none, slept := false, codeTick := now, ackTick := now, rtoTick := now, packetTick := now,
               slotBase := 0, slotFrom := now, maskDue := 0 }
    .next (if s.fget Reg.TB_SLATE_CFG_GUARD < offset.natAbs then s.alignHold l.val (-offset) else s)
  else .next s

/-- A slate was lost in a codeword: four in a row on the parent's link end the parent's time signal (R304). -/
def State.slateGone (s : State) (l : Nat) : State :=
  let s := s.bump (Reg.LK_SLATELOST_COUNT l)
  if s.hasParent = true ∧ s.fget Reg.TB_TREE_PLINK = l then
    let s := { s with time.lostSlates := s.time.lostSlates + 1 }
    if 4 ≤ s.time.lostSlates then s.parentLost l else s
  else s

/-- Count the symbols that the FEC corrected in one codeword, by receive lane (R281, Table 10.18). -/
def State.countFixed (s : State) (l : Nat) (lanes : List Nat) : State :=
  if lanes.isEmpty then s
  else lanes.foldl (fun (s : State) n => if n < 4 then s.bump (Reg.LK_LANE_SYM_COUNT l n) else s) (s.bump (Reg.LK_FEC_CORR_COUNT l))

/-- A codeword is discarded whole and counted (R281, R304). -/
def State.codewordLost (s : State) (l : Nat) (slateLost : Bool) : State :=
  let s := s.bump (Reg.LK_FEC_UNC_COUNT l)
  if slateLost then s.slateGone l else s

/-- UNCORRECTABLE_CODEWORD: the 225 symbols received in a slot. One that the FEC cannot correct, or of TYPE 0b11, is discarded. One
that turns out correctable is counted as corrected, and an ordered set of a reserved type is ignored and counted (R285, R302); any
other content has a command of its own. -/
def execUncorrectableCodeword (l : Fin 64) (c : BadCodeword) (s : State) : Host.Outcome State Fault Refusal :=
  if s.listens then
    match rsCorrect c.symbols with
    | none => .next (s.codewordLost l.val c.slateLost)
    | some (w, places) =>
      let x := codewordOf w
      if x.type = 3 then .next (s.codewordLost l.val c.slateLost)
      else
        let s := (s.codeword l.val).countFixed l.val (places.map fun j => laneOf (s.link l.val).rxMask c.slot j)
        .next (if x.type = 1 ∧ reservedSet x.osType = true then s.bump (Reg.LK_MALFORMED_COUNT l.val) else s)
  else .next s

/-! ## Hold markers (R57 to R60, R462) -/

/-- A marker that R57 discards: of another take, with a reserved reason, or without length. -/
def State.badMarker (s : State) (take frames reason : Nat) : Bool :=
  !s.dev.inTake || decide (take ≠ s.takeTag) || decide (reason = 0) || decide (7 ≤ reason) || (decide (frames = 0) && decide (reason ≠ 6))

/-- Merge a marker that arrived on a link and forward what changes the table. -/
def State.mergeMarker (s : State) (l gate frames reason origin : Nat) : State :=
  let g := resolveGate s.planNow gate
  match mergeGate s.time.gates s.planNow g frames reason with
  | (.same, _) => s
  | (.changed, gs) =>
    let s := { s with time.gates := gs }
    let s := if s.faults.rstate = .run then { s with faults.rstate := .pend } else s
    s.emitHold s.takeTag g frames reason origin (s.takeLinks.filter (· ≠ l))
  | (_, _) => (s.fsetb Reg.TB_HOLD_REASON_LATEMARK true).raise 0x22 2 l (Config.faultDetail 0x22 (gateLow g)).toNat

/-- HOLD_MARKER: acted on once for its copies. In a replay stop and in FENCED a marker is discarded without a notice. -/
def execHoldMarker (r : SetRx) (take gate frames reason origin : Nat) (s : State) : Host.Outcome State Fault Refusal :=
  let l := r.link.val
  if s.listens = true ∧ s.linkOpen l = true ∧ s.matched l = true then
    let content := [3, take, gate, frames, reason, origin]
    let again := (s.link l).further r.copy content
    let s := s.receiveSet l r.copy content
    if again then .next s
    else if s.stopped then .next s
    else if s.badMarker take frames reason then .next (s.notice 57 take)
    else .next (s.mergeMarker l gate frames reason origin)
  else .next s

end Sys2Proof.Machine
end

