-- ==== Sys2Proof/Machine/Bus.lean ====
section
/-! DEFINITION. Reads and writes of BAR0: widths, latches, access codes, limits, and what the writes of some registers do
(R11 to R15, R75, R76, R197, R279, R313, R402, R433, R439 to R441). -/

namespace Sys2Proof.Machine

/-! ## Reads (R12, R13, R15, R440) -/

/-- The number of an access path: each has its own latches. -/
def Path.index : Path → Nat
  | .pcie => 0
  | .regrd => 1
  | .i3c => 2

/-- The key of a latch: path and BAR0 offset. -/
def latchKey (p : Path) (off : Nat) : Nat := p.index * 2 ^ 26 + off

/-- What a latch holds before any read: the reset value of its word. -/
def latchReset (k : Nat) : Word := resetWord (k % 2 ^ 26)

/-- Load the latches of the higher words of a quantity, from the word at `off` up. -/
def State.latchWords (s : State) (p : Path) (off : Nat) : Nat → State
  | 0 => s
  | n + 1 => { s with latches := mapPut latchReset s.latches (latchKey p off) (s.view off) }.latchWords p (off + 4) n

/-- Clear the RC fields of a register. -/
def State.clearRead (s : State) (off : Nat) (fs : List FieldSpec) : State :=
  fs.foldl (fun (s : State) f => if f.acc = .rc then s.fset ⟨off, f.hi, f.lo⟩ 0 else s) s

/-- Whether an offset is a register of a slot that is not mapped, CL_SLOT_ID apart: it reads 0 (R166). -/
def State.hiddenSlot (s : State) (off : Nat) : Bool :=
  match blockOf off with
  | some (.slot, o) => decide (o ≠ 0) && !s.flag (Reg.CL_SLOT_ID_MAPPED ((off - 0x200000) / 0x100000) (off % 0x100000 / 0x10000 - 1))
  | _ => false

/-- A 32-bit read of an aligned offset over a path: a higher word comes from its latch, a lowest word loads the latches, and
RC fields clear. -/
def State.read32 (s : State) (p : Path) (off : Nat) : Word × State :=
  match rowOf off with
  | none => (s.view off, s)
  | some r =>
    if s.hiddenSlot off then (0, s)
    else if 0 < r.high then (mapGet latchReset s.latches (latchKey p off), s.clearRead off r.fields)
    else (s.view off, (s.latchWords p (off + 4) (r.words - 1)).clearRead off r.fields)

/-- Whether an access is one that R440 admits. -/
def accessFits (w : Width) (off : Nat) : Bool :=
  match w with
  | .w32 => decide (off % 4 = 0)
  | .w64 => decide (off % 8 = 0)
  | .other => false

/-- A BAR0 read: a 64-bit read is two 32-bit reads, low word first; one that R440 does not admit returns 0 with a notice. -/
def State.readBar (s : State) (p : Path) (w : Width) (off : Nat) : DWord × State :=
  if accessFits w off then
    let (lo, s) := s.read32 p off
    if w = .w64 then
      let (hi, s) := s.read32 p (off + 4)
      (BitVec.ofNat 64 (lo.toNat + 2 ^ 32 * hi.toNat), s)
    else (BitVec.ofNat 64 lo.toNat, s)
  else (0, s.notice 440 off)

/-- A read whose data goes out on its path. In OFF the device answers only status reads over I3C, with 0 (R447). -/
def State.busRead (s : State) (p : Path) (w : Width) (off : Nat) : State :=
  if s.dev = .off ∧ p = .i3c then s.emit (.readData p 0)
  else if s.pathOpen p = false then s
  else
    let (v, s) := s.readBar p w off
    s.emit (.readData p v)

/-- RC_READ. -/
def execRcRead (p : Path) (w : Width) (offset : Nat) (s : State) : Host.Outcome State Fault Refusal := .next (s.busRead p w offset)

/-- LOW_WORD_READ. -/
def execLowWordRead (p : Path) (w : Width) (offset : Nat) (s : State) : Host.Outcome State Fault Refusal :=
  .next (s.busRead p w offset)

/-! ## Writes (R13, R440) -/

/-- Whether the limit of a field lets a write through now. -/
def State.mayWrite (s : State) (f : FieldSpec) : Bool :=
  match f.lim with
  | .free => true
  | .outside => !s.dev.inTake
  | .notFetching => !s.dev.inTake && !s.fetching
  | .checker => !s.dev.inTake && s.flag Reg.SC_DEBUG_UNLOCKED && bitOf (s.fget Reg.SC_DEBUG_SCOPE) 0
  | .trigger => !s.dev.inTake
  | .linkEnable => true

/-- The value of a field after a write of `v` to it, under its access code. -/
def FieldSpec.written (f : FieldSpec) (old v : Nat) : Nat :=
  match f.acc with
  | .rw | .wo => v
  | .w1c => old - (old &&& v)
  | .w1s => old ||| v
  | .ro | .rc => old

/-- Write one field of the register at `off`; a field under a limit that is not met keeps its value. -/
def State.writeField (s : State) (off : Nat) (value : Word) (f : FieldSpec) : State :=
  let fld : Fld := ⟨off, f.hi, f.lo⟩
  if s.mayWrite f then s.fset fld (f.written (s.fget fld) (bitsOf f.hi f.lo value.toNat)) else s

/-- Write the fields of a register; where a limit keeps some field, one notice is logged. -/
def State.writeFields (s : State) (off : Nat) (value : Word) (fs : List FieldSpec) : State :=
  let s' := fs.foldl (fun (s : State) f => s.writeField off value f) s
  if fs.any fun f => decide (f.acc ≠ .ro) && !s.mayWrite f then s'.notice 13 off else s'

/-- The high word of TB_STEP applies the step (Table 02): the signed 64-bit value that it makes with the low word. -/
def State.applyStep (s : State) (high : Word) : State :=
  if s.dev.inTake then s.notice 76 (Reg.TB_STEP + 4)
  else s.stepWall (-(BitVec.ofNat 64 (s.time.stepLow.toNat + 2 ^ 32 * high.toNat)).toInt)

/-- The low word of TB_STEP. -/
def State.holdStep (s : State) (low : Word) : State :=
  if s.dev.inTake then s.notice 76 Reg.TB_STEP else { s with time.stepLow := low }

/-- A write of PW_LIMIT: outside a take, between 1,200 and 2,400 W (R402). -/
def State.writeLimit (s : State) (value : Word) : State :=
  let w := bitsOf 11 0 value.toNat
  if s.dev.inTake || decide (w < 1200) || decide (2400 < w) then s.notice 402 w else s.fset Reg.PW_LIMIT_WATTS w

/-- A write of TB_TRIG_STAT: outside a take each 1 clears its own bit, EDGE or OVF (R13, R75). -/
def State.writeTrig (s : State) (value : Word) : State :=
  if s.dev.inTake then s.notice 75 Reg.TB_TRIG_STAT
  else
    (upFrom 0 4).foldl (fun (s : State) n =>
      let s := if bitOf value.toNat (4 + n) then s.fbit Reg.TB_TRIG_STAT_OVF n false else s
      if bitOf value.toNat n then s.clearEdge n else s) s

/-- A write of LK_CTRL: enabled lanes, then each request. -/
def State.writeLink (s : State) (l : Nat) (value : Word) : State :=
  let s := if s.dev.inTake then s.notice 313 (Reg.LK_CTRL l) else s.fset (Reg.LK_CTRL_LANEEN l) (bitsOf 11 8 value.toNat)
  let en := bitOf value.toNat 0
  let s := if s.flag (Reg.LK_CTRL_EN l) = en then s else s.linkEnable l en
  let s := if bitOf value.toNat 1 then s.retrain l else s
  let s := if bitOf value.toNat 2 then s.askSleep l else s
  if bitOf value.toNat 3 then s.askWake l else s

/-- A write of HI_MB_CTRL. -/
def State.writeMailbox (s : State) (value : Word) : State :=
  if bitOf value.toNat 0 then s.enableMailbox else s.fsetb Reg.HI_MB_CTRL_EN false

/-- What follows a write: the time signals and PTP follow their settings. -/
def State.writeFollows (s : State) (off : Nat) (ptpWas : Word) : State :=
  if off = Reg.TB_CTRL ∨ off = Reg.TB_TREE then s.timeSignals
  else if off = Reg.TB_PULSE_CFG then
    if s.flag Reg.TB_PULSE_CFG_INEN then s else { s with time.pulseOn := false }.timeSignals
  else if off = Reg.FE_PTP_CFG then (if s.reg Reg.FE_PTP_CFG = ptpWas then s else s.ptpRestart)
  else s

/-- A 32-bit write of an aligned offset; an offset that no table lists ignores it. -/
def State.write32 (s : State) (off : Nat) (value : Word) : State :=
  match rowOf off with
  | none => s
  | some r =>
    if off = Reg.TB_STEP then s.holdStep value
    else if off = Reg.TB_STEP + 4 then s.applyStep value
    else if off = Reg.TB_TRIG_STAT then s.writeTrig value
    else if off = Reg.PW_LIMIT then s.writeLimit value
    else if off = Reg.HI_MB_CTRL then s.writeMailbox value
    else if 0xA00000 ≤ off ∧ off < 0xE00000 ∧ off % 0x10000 = 0 then s.writeLink ((off - 0xA00000) / 0x10000) value
    else (s.writeFields off value r.fields).writeFollows off (s.reg Reg.FE_PTP_CFG)

/-- A BAR0 write: a 64-bit write is two 32-bit writes, low word first; one that R440 does not admit is dropped with a notice. -/
def State.writeBar (s : State) (w : Width) (off : Nat) (value : DWord) : State :=
  if accessFits w off then
    let s := s.write32 off (BitVec.ofNat 32 value.toNat)
    if w = .w64 then s.write32 (off + 4) (BitVec.ofNat 32 (value.toNat / 2 ^ 32)) else s
  else s.notice 440 off

/-- REGISTER_WRITE. -/
def execRegisterWrite (p : Path) (w : Width) (offset : Nat) (value : DWord) (s : State) : Host.Outcome State Fault Refusal :=
  .next (if s.pathOpen p then s.writeBar w offset value else s)

/-- TB_STEP: the write of its high word. -/
def execTbStep (p : Path) (high : Word) (s : State) : Host.Outcome State Fault Refusal :=
  .next (if s.pathOpen p then s.applyStep high else s)

/-- CN_REC_HEAD. -/
def execCnRecHead (p : Path) (offset : Word) (s : State) : Host.Outcome State Fault Refusal :=
  .next (if s.pathOpen p then s.setReg Reg.CN_REC_HEAD offset else s)

/-! ## REGRD and REGWR (Table 12.6, R400, R440) -/

/-- Whether a register lies on the die that the director cannot reach in ISOLATED. -/
def State.farRegister (s : State) (off : Nat) : Bool := s.isolated && decide (dieOfReg off ≠ s.fget Reg.DD_STATUS_DIRECTOR)

/-- REGRD: RESULT is the register at ARG0. -/
def execRegrd (o : Order) (arg0 : DWord) (s : State) : Host.Outcome State Fault Refusal :=
  .next (s.receive o 0x0A (fun _ => true) fun s =>
    let (v, s) := s.readBar .regrd .w32 arg0.toNat
    s.done 0x0A o { status := .ok, detail := 0, result := v, codes := [] })

/-- REGWR: writes ARG1 to the register at ARG0 under its rules; to the far die it fails in ISOLATED. -/
def execRegwr (o : Order) (arg0 arg1 : DWord) (s : State) : Host.Outcome State Fault Refusal :=
  .next (s.receive o 0x0B (fun _ => true) fun s =>
    if s.farRegister arg0.toNat then s.done 0x0B o (.plain .failed 0x50)
    else (s.writeBar .w32 arg0.toNat arg1).done 0x0B o (.plain .ok 0))

end Sys2Proof.Machine
end

