-- ==== Sys2Proof/Machine/Manage.lean ====
section
/-! DEFINITION. Signatures and tokens, debug unlock, firmware update by mailbox and by PLDM (R408 to R419). -/

namespace Sys2Proof.Machine

/-! ## Signatures (R408) -/

/-- Whether a signature is accepted: it verifies under its key, and KEYIDX names a valid slot that holds the key's hash, is not
revoked and covers the use (0 firmware, 1 reel, 2 debug, 3 log clear). -/
def State.accepts (s : State) (g : Sig) (use : Nat) : Bool :=
  match s.manage.keys[g.keyIdx]? with
  | some k => g.verifies && k.valid && !k.revoked && decide (k.hash = g.keyHash) && k.use.getLsbD use
  | none => false

/-- Whether a token is good for a use: accepted, for this device, with the current nonce (R410, R432). -/
def State.tokenGood (s : State) (t : Token) (use : Nat) : Bool :=
  s.accepts t.sig use && decide (t.device = s.deviceId) && decide (s.manage.nonce = some t.nonce) && t.formed

/-- States in which most management orders are accepted. -/
def State.managed (s : State) : Bool := decide (s.dev ≠ .boot) && decide (s.dev ≠ .failed)

/-! ## Debug unlock (R410) -/

/-- A free value as the next nonce, which differs from the last one (R410). -/
def State.newNonce (s : State) (x : DWord) : DWord := if s.manage.lastNonce = some x then x + 1 else x

/-- DBG_NONCE: a new nonce, in RESULT. -/
def execDbgNonce (o : Order) (s : State) : Host.Outcome State Fault Refusal :=
  .next (s.receive o 0x1D (fun s => decide (s.dev ≠ .boot)) fun s =>
    let (n, s) := s.draw
    let x := s.newNonce (Config.freeNonce n)
    { s with manage.nonce := some x, manage.lastNonce := some x }.done 0x1D o
      { status := .ok, detail := 0, result := x, codes := [] })

/-- A token is refused with a DETAIL, and the refusal is logged. -/
def State.refuseToken (s : State) (opcode : Nat) (o : Order) (detail : Nat) : State :=
  (s.logEvent 0x8B 0 0 0 detail).done opcode o (.plain .refused detail)

/-- Set SC_DEBUG. -/
def State.setDebug (s : State) (on : Bool) (scope key : Nat) : State :=
  ((s.fsetb Reg.SC_DEBUG_UNLOCKED on).fset Reg.SC_DEBUG_SCOPE scope).fset Reg.SC_DEBUG_KEY key

/-- The effect of DBG_UNLOCK. -/
def State.unlock (s : State) (o : Order) (t : Token) : State :=
  if s.tokenGood t 2 then
    let scope := t.scope.toNat % 4
    let key := t.sig.keyIdx % 8
    let s := { s with manage.nonce := none }.setDebug true scope key
    (s.logEvent 0x85 0 0 0 (2 ^ 31 + scope * 2 ^ 24 + key * 2 ^ 16)).done 0x1E o (.plain .ok 0)
  else s.refuseToken 0x1E o 0x60

/-- DBG_UNLOCK: in READY. -/
def execDbgUnlock (o : Order) (t : Token) (s : State) : Host.Outcome State Fault Refusal :=
  .next (s.receive o 0x1E (fun s => decide (s.dev = .ready)) fun s => s.unlock o t)

/-- DBG_RELOCK: outside a take. -/
def execDbgRelock (o : Order) (s : State) : Host.Outcome State Fault Refusal :=
  .next (s.receive o 0x1F (fun s => !s.dev.inTake) fun s =>
    let x := s.fget Reg.SC_DEBUG_SCOPE * 2 ^ 24 + s.fget Reg.SC_DEBUG_KEY * 2 ^ 16
    ((s.setDebug false 0 0).logEvent 0x85 0 0 0 x).done 0x1F o (.plain .ok 0))

/-! ## Firmware update (R411 to R413) -/

/-- The slot that is not active: true for B. -/
def State.inactive (s : State) : Bool := !s.journal.activeB

/-- Whether an update is under way on the other path than the one given (false mailbox, true PLDM). -/
def State.updateBusy (s : State) (pldm : Bool) : Bool :=
  !s.manage.dl.isEmpty && decide (s.flag Reg.SC_UPD_OWNER ≠ pldm)

/-- Store the verdicts on the image of the inactive slot. -/
def State.setFacts (s : State) (h : Option FwFacts) : State :=
  if s.inactive then { s with manage.fwB := h } else { s with manage.fwA := h }

/-- Store the image of the inactive slot. -/
def State.setImage (s : State) (m : List Host.Cell) : State :=
  if s.inactive then { s with manage.imgB := m } else { s with manage.imgA := m }

/-- The image of the inactive slot. -/
def State.image? (s : State) : List Host.Cell := if s.inactive then s.manage.imgB else s.manage.imgA

/-- A journal with the version of the inactive slot. -/
def Journal.version (j : Journal) (v : Word) : Journal := if j.activeB then { j with verA := v } else { j with verB := v }

/-- How far ranges cover an image without a gap, extending `fuel` times. -/
def reach (rs : List (Nat × Nat)) : Nat → Nat → Nat
  | 0, n => n
  | fuel + 1, n => reach rs fuel (rs.foldl (fun m r => if r.1 ≤ m then max m (r.1 + r.2) else m) n)

/-- Whether the download holds the whole image: header and body. -/
def State.downloaded (s : State) : Bool :=
  decide (4096 + (s.fwHeader s.inactive).length ≤ reach s.manage.dl s.manage.dl.length 0)

/-- A download starts: the slot is erased and recorded as empty. -/
def State.startDownload (s : State) (pldm : Bool) (hdr : Option FwFacts) : State :=
  let s := ((s.setImage []).setFacts hdr).fsetb Reg.SC_UPD_OWNER pldm
  { s with manage.dl := [] }.writeJournal ({ s.journal with stage := 0 }.version 0)

/-- Write a part of the image; the last one that is missing completes the download. -/
def State.download (s : State) (pldm : Bool) (offset : Nat) (hdr : Option FwFacts) (data : List Byte) (last : Bool) : State :=
  let s := if offset = 0 then s.startDownload pldm hdr else s
  let s := (s.setImage (memWrite s.image? offset data)).emit (.flashWrite (slotOffset s.inactive + offset) data)
  let s := ({ s with manage.dl := s.manage.dl ++ [(offset, data.length)] }.fset Reg.SC_UPD_CODE 0).logEvent 0x8A 0 0 0 0x18
  if last && s.downloaded && decide (s.journal.stage = 0) then
    s.writeJournal ({ s.journal with stage := 1 }.version (s.fwHeader s.inactive).version)
  else s

/-- The verdicts on the image of the inactive slot. -/
def State.fwFacts (s : State) : Option FwFacts := if s.inactive then s.manage.fwB else s.manage.fwA

/-- What verification of the inactive slot finds (SC_UPD.CODE): 0 valid, 1 signature, 2 rollback, 3 hash. A header that is not formed
as R411 says counts as one whose signature does not hold, a body beyond a slot as one whose hash does not (DESIGN CHOICE, log 126). -/
def State.verifyCode (s : State) : Nat :=
  let h := s.fwHeader s.inactive
  match s.fwFacts with
  | some f =>
    if decide (h.format ≠ 1) || !h.zeroOk || decide (64 < h.secver) ||
       !s.accepts { keyIdx := h.keyIdx, keyHash := f.keyHash, verifies := f.verifies } 0 then 1
    else if h.secver < s.manage.minver then 2
    else if f.bodyHashOk && decide (h.length ≤ 24 * 2 ^ 20 - 4096) then 0 else 3
  | none => 1

/-- Record the inactive slot as verified. -/
def State.recordVerified (s : State) : State := s.writeJournal { s.journal with stage := 2 }

/-- Record a trial of the inactive slot. -/
def State.activate (s : State) : State :=
  { s with manage.dl := [] }.writeJournal { s.journal with trial := some s.inactive, trials := 3 }

/-- Whether the running image is the trial of the journal. -/
def State.inTrial (s : State) : Bool :=
  s.flag Reg.SC_STATUS_TRIALBOOT && decide (s.journal.trial = some (s.flag Reg.SC_STATUS_BOOTSLOT))

/-- The trial slot becomes the active one. -/
def State.confirm (s : State) : State :=
  match s.journal.trial with
  | some t => { s with manage.dl := [] }.writeJournal { s.journal with activeB := t, trial := none }
  | none => s

/-- Receive an update order; while the other path owns the update it completes BUSY. -/
def State.updateOrder (s : State) (o : Order) (opcode : Nat) (admits : State → Bool) (f : State → State) : State :=
  s.receive o opcode admits fun s => if s.updateBusy false then s.done opcode o (.plain .busy 0) else f s

/-- Refuse an order with a DETAIL that the spec does not give. -/
def State.refuseFree (s : State) (opcode : Nat) (o : Order) (st : Status) : State :=
  let (n, s) := s.draw
  s.done opcode o (.plain st (Config.freeWord n).toNat)

/-- UPD_DOWNLOAD: multiples of 4 KiB within the 24 MiB of a slot. -/
def execUpdDownload (o : Order) (offset : DWord) (hdr : Option FwFacts) (data : List Byte) (s : State) :
    Host.Outcome State Fault Refusal :=
  .next (s.updateOrder o 0x18 (fun s => s.managed && s.journal.trial.isNone) fun s =>
    if data.length % 4096 ≠ 0 ∨ 24 * 2 ^ 20 < offset.toNat + data.length then s.refuseFree 0x18 o .refused
    else (s.download false offset.toNat hdr data true).done 0x18 o (.plain .ok 0))

/-- UPD_VERIFY: the download is complete. -/
def execUpdVerify (o : Order) (s : State) : Host.Outcome State Fault Refusal :=
  .next (s.updateOrder o 0x19 (fun s => s.managed && s.journal.trial.isNone && decide (1 ≤ s.journal.stage)) fun s =>
    let s := s.fset Reg.SC_UPD_CODE s.verifyCode
    if s.verifyCode = 0 then s.recordVerified.done 0x19 o (.plain .ok 0) else s.refuseFree 0x19 o .failed)

/-- UPD_ACTIVATE: the inactive slot is verified. -/
def execUpdActivate (o : Order) (s : State) : Host.Outcome State Fault Refusal :=
  .next (s.updateOrder o 0x1A (fun s => s.managed && s.journal.trial.isNone && decide (s.journal.stage = 2)) fun s =>
    (s.activate.fset Reg.SC_UPD_CODE 0).done 0x1A o (.plain .ok 0))

/-- Where UPD_CONFIRM is accepted: READY and later, in a trial boot. -/
def State.mayConfirm (s : State) : Bool := decide (2 ≤ s.dev.code) && s.inTrial

/-- UPD_CONFIRM. -/
def execUpdConfirm (o : Order) (s : State) : Host.Outcome State Fault Refusal :=
  .next (s.updateOrder o 0x1B (·.mayConfirm) fun s => (s.confirm.fset Reg.SC_UPD_CODE 0).done 0x1B o (.plain .ok 0))

/-- Clear a trial that has not booted, or abandon a download. -/
def State.cancelUpdate (s : State) : State :=
  let j := s.journal
  if j.trial.isSome then if s.inTrial then s else s.writeJournal { j with trial := none }
  else
    let s := { s with manage.dl := [] }
    if j.stage = 0 then s else s.writeJournal { j with stage := 0 }

/-- UPD_CANCEL. -/
def execUpdCancel (o : Order) (s : State) : Host.Outcome State Fault Refusal :=
  .next (s.updateOrder o 0x1C (·.managed) fun s => (s.cancelUpdate.fset Reg.SC_UPD_CODE 0).done 0x1C o (.plain .ok 0))

/-! ## PLDM (R418, R419) -/

/-- A request that only the director performs: refused and counted in CONTRA (R401). -/
def State.directorOnly (s : State) (f : State → State) : State :=
  if s.dev = .off then s
  else if s.contra then s.bump Reg.DD_REFUSED_COUNT
  else f s

/-- One step of a PLDM firmware update, where the order it maps onto would be accepted. -/
def State.pldm (s : State) (p : PldmStep) : State :=
  let open_ := s.managed && s.journal.trial.isNone && !s.updateBusy true
  match p with
  | .transfer offset hdr data last =>
    if open_ && decide (data.length ≤ 4096) && decide (offset + data.length ≤ 24 * 2 ^ 20) then s.download true offset hdr data last
    else s
  | .verify => if open_ && decide (1 ≤ s.journal.stage) then s.fset Reg.SC_UPD_CODE s.verifyCode else s
  | .apply => if open_ && decide (1 ≤ s.journal.stage) && decide (s.verifyCode = 0) then s.recordVerified else s
  | .activate => if open_ && decide (s.journal.stage = 2) && !s.isolated then s.activate else s

/-- PLDM_FIRMWARE_UPDATE. -/
def execPldmFirmwareUpdate (p : PldmStep) (s : State) : Host.Outcome State Fault Refusal := .next (s.directorOnly fun s => s.pldm p)

/-- FIRMWARE_CONFIRM. -/
def execFirmwareConfirm (s : State) : Host.Outcome State Fault Refusal :=
  .next (s.directorOnly fun s => if s.mayConfirm && !s.isolated then s.confirm.fset Reg.SC_UPD_CODE 0 else s)

end Sys2Proof.Machine
end

