-- ==== Sys2Proof/Machine/Copies.lean ====
section
/-! DEFINITION. Copies between the host and scratchpad or HBM (R141, R142, R254, R255, R265, R348). -/

namespace Sys2Proof.Machine

/-- The core that a copy names: through the mapping of the loaded grid, and where no grid is mapped by the good slots in
ascending order, as the loader would map it (R353). -/
def State.copyKey (s : State) (arg0 : DWord) : Option Nat :=
  let d := copyCore arg0
  if s.flag Reg.HI_GRID_MAPPED then s.coreOfDcore d
  else ((s.goodSlots (d / 16))[d % 16]?).map fun p => 16 * (d / 16) + p

/-- Whether the arguments of a copy keep the layout of R348: a space that exists, an aligned address. -/
def copyFormed (arg0 arg1 : DWord) : Bool :=
  if copySpace arg0 = 0 then decide (arg1.toNat % 32 = 0)
  else decide (copySpace arg0 = 1) && decide (arg1.toNat % 8 = 0)

/-- Whether a copy reaches beyond its space: those addresses do not exist. -/
def copyBeyond (arg0 arg1 : DWord) (n : Nat) : Bool :=
  decide ((if copySpace arg0 = 0 then hbmSize else spadSize) < arg1.toNat + n)

/-- Whether the device admits a COPYIN: READY or LOADED; in a take, outside replays, into non-weight HBM or a mailbox
window. -/
def State.copyinAdmits (s : State) (arg0 arg1 : DWord) (n : Nat) : Bool :=
  decide (s.dev = .ready) || decide (s.dev = .loaded) ||
  (s.dev.inTake && decide (s.recState < 2) &&
    (if copySpace arg0 = 0 then !s.inWeights arg1.toNat n
     else match s.copyKey arg0 with
       | some key => s.inWindow key arg1.toNat n
       | none => false))

/-- Whether the device admits a COPYOUT: READY and later, except FAILED. -/
def State.copyoutAdmits (s : State) : Bool := decide (2 ≤ s.dev.code) && decide (s.dev ≠ .failed)

/-- Whether a received order is one that executes now. -/
def State.runs (s : State) (o : Order) (opcode : Nat) (admits : State → Bool) : Bool :=
  decide (s.dev ≠ .off) && decide (s.hostRole ≠ 0) && decide (o.seq.toNat = s.nextSeq) && !(s.contra && decide (opcode ≠ 0x0E)) && admits s.descriptorTaken.accept

/-- Whether a screen test runs, which uses every core, scratchpad and stack. -/
def State.screening (s : State) : Bool := (s.running? 0x11).isSome

/-- Whether the resource of a copy is in use by another order: by SCREEN, or HBM by the scrub of UNLOAD. -/
def State.copyBusy (s : State) (arg0 : DWord) : Bool :=
  s.screening || (decide (copySpace arg0 = 0) && (s.running? 0x02).isSome)

/-- The pieces of at most 4,096 bytes of a run: `fuel` at most. -/
def pieces {α : Type} (a : Nat) (bs : List α) : Nat → List (Nat × List α)
  | 0 => []
  | fuel + 1 => if bs.isEmpty then [] else (a, bs.take 4096) :: pieces (a + 4096) (bs.drop 4096) fuel

/-- Queue the write requests of a copy; the last one counts and completes the order. -/
def State.queueWrites (s : State) (key : Nat) (seq : DWord) (ctr : Option Nat) : List (Nat × List Byte) → State
  | [] => s
  | [p] => s.drizzle key (.write p.1 p.2 (List.replicate (granCount p.1 p.2.length) false) ctr) ctr (some seq) true
  | p :: ps =>
    (s.drizzle key (.write p.1 p.2 (List.replicate (granCount p.1 p.2.length) false) none) ctr (some seq) false).queueWrites key seq ctr ps

/-- Queue the read requests of a copy: `host` is where the first goes; the last one counts and completes the order. -/
def State.queueReads (s : State) (key : Nat) (seq host : DWord) (a0 : Nat) (ctr : Option Nat) : List (Nat × List Unit) → State
  | [] => s
  | [p] => s.drizzle key (.read p.1 p.2.length (host + BitVec.ofNat 64 (p.1 - a0))) ctr (some seq) true
  | p :: ps =>
    (s.drizzle key (.read p.1 p.2.length (host + BitVec.ofNat 64 (p.1 - a0))) ctr (some seq) false).queueReads key seq host a0 ctr ps

/-- A flagged copy that moves no more bytes counts, as an external input (R348). -/
def State.countCopy (s : State) (args : List DWord) (data : List Byte) (ctr : Option Nat) : State :=
  let s := match ctr with
    | some c => s.addCounter c 1 s.planNow
    | none => s
  s.recordInput 4 (if s.dev.inTake then s.planNow else 0) args [] data

/-- A copy into HBM, as an unscheduled write: one that meets a weight region fails with a notice (R265). -/
def State.copyHbm (s : State) (o : Order) (arg0 arg1 arg2 : DWord) (data : List Byte) : State :=
  if s.inWeights arg1.toNat data.length then (s.notice 265 arg1.toNat).refuseFree 0x08 o .failed
  else
    ((s.storesFirst.hbmPatch arg1.toNat data).countCopy [arg0, arg1, arg2] data (copyCounter arg0 arg2)).done 0x08 o (.plain .ok 0)

/-- A copy into a core's scratchpad: drizzle requests, in the background. -/
def State.copySpad (s : State) (o : Order) (arg0 arg1 arg2 : DWord) (data : List Byte) : State :=
  match s.copyKey arg0 with
  | none => s.refuseFree 0x08 o .failed
  | some key =>
    let s := s.background 0x08 o
    let s := { s with host.copies := s.host.copies ++ [(o.seq, [arg0, arg1, arg2], data)] }
    s.queueWrites key o.seq (copyCounter arg0 arg2) (pieces arg1.toNat data data.length)

/-- The effect of COPYIN. -/
def State.copyin (s : State) (o : Order) (arg0 arg1 arg2 : DWord) (data : List Byte) : State :=
  if copyFormed arg0 arg1 = false ∨ data = [] then s.done 0x08 o (.plain .malformed 0)
  else if s.copyBusy arg0 then s.done 0x08 o (.plain .busy 0)
  else if copySpace arg0 = 0 then s.copyHbm o arg0 arg1 arg2 data
  else s.copySpad o arg0 arg1 arg2 data

/-- A COPYIN that a take does not admit because it meets a weight region is logged beside its completion (R265). -/
def State.noteWeights (s : State) (arg0 arg1 : DWord) (n : Nat) : State :=
  if s.dev.inTake && decide (copySpace arg0 = 0) && s.inWeights arg1.toNat n then s.notice 265 arg1.toNat else s

/-- COPYIN. An address that does not exist stops the machine. -/
def execCopyin (o : Order) (arg0 arg1 arg2 : DWord) (data : List Byte) (s : State) : Host.Outcome State Fault Refusal :=
  let admits := fun (s : State) => s.copyinAdmits arg0 arg1 data.length
  if s.runs o 0x08 admits && copyFormed arg0 arg1 && copyBeyond arg0 arg1 data.length then .fault .noSuchAddress
  else
    let t := s.receive o 0x08 admits fun s => s.copyin o arg0 arg1 arg2 data
    .next (if s.runs o 0x08 (fun _ => true) then t.noteWeights arg0 arg1 data.length else t)

/-- A copy out of HBM. -/
def State.copyFromHbm (s : State) (o : Order) (arg0 arg1 arg2 : DWord) (d : HostSpan) : State :=
  let ((bs, _), s) := s.storesFirst.hbmRead arg1.toNat d.len
  let s := s.hostPost d.addr bs
  let s := if arg2.msb then s.countCopy [arg0, arg1, arg2] [] (copyCounter arg0 arg2) else s
  s.done 0x09 o (.plain .ok 0)

/-- A copy out of a core's scratchpad: drizzle requests, in the background. -/
def State.copyFromSpad (s : State) (o : Order) (arg0 arg1 arg2 : DWord) (d : HostSpan) : State :=
  match s.copyKey arg0 with
  | none => s.refuseFree 0x09 o .failed
  | some key =>
    let s := s.background 0x09 o
    let s := if arg2.msb then { s with host.copies := s.host.copies ++ [(o.seq, [arg0, arg1, arg2], [])] } else s
    s.queueReads key o.seq d.addr arg1.toNat (copyCounter arg0 arg2) (pieces arg1.toNat (List.replicate d.len ()) d.len)

/-- The effect of COPYOUT. -/
def State.copyout (s : State) (o : Order) (arg0 arg1 arg2 : DWord) (d : HostSpan) : State :=
  if copyFormed arg0 arg1 = false ∨ d.len = 0 then s.done 0x09 o (.plain .malformed 0)
  else if s.copyBusy arg0 then s.done 0x09 o (.plain .busy 0)
  else if copySpace arg0 = 0 then s.copyFromHbm o arg0 arg1 arg2 d
  else s.copyFromSpad o arg0 arg1 arg2 d

/-- COPYOUT. An address that does not exist stops the machine. -/
def execCopyout (o : Order) (arg0 arg1 arg2 : DWord) (dest : HostSpan) (s : State) : Host.Outcome State Fault Refusal :=
  if s.runs o 0x09 (·.copyoutAdmits) && copyFormed arg0 arg1 && copyBeyond arg0 arg1 dest.len then .fault .noSuchAddress
  else .next (s.receive o 0x09 (·.copyoutAdmits) fun s => s.copyout o arg0 arg1 arg2 dest)

end Sys2Proof.Machine
end

