-- ==== Sys2Proof/Machine/Fabric.lean ====
section
/-! DEFINITION. Packets on links: transmission, acknowledgement, go-back-N replay, credits, reception, forwarding and delivery;
mirror writes and the gateway protocol (R55, R249, R250, R285 to R299, R323 to R328, R340, R373). -/

namespace Sys2Proof.Machine

/-! ## Transmission (R291 to R296, R325, R326, R328) -/

/-- Whether a link carries packets: open, its cabling check a match, the device not in FAILED (R308, R320, R367). -/
def State.carries (s : State) (l : Nat) : Bool := s.listens && s.linkOpen l && s.matched l

/-- Flits of a list of packets. -/
def txFlits (ts : List TxPacket) : Nat := (ts.map (·.pkt.flits)).sum

/-- Count VC2 flits of the current frame (LK_VC2_PEAK). -/
def State.countVc2 (s : State) (l n : Nat) : State :=
  let k := s.link l
  let frame := s.wallNow / 512
  let count := if k.vc2Frame = frame then k.vc2Count + n else n
  (s.setLink l { k with vc2Frame := frame, vc2Count := count }).peak (Reg.LK_VC2_PEAK_PEAK l) count

/-- Note the time of a VC0 packet of this device that leaves on the path last used for its destination. -/
def State.noteVc0 (s : State) (l : Nat) (p : Packet) : State :=
  match mapFind s.take.vc0Last p.ddev with
  | some (path, _) =>
    if p.vc = 0 ∧ p.sdev = s.deviceId ∧ path = l * 256 + p.route then
      { s with take.vc0Last := mapIns s.take.vc0Last p.ddev (path, s.wallNow) }
    else s
  | none => s

/-- A forwarded packet that goes on its way leaves the receive buffer of the link that it came on (R293). -/
def State.leaveBuffer (s : State) (t : TxPacket) : State :=
  match t.inLink with
  | some (l, n) => s.freeFlits l t.pkt.vc n
  | none => s

/-- Put a packet on the link: it joins the replay buffer and debits its credits. -/
def State.transmit (s : State) (l : Nat) (t : TxPacket) (seq : Nat) : State :=
  let p := t.pkt
  let s := s.onLink l fun k =>
    let idle := k.replay.isEmpty && k.toSend.isEmpty
    { k with replay := k.replay ++ [{ t with seq := some seq }], sent := addCount k.sent p.vc p.flits, packetTick := s.wallNow,
             ackTick := if idle then s.wallNow else k.ackTick, rtoTick := if idle then s.wallNow else k.rtoTick }
  let s := if p.vc = 2 then s.countVc2 l p.flits else s.noteVc0 l p
  s.emit (if t.bad then .stomp l seq p else .packet l seq p)

/-- Whether a channel may start packets now: VC2 only in UP, and not on a link lost to the take (R308, R309). -/
def State.vcOpen (s : State) (l vc : Nat) : Bool :=
  decide (vc ≠ 2) || (decide (s.linkState l = stateUp) && !(s.link l).failedInTake)

/-- Resend the first rewound packet, whatever its channel, as the packets behind it keep their SEQ order; VC2 only in UP. -/
def State.resend (s : State) (l : Nat) (t : TxPacket) (rest : List TxPacket) : State :=
  if (t.pkt.vc ≠ 2 ∨ s.linkState l = stateUp) ∧ t.pkt.flits ≤ (s.link l).credits t.pkt.vc then
    (s.onLink l fun k => { k with toSend := rest }).transmit l t (t.seq.getD 0)
  else s

/-- A packet cut to the largest size that its link admits now, and what is left of it (R292); the receive buffer that it came from
is free when the last piece leaves. -/
def State.cutPacket (s : State) (l : Nat) (t : TxPacket) : TxPacket × List TxPacket :=
  let m := s.maxData l t.pkt.vc
  let p := t.pkt
  if p.data.length ≤ m ∨ m < 32 then (t, [])
  else
    let head := { p.withRun p.daddr (p.data.take m) (p.poison.take (m / 8)) with flag := false }
    let tail := p.withRun (p.daddr + m) (p.data.drop m) (p.poison.drop (m / 8))
    ({ t with pkt := head, inLink := none }, [{ t with pkt := tail }])

/-- The queue of a channel. -/
def Link.queueOf (k : Link) (vc : Nat) : List TxPacket :=
  match vc with
  | 2 => k.vc2
  | 1 => k.vc1
  | _ => k.vc0

/-- Replace the queue of a channel. -/
def Link.setQueue (k : Link) (vc : Nat) (q : List TxPacket) : Link :=
  match vc with
  | 2 => { k with vc2 := q }
  | 1 => { k with vc1 := q }
  | _ => { k with vc0 := q }

/-- The packet that a channel's queue puts forward, and the rest of the queue: the oldest, on VC2 by launch tick and readiness. -/
def State.pick (s : State) (l vc : Nat) : Option (TxPacket × List TxPacket) :=
  let q := (s.link l).queueOf vc
  (if vc = 2 then pickVc2 q s.planNow else q.head?).map fun t => (t, q.erase t)

/-- The packet that a channel would start now, and its queue afterwards: credits and replay buffer must hold the whole packet. -/
def State.ready (s : State) (l vc : Nat) : Option (TxPacket × List TxPacket) :=
  let k := s.link l
  match s.pick l vc with
  | none => none
  | some (t, rest) =>
    let (h, more) := s.cutPacket l t
    if s.vcOpen l vc = true ∧ h.pkt.flits ≤ k.credits vc ∧ txFlits k.replay + h.pkt.flits ≤ 1024 ∧ k.replay.length < 2048 then
      some (h, more ++ rest)
    else none

/-- Start the next packet of a channel, if it has one ready. -/
def State.startVc (s : State) (l vc : Nat) : Option State :=
  (s.ready l vc).map fun r =>
    let seq := (s.link l).txSeq
    ((s.onLink l fun k => { k.setQueue vc r.2 with txSeq := (seq + 1) % 4096 }).transmit l r.1 seq).leaveBuffer r.1

/-- The next packet at a packet boundary: rewound packets first, in order; then VC2, VC1, VC0. -/
def State.sendNext (s : State) (l : Nat) : State :=
  match (s.link l).toSend with
  | t :: rest => s.resend l t rest
  | [] =>
    if (s.link l).slept then s
    else
      match s.startVc l 2 with
      | some s => s
      | none =>
        match s.startVc l 1 with
        | some s => s
        | none => (s.startVc l 0).getD s

/-- PACKET_SEND. -/
def execPacketSend (l : Fin 64) (s : State) : Host.Outcome State Fault Refusal :=
  .next (if s.carries l.val then s.sendNext l.val else s)

/-- VC2_LAUNCH: the first waiting VC2 packet whose launch tick has come. -/
def execVc2Launch (l : Fin 64) (s : State) : Host.Outcome State Fault Refusal :=
  .next (if s.carries l.val = true ∧ (s.link l.val).toSend.isEmpty = true ∧ (s.link l.val).slept = false then
    (s.startVc l.val 2).getD s else s)

/-- UDRAIN_EXPIRY: the old path has drained; the packets held for the destination take the new one (R328). -/
def execUdrainExpiry (dest : Nat) (s : State) : Host.Outcome State Fault Refusal :=
  let due := match mapFind s.take.vc0Last dest with
    | some (_, t) => decide (t + s.udrain ≤ s.wallNow)
    | none => true
  if due then
    let held := s.take.vc0Held.filter fun h => decide (h.1 = dest)
    let s := { s with take.vc0Held := s.take.vc0Held.filter fun h => decide (h.1 ≠ dest) }
    let go := fun (h : Nat × Packet) => (s.lowPath h.2.route).isSome
    let s := (held.filter go).foldl (fun (s : State) h =>
      match s.lowPath h.2.route with
      | some path => s.sendOnPath h.2 path
      | none => s) s
    .next (s.unrouted ((held.filter fun h => !go h).map (·.2)))
  else .next s

/-! ## Replay (R55, R295 to R299) -/

/-- A projected arrival against its landing tick: absorbed, or a hold request, or a forecast without remedy (R55). In a replay stop
and in FENCED nothing is requested (R462). -/
def State.projected (s : State) (l : Nat) (a p : Int) : State :=
  if a ≤ p ∨ s.stopped = true ∨ s.dev.inTake = false then s
  else
    let n := ceilDiv (a - p).toNat 512
    if s.eligibleGate ≤ p ∧ n ≤ 255 then (s.bump (Reg.LK_HOLDREQ_COUNT l)).requestHold n 1
    else s.bump (Reg.LK_LATE_COUNT l)

/-- Arrival and landing tick of each VC2 packet of a rewind, as the sender projects them; `f` counts the flits before. -/
def State.projections (s : State) (l : Nat) : Nat → List TxPacket → List (Int × Int)
  | _, [] => []
  | f, t :: ts =>
    let f := f + t.pkt.flits
    let rest := s.projections l f ts
    if t.pkt.vc = 2 then
      (s.planNow + ceilDiv (f * 512) (linkSlots (s.fget (Reg.LK_STATUS_LANES l))) + s.linkRtt l / 2 + t.pkt.remt,
       s.extendTick t.pkt.pland) :: rest
    else rest

/-- Handle the projections of one replay: F1 where every one is absorbed. -/
def State.project (s : State) (l : Nat) (ps : List (Int × Int)) : State :=
  if ps.isEmpty then s
  else if ps.all fun x => decide (x.1 ≤ x.2) then s.raise 0x02 2 l (Config.faultDetail 0x02 l).toNat
  else ps.foldl (fun (s : State) x => s.projected l x.1 x.2) s

/-- A packet is discarded after replay exhaustion (R299). -/
def State.discardTx (s : State) (l : Nat) : State :=
  (s.bump (Reg.LK_DISCARD_COUNT l)).raise 0x07 2 l (Config.faultDetail 0x07 l).toNat

/-- Rewind from the oldest unacknowledged packet: those rewound MAXREPLAY times are discarded, the others are sent again. -/
def State.rewind (s : State) (l : Nat) : State :=
  let k := s.link l
  let n := s.fget (Reg.LK_CFG_MAXREPLAY l)
  let gone := (k.replay.filter fun t => decide (n ≤ t.rewinds)).map fun t => t.seq.getD 0
  let keep := (k.replay.filter fun t => decide (t.rewinds < n)).map fun t => { t with rewinds := t.rewinds + 1 }
  let sent := k.replay.foldl (fun cs t => subCount cs t.pkt.vc t.pkt.flits) k.sent
  let discards := k.discards ++ gone
  let s := s.setLink l { k with replay := [], toSend := keep ++ k.toSend, sent := sent, discards := discards, rtoTick := s.wallNow }
  let s := s.bump (Reg.LK_REPLAY_COUNT l)
  let s := discards.foldl (fun (s : State) d => s.emit (.discardSet l d)) s
  let s := gone.foldl (fun (s : State) _ => s.discardTx l) s
  s.project l (s.projections l 0 (s.link l).toSend)

/-- Whether an acknowledged sequence number lies after another. -/
def seqAfter (a b : Nat) : Bool :=
  let d := (a + 4096 - b) % 4096
  decide (1 ≤ d) && decide (d ≤ 2047)

/-- The packets up to the acknowledged one, and those after it; none where no packet has that number. -/
def splitAck (seq : Nat) : List TxPacket → Option (List TxPacket × List TxPacket)
  | [] => none
  | t :: ts =>
    if t.seq = some seq then some ([t], ts)
    else (splitAck seq ts).map fun r => (t :: r.1, r.2)

/-- Retire what an ACK names: packets that wait to be sent again have been received after all. -/
def Link.retire (k : Link) (seq now : Nat) : Link :=
  let n := k.replay.length
  match splitAck seq (k.replay ++ k.toSend) with
  | none => k
  | some (done, _) =>
    let again := done.drop n
    { k with replay := k.replay.drop done.length, toSend := k.toSend.drop again.length,
             sent := again.foldl (fun cs t => addCount cs t.pkt.vc t.pkt.flits) k.sent,
             discards := k.discards.filter fun d => !seqAfter seq d, ackTick := now, rtoTick := now }

/-- An ACK field: acknowledgement and returned credits. -/
def State.acked (s : State) (l seq cvc credits : Nat) : State :=
  let now := s.wallNow
  let s := (s.codeword l).onLink l fun k => k.retire seq now
  let s := if cvc < 3 then s.onLink l fun k => { k with partnerFreed := addCount k.partnerFreed cvc credits } else s
  s.sleepDrained l

/-- ACK. -/
def execAck (l : Fin 64) (seq : Nat) (cvc credits : Nat) (s : State) : Host.Outcome State Fault Refusal :=
  .next (if s.carries l.val then s.acked l.val seq cvc credits else s)

/-- NAK: every packet after ACK is sent again. -/
def execNak (l : Fin 64) (seq : Nat) (cvc credits : Nat) (s : State) : Host.Outcome State Fault Refusal :=
  .next (if s.carries l.val then (s.acked l.val seq cvc credits).rewind l.val else s)

/-- REPLAY_TIMEOUT: no ACK progress for RTO × 64 ticks. -/
def execReplayTimeout (l : Fin 64) (s : State) : Host.Outcome State Fault Refusal :=
  let k := s.link l.val
  .next (if s.carries l.val = true ∧ k.replay.isEmpty = false ∧ k.rtoTick + 64 * s.fget (Reg.LK_CFG_RTO l.val) ≤ s.wallNow then
    s.rewind l.val else s)

/-- DISCARD: the receiver expects the next SEQ. -/
def execDiscard (l : Fin 64) (seq : Nat) (s : State) : Host.Outcome State Fault Refusal :=
  .next (if s.carries l.val then (s.codeword l.val).onLink l.val fun k => if k.rxSeq = seq then { k with rxSeq := (seq + 1) % 4096 } else k
    else s)

/-! ## Credits (R293, R294) -/

/-- Send a CREDIT set. -/
def State.sendCredit (s : State) (l : Nat) : State :=
  let k := s.link l
  (s.emit (.creditSet l k.sent k.freed)).setLink l { k with creditTick := s.wallNow }

/-- CREDIT_EXCHANGE: every 4,096 frames. -/
def execCreditExchange (l : Fin 64) (s : State) : Host.Outcome State Fault Refusal :=
  .next (if s.carries l.val = true ∧ (s.link l.val).creditTick + 4096 * 512 ≤ s.wallNow then s.sendCredit l.val else s)

/-- A mismatch: counted, F1, answered at once. -/
def State.creditMismatch (s : State) (l : Nat) : State :=
  ((s.bump (Reg.LK_CREDMIS_COUNT l)).raise 0x03 2 l (Config.faultDetail 0x03 l).toNat).sendCredit l

/-- Whether a channel's credit would exceed the buffer. -/
def overCredit (sent freed : Nat) : Bool := decide (signedOf 32 (countDiff sent freed) < 0)

/-- CREDIT: SENT against the accepted flits; FREED sets the credit. -/
def execCredit (l : Fin 64) (sent freed : List Word) (s : State) : Host.Outcome State Fault Refusal :=
  if s.carries l.val then
    let k := s.link l.val
    let sent := (upFrom 0 3).map fun vc => (sent.getD vc 0).toNat
    let freed := (upFrom 0 3).map fun vc => (freed.getD vc 0).toNat
    let bad := decide (sent ≠ k.accepted) || (upFrom 0 3).any fun vc => overCredit (k.sent.getD vc 0) (freed.getD vc 0)
    let s := (s.codeword l.val).onLink l.val fun k => { k with accepted := sent, partnerFreed := freed }
    .next (if bad then s.creditMismatch l.val else s)
  else .next s

/-! ## Reception (R287, R290, R295, R297, R298) -/

/-- The virtual channel of a packet kind (Table 10.4); none for a reserved kind. -/
def kindVc (kind : Nat) : Option Nat := [2, 2, 0, 0, 1, 0, 1][kind]?

/-- Whether a packet is malformed (R287). -/
def Packet.malformed (p : Packet) : Bool := decide (kindVc p.pkind ≠ some p.vc) || p.hdrPoison

/-- What a device does with a packet by its label (R324, R327). -/
inductive Routing where
  | deliver
  | forward (out next remt : Nat)
  | nowhere

/-- The routing of a packet that arrives on a link. -/
def State.routing (s : State) (l : Nat) (p : Packet) : Routing :=
  if p.route = 0xFF then (if p.vc ≠ 2 ∧ p.ddev = s.deviceId then .deliver else .nowhere)
  else
    let e := s.label (some l) p.route
    if labelValid e && labelDeliver e then (if p.ddev = s.deviceId then .deliver else .nowhere)
    else if labelValid e && (if p.vc = 2 then s.dev.intake else decide (2 ≤ s.dev.code)) then
      .forward (labelOut e) (labelNext e) (labelRemt e)
    else .nowhere

/-- What becomes of a packet that arrives on a link. -/
inductive Fate where
  | malformed
  | otherTake
  | silent
  | route (r : Routing)

/-- The fate of a packet: a malformed one and a VC2 packet of another take are discarded, and in a replay stop and in FENCED every
VC2 packet is (R287, R290, R373). -/
def State.fate (s : State) (l : Nat) (p : Packet) : Fate :=
  if p.malformed then .malformed
  else if p.vc = 2 ∧ (s.dev.inTake = false ∨ p.take ≠ s.takeTag) then .otherTake
  else if p.vc = 2 ∧ s.stopped = true then .silent
  else .route (s.routing l p)

/-- Forward a packet cut-through: it waits on its outgoing link, ready now; `bad` stomps it (R298), `inLink` is the receive buffer
that it holds. -/
def State.forward (s : State) (l : Nat) (p : Packet) (out next remt : Nat) (bad : Bool) (inLink : Option (Nat × Nat)) : State :=
  let t := { TxPacket.fresh { p with route := next, remt := remt } s.planNow s.planNow with bad := bad, inLink := inLink }
  (s.bump (Reg.LK_FWD_COUNT l)).setLink out ((s.link out).queue t)

/-- A stomped packet, or one whose CRC fails, whose flits are already on their way out. -/
def State.stompOn (s : State) (l : Nat) (p : Packet) (inLink : Option (Nat × Nat)) : State :=
  match s.fate l p with
  | .route (.forward out next remt) => s.forward l p out next remt true inLink
  | _ => s

/-- Count a packet whose content is discarded. -/
def State.badPacket (s : State) (l rule : Nat) : State := (s.bump (Reg.LK_MALFORMED_COUNT l)).notice rule l

/-- Deliver, forward or discard an accepted packet; `f` delivers its content. -/
def State.routePacket (s : State) (l : Nat) (p : Packet) (f : State → State) : State :=
  match s.fate l p with
  | .malformed => s.badPacket l 287
  | .otherTake => s.badPacket l 290
  | .silent => s
  | .route .deliver => f s
  | .route (.forward out next remt) => s.forward l p out next remt false (some (l, p.flits))
  | .route .nowhere => s.bump (Reg.LK_NOROUTE_COUNT l)

/-- Whether an unscheduled send for a core finds its drizzle queue of 32 full. -/
def State.drizzleFull (s : State) (p : Packet) : Bool :=
  match s.coreOfDcore p.dcore with
  | some key => decide (p.pkind = 2) && !p.data.isEmpty && decide (p.daddr + p.data.length ≤ spadSize) &&
      decide (32 ≤ (s.core key).drizzle.length)
  | none => false

/-- Whether an accepted packet goes on holding its receive buffer (R293): it waits on its outgoing link, or for the drizzle port. -/
def State.buffered (s : State) (l : Nat) (rx : Rx) (p : Packet) : Bool :=
  match s.fate l p with
  | .route (.forward ..) => true
  | .route .deliver => !rx.bad && s.drizzleFull p
  | _ => false

/-- Projected arrival of a failed packet, as the receiver sees it. -/
def State.rxProjection (s : State) (l : Nat) (p : Packet) : Int × Int :=
  (s.planNow + s.linkRtt l + ceilDiv (p.flits * 512) (linkSlots (laneCount (s.link l).rxMask)) + p.remt, s.extendTick p.pland)

/-- The address at which the data that has arrived of a transfer ends. -/
def Landing.edge (l : Landing) : Nat := l.rows.foldl (fun m r => max m (r.1 + r.2.1.length)) 0

/-- Whether a landing belongs to the transfer that a packet is part of: the packets of a transfer agree in source, P, flag and
counter, arrive in ascending address, and a void transfer is one packet (R286; log 61). -/
def Packet.landsIn (p : Packet) (tick : Int) (l : Landing) : Bool :=
  !l.released && decide (l.kind = 3) && decide (l.srcDev = p.sdev) && decide (l.srcCore = p.score) && decide (l.p = tick) &&
  decide (l.flag = p.flag) && decide (l.sync = p.sync) &&
  (l.awaited.contains p.daddr || (decide (0 < l.need) && !p.data.isEmpty && decide (l.edge ≤ p.daddr)))

/-- A landing of a transfer of another device, before any of its bytes has arrived. -/
def Packet.newLanding (p : Packet) (tick : Int) (seq : Nat) : Landing :=
  { p := tick, kind := 3, flag := p.flag, sync := p.sync, srcDev := p.sdev, srcCore := p.score, seq := seq, base := p.daddr,
    rows := [], need := 0, got := 0, arrived := false, released := false, left := [], decodeErr := false, awaited := [] }

/-- The landing of a packet's transfer: an index into the stage, added at the end where it has none yet. -/
def State.landingOf (s : State) (key : Nat) (p : Packet) : Nat × State :=
  let c := s.core key
  let tick := s.extendTick p.pland
  match c.landing.findIdx? fun l => p.landsIn tick l with
  | some i => (i, s)
  | none =>
    let seq := c.landing.foldl (fun m l => max m (l.seq + 1)) 0
    (c.landing.length, s.setCore key { c with landing := c.landing ++ [p.newLanding tick seq] })

/-- Update one landing of a core. -/
def State.onLanding (s : State) (key i : Nat) (f : Landing → Landing) : State :=
  let c := s.core key
  match c.landing[i]? with
  | some l => s.setCore key { c with landing := listSet c.landing i (f l) }
  | none => s

/-- A failed or stomped packet's flits are invalidated: its transfer stays incomplete until the packet arrives again (R290). -/
def State.awaitPacket (s : State) (l : Nat) (p : Packet) : State :=
  match s.fate l p, s.coreOfDcore p.dcore with
  | .route .deliver, some key =>
    if p.pkind ≠ 0 then s
    else
      let (i, s) := s.landingOf key p
      s.onLanding key i fun x =>
        if x.awaited.contains p.daddr then x
        else { x with awaited := x.awaited ++ [p.daddr], need := x.need + p.data.length, arrived := false }
  | _, _ => s

/-- Accept a packet for sequencing and credits. -/
def State.acceptPacket (s : State) (l : Nat) (rx : Rx) (p : Packet) (f : State → State) : State :=
  let held := s.buffered l rx p
  let s := s.onLink l fun k =>
    { k with rxSeq := (rx.seq + 1) % 4096, lastAcc := rx.seq, nakSent := false, accepted := addCount k.accepted p.vc p.flits,
             freed := if held then k.freed else addCount k.freed p.vc p.flits }
  let s := s.emit (if held then .ackSent l false rx.seq 3 0 else .ackSent l false rx.seq p.vc p.flits)
  if rx.bad then ((s.bump (Reg.LK_STOMP_COUNT l)).stompOn l p (some (l, p.flits))).awaitPacket l p else s.routePacket l p f

/-- A packet that is not accepted: NAK once, and again when the expected SEQ itself fails; a VC2 packet with a good header is
projected against its landing tick. -/
def State.failPacket (s : State) (l : Nat) (rx : Rx) (p : Packet) : State :=
  let k := s.link l
  let s := if rx.crcOk p && rx.hcrcOk p then s else s.bump (Reg.LK_CRC_COUNT l)
  if k.nakSent = true ∧ rx.seq ≠ k.rxSeq then s
  else
    let s := (s.onLink l fun k => { k with nakSent := true }).emit (.ackSent l true k.lastAcc 3 0)
    let s := if rx.seq = k.rxSeq ∧ rx.hcrcOk p = true then (s.stompOn l p none).awaitPacket l p else s
    if p.vc = 2 ∧ rx.hcrcOk p = true then s.project l [s.rxProjection l p] else s

/-- A packet arrives on a link, with the symbols that the FEC corrected in its codewords. -/
def State.receivePacket (s : State) (l : Nat) (rx : Rx) (p : Packet) (f : State → State) : State :=
  if s.carries l then
    let s := (s.codeword l).onLink l fun k => { k with packetTick := s.wallNow }
    let s := rx.fixed.foldl (fun (s : State) lanes => s.countFixed l lanes) s
    if rx.seq = (s.link l).rxSeq ∧ rx.crcOk p = true ∧ rx.hcrcOk p = true then s.acceptPacket l rx p f else s.failPacket l rx p
  else s

/-! ## Delivery of plan traffic (R158 to R162, R186) -/

/-- The bytes of a packet join its landing; a stage without room discards them, and the transfer lands late. -/
def State.landPacket (s : State) (p : Packet) : State :=
  match s.coreOfDcore p.dcore with
  | none => s
  | some key =>
    let tick := s.extendTick p.pland
    if tick < s.planNow then s.halt (key / 16) 0x47 (some key)
    else
      let (i, s) := s.landingOf key p
      let room := stageRoom (dropIndex (s.core key).landing i) (p.data.length + (((s.core key).landing[i]?).map (·.got)).getD 0)
      let fits := decide (p.daddr + p.data.length ≤ spadSize)
      let s := s.onLanding key i fun x =>
        let x := { x with awaited := x.awaited.filter (· ≠ p.daddr),
                          need := if x.awaited.contains p.daddr then x.need else x.need + p.data.length }
        if !room then { x with rows := [], arrived := false, awaited := x.awaited ++ [spadSize] }
        else
          { x with rows := if p.data.isEmpty || !fits then x.rows else x.rows ++ [(p.daddr, p.data, p.poison)],
                   got := x.got + p.data.length, arrived := x.awaited.isEmpty }
      s.stagePeaks key

/-- SCHEDULED_SEND_PACKET. -/
def execScheduledSendPacket (l : Fin 64) (rx : Rx) (p : Packet) (s : State) : Host.Outcome State Fault Refusal :=
  .next (s.receivePacket l.val rx p fun s => s.landPacket p)

/-- REDX_CONTRIBUTION: the member's value joins the group's reduction at P. -/
def execRedxContribution (l : Fin 64) (rx : Rx) (p : Packet) (grp rank : Nat) (value : DWord) (poison : Bool) (s : State) :
    Host.Outcome State Fault Refusal :=
  .next (s.receivePacket l.val rx p fun s =>
    s.deliverPart (p.dcore / 16) grp (s.extendTick p.pland) rank { v := value, p := poison })

/-- UNSCHEDULED_SEND: written through the destination core's drizzle port in arrival order. -/
def State.landLow (s : State) (l : Nat) (p : Packet) : State :=
  match s.coreOfDcore p.dcore with
  | none => s
  | some key =>
    if p.data.isEmpty ∨ spadSize < p.daddr + p.data.length then s
    else
      s.drizzleFrom key (.write p.daddr p.data p.poison (if p.flag then some p.sync else none))
        (if p.flag ∨ p.sync ≠ 0 then some p.sync else none) none true
        (if s.drizzleFull p then some (l, p.vc, p.flits) else none)

/-- UNSCHEDULED_SEND. -/
def execUnscheduledSend (l : Fin 64) (rx : Rx) (p : Packet) (s : State) : Host.Outcome State Fault Refusal :=
  .next (s.receivePacket l.val rx p fun s => s.landLow l.val p)

/-! ## Mirrors (R249, R250) -/

/-- The HBM address of a frame. -/
def State.frameAddr (s : State) (f : Nat) : Nat := s.fget Reg.SV_POOL_BASE_BASE + f * (32 * s.fget Reg.SV_POOL_STRIDE_STRIDE)

/-- The frame of a local page of a mirror context, mapped now where it is not mapped yet. -/
def State.mirrorPage (s : State) (c lp : Nat) : Option Nat × State :=
  let w := s.pageWord c lp
  if 2 ^ 31 ≤ w then (some (w % 2 ^ 24), s)
  else
    match s.serve.mirrorFree with
    | [] => (none, s)
    | f :: fs => (some f, { s with serve.mirrorFree := fs }.hbmPut (s.pageEntry c lp) (toBytes 4 (2 ^ 31 + f)))

/-- Write one piece of mirrored KV. A piece without a frame, or beyond its page, is not written. -/
def State.mirrorPiece (s : State) (c : Nat) (x : Nat × Nat × List Byte × List Bool) : State :=
  let (lp, off, bs, ps) := x
  match s.mirrorPage c lp with
  | (none, s) => s
  | (some f, s) =>
    if 32 * s.fget Reg.SV_POOL_STRIDE_STRIDE < off + bs.length ∨ hbmSize < s.frameAddr f + off + bs.length then s
    else s.hbmPutUnits (s.frameAddr f + off) bs ps

/-- The mirror context as the write leaves it. -/
def State.mirrorCtx (s : State) (r : MirrorCtx) : State :=
  let x := s.ctx r.ctx
  s.setCtx r.ctx { x with mirror := true, st := .held, commit := r.commit, reach := max x.reach (64 * ceilDiv r.commit 64) }

/-- A context that ended at the twin: its frames return to the mirrors' half, its pages are unmapped. -/
def State.mirrorEnd (s : State) (c : Nat) : State :=
  let fs := s.framesOf c
  let s := { s.unmapCtx c with serve.mirrorFree := fs ++ s.serve.mirrorFree }
  { s.setCtx c (s.ctx c).freed with serve.building := s.serve.building.filter fun m => decide (m.ctx ≠ c) }

/-- One mirror write. -/
def State.mirrorApply (s : State) (r : MirrorCtx) (ended : Bool) : State :=
  if ended then s.mirrorEnd r.ctx
  else
    let s := (r.kv.foldl (fun (s : State) x => s.mirrorPiece r.ctx x) s).mirrorCtx r
    let old := s.serve.building.filter fun m => decide (m.ctx ≠ r.ctx)
    { s with serve.building := old ++ [{ r with kv := [] }] }

/-- The last write of a cut: the cut is complete, kept among the last 16, and acknowledged. -/
def State.mirrorComplete (s : State) (dev cut : Nat) (meters : List (Nat × Nat × Nat)) : State :=
  let k : MirrorCut := { cut := cut, ctxs := s.serve.building, meters := meters }
  let s := { s with serve.kept := keepLast 16 (s.serve.kept ++ [k]) }.fset Reg.SV_MIRROR_CUT_CUT cut
  (s.emit (.mirrorAck dev cut)).sendDefault 1 4 dev 0 (toBytes 8 cut) []

/-- MIRROR_WRITE. -/
def execMirrorWrite (l : Fin 64) (rx : Rx) (p : Packet) (cut : Nat) (rec : MirrorCtx) (meters : List (Nat × Nat × Nat))
    (ended complete : Bool) (s : State) : Host.Outcome State Fault Refusal :=
  .next (s.receivePacket l.val rx p fun s =>
    let s := s.storesFirst.mirrorApply rec ended
    if complete then s.mirrorComplete p.sdev cut meters else s)

/-- MIRROR_ACKNOWLEDGEMENT. -/
def execMirrorAcknowledgement (l : Fin 64) (rx : Rx) (p : Packet) (cut : Nat) (s : State) : Host.Outcome State Fault Refusal :=
  .next (s.receivePacket l.val rx p fun s => { s with serve.unacked := s.serve.unacked.filter (· ≠ cut) })

/-! ## The gateway protocol (R340, R443) -/

/-- A write that a proxied device asks its gateway for: inside the slot's window it is performed. -/
def State.proxyWrite (s : State) (n : Nat) (p : Packet) (addr : DWord) : State :=
  let a := addr.toNat
  if s.fget (Reg.HI_PX_WINLO_ADDR n) ≤ a ∧ a + p.data.length ≤ s.fget (Reg.HI_PX_WINHI_ADDR n) + 1 then
    let count := match s.host.proxied.find? fun x => decide (x.1 = p.sdev) with
      | some x => x.2 + 1
      | none => 1
    let s := s.emit (.hostWrite addr p.data)
    { s with host.proxied := (s.host.proxied.filter fun (x : Nat × Nat) => decide (x.1 ≠ p.sdev)) ++ [(p.sdev, count)] }.closeBatch
  else s.bump Reg.HI_WINDROP_COUNT

/-- A read that a proxied device asks its gateway for; what host memory holds is a free value. -/
def State.proxyRead (s : State) (n : Nat) (p : Packet) (addr : DWord) : State :=
  let (bs, s) := s.freeBytes 64
  (s.emit (.hostRead n addr.toNat 64)).sendProxied 1 6 p.sdev 0 bs

/-- A request as the gateway takes it; an interrupt goes out under the gateway's own MSI-X table. -/
def State.gatewayRequest (s : State) (p : Packet) (ask : ProxyAsk) (addr : DWord) : State :=
  let n := p.sdev % 64
  if s.flag (Reg.HI_PX_DEV_VALID n) = true ∧ s.fget (Reg.HI_PX_DEV_DEVICE n) = p.sdev then
    let s := { s with host.heard := mapIns s.host.heard n s.wallNow }
    match ask with
    | .write => s.proxyWrite n p addr
    | .read => s.proxyRead n p addr
    | .irq => s.emit (.msix addr.toNat)
  else s

/-- A forwarded doorbell as the proxied device takes it. -/
def State.proxiedBell (s : State) (p : Packet) (addr : DWord) : State :=
  let n := s.ownSlot
  let value := ofBytes (p.data.take 4)
  if s.flag (Reg.HI_PX_DEV_VALID n) = false ∨ s.flag Reg.HI_MB_CTRL_EN = false then s.notice 443 addr.toNat
  else s.ownBell n (addr.toNat % 0x40000) value

/-- PROXIED_REQUEST: on a gateway a proxied device's access to host memory; on a proxied device a doorbell. -/
def execProxiedRequest (l : Fin 64) (rx : Rx) (p : Packet) (ask : ProxyAsk) (addr : DWord) (s : State) :
    Host.Outcome State Fault Refusal :=
  .next (s.receivePacket l.val rx p fun s =>
    if s.hostRole = 2 then s.gatewayRequest p ask addr
    else
      match ask with
      | .write => if s.hostRole = 3 ∧ p.sdev = s.gateway then s.proxiedBell p addr else s
      | .read | .irq => s)

/-- PROXIED_RESPONSE: on a proxied device its oldest item is delivered. -/
def execProxiedResponse (l : Fin 64) (rx : Rx) (p : Packet) (s : State) : Host.Outcome State Fault Refusal :=
  .next (s.receivePacket l.val rx p fun s =>
    if s.hostRole = 3 ∧ p.sdev = s.gateway then
      match s.host.posted with
      | i :: rest => s.deliver [i] rest
      | [] => s
    else s)

end Sys2Proof.Machine
end

