-- ==== Sys2Proof/Machine/Sieve.lean ====
section
/-! DEFINITION. The sieve: TOPK, SEND, DISPATCH and PAGES (R201 to R217). Inputs are read at issue; outputs are written at the last
write's cycle. -/

namespace Sys2Proof.Machine

/-! ## Table entries (Table 07.3) -/

/-- A sieve table entry's fields, areas as byte addresses. -/
structure SieveEntry where
  src : Nat
  dst : Nat
  aux : Nat
  map : Nat
  t : Nat
  e : Nat
  k : Nat
  c : Nat
  o : Nat
  x : Nat
  nsrc : Nat
  rank : Nat
  rowb : Nat
  rrowb : Nat
  budget : Nat
  sink : Nat
  recent : Nat
  npg : Nat
deriving DecidableEq, Repr

/-- The fields of 256 bits. -/
def sieveEntryOf (b : BitVec 256) : SieveEntry :=
  let n := b.toNat
  { src := 512 * bitsOf 255 240 n, dst := 512 * bitsOf 239 224 n, aux := 512 * bitsOf 223 208 n,
    map := 512 * bitsOf 207 192 n, t := bitsOf 191 180 n + 1, e := bitsOf 179 170 n + 1, k := bitsOf 169 166 n + 1,
    c := bitsOf 165 154 n, o := bitsOf 153 142 n, x := bitsOf 141 130 n, nsrc := bitsOf 129 124 n + 1,
    rank := bitsOf 123 118 n, rowb := bitsOf 117 102 n, rrowb := bitsOf 101 86 n, budget := bitsOf 85 78 n + 1,
    sink := bitsOf 77 74 n, recent := bitsOf 73 70 n, npg := bitsOf 69 52 n }

/-- An entry of a cluster's sieve table; one that is not loaded reads 0. -/
def State.sieveEntry (s : State) (cl i : Nat) : SieveEntry :=
  sieveEntryOf (match s.take.active with
    | none => 0
    | some r => ((r.sieve.find? fun p => decide (p.1 = 256 * cl + i)).map (·.2)).getD 0)

/-- The functions of SIEVE. -/
inductive SieveFunc where
  | topk | send | dispatch | pages
deriving DecidableEq, Repr

/-- Latency in local cycles (Table 07.4). -/
def SieveEntry.latency (e : SieveEntry) : SieveFunc → Nat
  | .topk => 24 + e.t * ceilDiv e.e 64
  | .send => 24 + ceilDiv (e.t * e.k) 8 + ceilDiv (e.nsrc * e.x) 64
  | .dispatch => 24 + ceilDiv (e.nsrc * e.x) 16
  | .pages => 24 + e.t * ceilDiv e.npg 64

/-! ## Inputs -/

/-- The address of a score in the OUT layout with F32 elements (R179): block columns of 32, rows of 128 bytes. -/
def scoreAddr (src t row col : Nat) : Nat := src + col / 32 * columnBytes .f32 t + row * 128 + col % 32 * 4

/-- Extent of a score tensor. -/
def scoreBytes (t cols : Nat) : Nat := ceilDiv cols 32 * columnBytes .f32 t

/-- A score: column, bits, poison. -/
abbrev Score := Nat × Nat × Bool

/-- The scores of one block column of a row: `n` of them from column `col`. -/
def blockScores (col : Nat) (bs : List Byte) (ps : List Bool) (n : Nat) : List Score :=
  (upFrom 0 n).map fun j => (col + j, ofBytes ((bs.drop (4 * j)).take 4), ps.getD (j / 2) false)

/-- Read the first `n` scores of a row from column `col` on; `fuel` bounds the block columns. -/
def State.readScores (s : State) (key src t row col n : Nat) : Nat → Except Nat (List Score × State)
  | 0 => .ok ([], s)
  | fuel + 1 =>
    if n = 0 then .ok ([], s)
    else
      let m := min n 32
      match s.scheduledRead key (scoreAddr src t row col) (4 * m) with
      | .error r => .error r
      | .ok ((bs, ps), s) =>
        match s.readScores key src t row (col + 32) (n - m) fuel with
        | .error r => .error r
        | .ok (rest, s) => .ok (blockScores col bs ps m ++ rest, s)

/-- The place of a score in the total order of R204: NaN below −∞, ±0 equal. A poisoned score ranks as NaN (R205, R215). -/
def scoreRank (x : Score) : Int :=
  let mag : Nat := x.2.1 % 2 ^ 31
  if x.2.2 ∨ 0x7F800000 < mag then -2 ^ 32 else if bitOf x.2.1 31 then -(mag : Int) else mag

/-- Scores in descending order, equal ones by ascending column. -/
def rankScores (xs : List Score) : List Score := sortBy (fun x => -scoreRank x) xs

/-- Read `n` granules as 64-bit values with their poison. -/
def State.readGrans (s : State) (key a n : Nat) : Except Nat (List (Nat × Bool) × State) :=
  (s.scheduledRead key a (8 * n)).map fun r =>
    ((upFrom 0 n).map fun j => (ofBytes ((r.1.1.drop (8 * j)).take 8), r.1.2.getD j false), r.2)

/-- Read the expert map: 16-bit entries, and whether a granule of it is poisoned. -/
def State.readMap (s : State) (key : Nat) (e : SieveEntry) : Except Nat ((List Nat × Bool) × State) :=
  (s.scheduledRead key e.map (2 * e.e)).map fun r =>
    (((upFrom 0 e.e).map fun j => ofBytes ((r.1.1.drop (2 * j)).take 2), r.1.2.any id), r.2)

/-- Destination rank of a map entry. -/
def mapRank (w : Nat) : Nat := bitsOf 15 10 w

/-- DCORE of a map entry. -/
def mapCore (w : Nat) : Nat := bitsOf 5 0 w

/-! ## Outputs -/

/-- Output granules: address of the first, values with poison. -/
abbrev Grans := Nat × List (Nat × Bool)

/-- The pending write of granules. -/
def granTarget (g : Grans) : Target := .bytes g.1 (g.2.flatMap fun x => toBytes 8 x.1) (g.2.map (·.2))

/-- The pending write of 32-bit count words. -/
def wordTarget (a : Nat) (ws : List Nat) (poison : Bool) : Target :=
  .bytes a (ws.flatMap fun w => toBytes 4 w) (List.replicate (granCount a (4 * ws.length)) poison)

/-- The null index entry. -/
def nullEntry : Nat := 2 ^ 63

/-- A KIND 0x6 index entry. -/
def offsetEntry (o : Nat) : Nat := o % 2 ^ 40

/-! ## TOPK (R204, R205) -/

/-- The choices of a row. -/
def topkRow (k : Nat) (xs : List Score) : List (Nat × Bool) :=
  let bad := xs.any fun x => x.2.2
  ((rankScores xs).take k).map fun x => (x.1 * 2 ^ 32 + x.2.1, bad)

/-- The choices of rows `i` up. -/
def State.topkRows (s : State) (key : Nat) (e : SieveEntry) (i : Nat) : Nat → Except Nat (List (Nat × Bool) × State)
  | 0 => .ok ([], s)
  | n + 1 =>
    match s.readScores key e.src e.t i 0 e.e e.e with
    | .error r => .error r
    | .ok (xs, s) =>
      match s.topkRows key e (i + 1) n with
      | .error r => .error r
      | .ok (rest, s) => .ok (topkRow e.k xs ++ rest, s)

/-- TOPK on a core. -/
def State.topkCore (s : State) (key : Nat) (e : SieveEntry) : Except Nat (List Target × State) :=
  (s.topkRows key e 0 e.t).map fun r => ([granTarget (e.dst, r.1)], r.2)

/-! ## SEND (R206, R212) -/

/-- The state of SEND: rows used per destination, forward entries and tags as (index, value), combine entries in reverse,
choices dropped. -/
structure SendState where
  used : List Nat
  fwd : SMap Nat
  tag : SMap Nat
  comb : List (Nat × Bool)
  dropped : Nat
deriving DecidableEq, Repr

/-- A dropped choice. -/
def SendState.drop (x : SendState) (poison : Bool) : SendState :=
  { x with comb := (nullEntry, poison) :: x.comb, dropped := x.dropped + 1 }

/-- A choice sent to rank `d`, or dropped where its slot is full. -/
def SendState.place (x : SendState) (e : SieveEntry) (base i r ex d : Nat) : SendState :=
  let u := x.used.getD d 0
  if u < e.x then
    let at_ := d * e.x + u
    let tag := 2 ^ 63 + r * 2 ^ 58 + ex * 2 ^ 49 + (base + i) % 2 ^ 32
    { used := listSet x.used d (u + 1), fwd := mapIns x.fwd at_ (offsetEntry (i * e.rowb * 32)), tag := mapIns x.tag at_ tag,
      comb := (offsetEntry (at_ * e.rrowb * 32), false) :: x.comb, dropped := x.dropped }
  else x.drop false

/-- Process choice number `n` (token n / K, rank n mod K). -/
def SendState.choice (x : SendState) (e : SieveEntry) (map : List Nat) (base n : Nat) (c : Nat × Bool) : SendState :=
  let ex := bitsOf 40 32 c.1
  let d := mapRank (map.getD ex 0)
  if c.2 ∨ e.e ≤ ex ∨ e.nsrc ≤ d then x.drop true else x.place e base (n / e.k) (n % e.k) ex d

/-- Process choices from number `n` on. -/
def SendState.choices (e : SieveEntry) (map : List Nat) (base : Nat) : Nat → List (Nat × Bool) → SendState → SendState
  | _, [], x => x
  | n, c :: cs, x => SendState.choices e map base (n + 1) cs (x.choice e map base n c)

/-- The outputs of SEND. -/
def sendOutputs (e : SieveEntry) (x : SendState) (mapBad baseBad : Bool) : List Target :=
  let n := e.nsrc * e.x
  let fwd := (upFrom 0 n).map fun j => (mapGet (fun _ => nullEntry) x.fwd j, mapBad)
  let tag := (upFrom 0 n).map fun j => (mapGet (fun _ => 0) x.tag j, mapBad || (baseBad && (mapFind x.tag j).isSome))
  let comb := x.comb.reverse.map fun c => (c.1, c.2 || mapBad)
  [granTarget (e.dst, fwd ++ tag ++ comb), wordTarget e.aux (x.used ++ [x.dropped]) mapBad]

/-- SEND on a core. -/
def State.sendCore (s : State) (key : Nat) (e : SieveEntry) (sa : SVal) : Except Nat (List Target × State) :=
  match s.readGrans key e.src (e.t * e.k) with
  | .error r => .error r
  | .ok (cs, s) =>
    match s.readMap key e with
    | .error r => .error r
    | .ok ((map, bad), s) =>
      let x : SendState := { used := List.replicate e.nsrc 0, fwd := [], tag := [], comb := [], dropped := 0 }
      .ok (sendOutputs e (SendState.choices e map (sa.v.toNat % 2 ^ 32) 0 cs x) bad sa.p, s)

/-! ## DISPATCH (R209, R210, R212) -/

/-- The state of DISPATCH: capacity rows per expert, pool rows, rows placed per expert, assignments dropped, placed rows as
((expert, row), (s, j)), return entries in reverse as (expert, row) or nothing, with poison. -/
structure DispState where
  cnt : SMap Nat
  pool : Nat
  total : SMap Nat
  dropped : Nat
  rows : List ((Nat × Nat) × Nat)
  ret : List (Option (Nat × Nat) × Bool)
deriving DecidableEq, Repr

/-- Record a placement of tag `n` in a row of an expert. -/
def DispState.put (x : DispState) (n ex row : Nat) : DispState :=
  { x with total := mapIns x.total ex (mapGet (fun _ => 0) x.total ex + 1), rows := x.rows ++ [((ex, row), n)],
           ret := (some (ex, row), false) :: x.ret }

/-- Skip a tag: no row, and a null return entry. -/
def DispState.skip (x : DispState) (poison : Bool) : DispState := { x with ret := (none, poison) :: x.ret }

/-- Drop an assignment. -/
def DispState.lose (x : DispState) (poison : Bool) : DispState := { x.skip poison with dropped := x.dropped + 1 }

/-- Place the assignment of tag `n` to an expert of this rank. -/
def DispState.assign (x : DispState) (e : SieveEntry) (n ex : Nat) : DispState :=
  let c := mapGet (fun _ => 0) x.cnt ex
  if c < e.c then { x with cnt := mapIns x.cnt ex (c + 1) }.put n ex c
  else if x.pool < e.o then { x with pool := x.pool + 1 }.put n ex (e.c + x.pool)
  else x.lose false

/-- Process tag number `n`; `full` lists the calling core's experts beyond the fourth. -/
def DispState.tag (x : DispState) (e : SieveEntry) (map full : List Nat) (n : Nat) (t : Nat × Bool) : DispState :=
  let ex := bitsOf 57 49 t.1
  if t.2 then x.skip true
  else if !bitOf t.1 63 then x.skip false
  else if e.e ≤ ex then x.skip true
  else if mapRank (map.getD ex 0) ≠ e.rank then x.skip false
  else if full.contains ex then x.lose true
  else x.assign e n ex

/-- Process tags from number `n` on. -/
def DispState.tags (e : SieveEntry) (map full : List Nat) : Nat → List (Nat × Bool) → DispState → DispState
  | _, [], x => x
  | n, t :: ts, x => DispState.tags e map full (n + 1) ts (x.tag e map full n t)

/-- The experts of this rank. -/
def localExperts (e : SieveEntry) (map : List Nat) : List Nat :=
  (upFrom 0 e.e).filter fun ex => decide (mapRank (map.getD ex 0) = e.rank)

/-- h: the place of an expert among the (expert, core) places of this rank (R210). -/
def placeOf (e : SieveEntry) (map : List Nat) (ex : Nat) : Nat :=
  let order := sortBy (fun x => (mapCore (map.getD x 0) : Int)) (localExperts e map)
  (order.findIdx? fun x => decide (x = ex)).getD 0

/-- The capacity list of an expert. -/
def capacityList (e : SieveEntry) (x : DispState) (bad : Bool) (ex : Nat) : List (Nat × Bool) :=
  (upFrom 0 (e.c + e.o)).map fun row =>
    match x.rows.find? fun r => decide (r.1 = (ex, row)) with
    | some r => (offsetEntry (r.2 * e.rowb * 32), bad)
    | none => (nullEntry, bad)

/-- A return entry. -/
def returnEntry (e : SieveEntry) (map : List Nat) (bad : Bool) (r : Option (Nat × Nat) × Bool) : Nat × Bool :=
  match r.1 with
  | some (ex, row) => (offsetEntry ((placeOf e map ex * (e.c + e.o) + row) * e.rrowb * 32), r.2 || bad)
  | none => (nullEntry, r.2 || bad)

/-- The outputs of DISPATCH for a core that hosts `mine`. -/
def dispatchOutputs (e : SieveEntry) (map mine : List Nat) (x : DispState) (bad : Bool) : List Target :=
  let caps := mine.flatMap fun ex => capacityList e x bad ex
  let rets := x.ret.reverse.map (returnEntry e map bad)
  let counts := (upFrom 0 e.e).map fun ex => mapGet (fun _ => 0) x.total ex
  [granTarget (e.dst, caps ++ rets), wordTarget e.aux (counts ++ [x.pool, x.dropped]) bad]

/-- DISPATCH on a core. -/
def State.dispatchCore (s : State) (key : Nat) (e : SieveEntry) : Except Nat (List Target × State) :=
  match s.readGrans key e.src (e.nsrc * e.x) with
  | .error r => .error r
  | .ok (ts, s) =>
    match s.readMap key e with
    | .error r => .error r
    | .ok ((map, bad), s) =>
      let mine := (localExperts e map).filter fun ex => decide (mapCore (map.getD ex 0) = s.dcoreOf key)
      let x := DispState.tags e map (mine.drop 4) 0 ts { cnt := [], pool := 0, total := [], dropped := 0, rows := [], ret := [] }
      .ok (dispatchOutputs e map (mine.take 4) x bad, s)

/-! ## PAGES (R214, R215) -/

/-- The pages that are always selected below `n`. -/
def fixedPages (e : SieveEntry) (n : Nat) : List Nat :=
  (upFrom 0 n).filter fun p => decide (p < e.sink) || decide (n - e.recent ≤ p)

/-- The pages selected from the scores of the pages below `n`, ascending. -/
def selectPages (e : SieveEntry) (n : Nat) (xs : List Score) : List Nat :=
  let fixed := fixedPages e n
  let rest := (rankScores (xs.filter fun x => !fixed.contains x.1)).map (·.1)
  sortBy (fun p => (p : Int)) (fixed ++ rest.take (e.budget - fixed.length))

/-- The index entries of a row. -/
def pageEntries (e : SieveEntry) (ctx : Nat) (sel : List Nat) (poison : Bool) : List (Nat × Bool) :=
  let es := sel.map fun p => ctx * 2 ^ 32 + p
  (es ++ List.replicate (e.budget - es.length) nullEntry).map fun w => (w, poison)

/-- A row word with SEL written. -/
def withSel (w sel : Nat) : Nat := w % 2 ^ 55 + sel % 512 * 2 ^ 55

/-- One row of PAGES: its index entries and its new row word. A poisoned row word leaves SEL open (log 43). -/
def State.pagesRow (s : State) (key : Nat) (e : SieveEntry) (i : Nat) (w : Nat × Bool) :
    Except Nat ((List (Nat × Bool) × (Nat × Bool)) × State) :=
  if w.2 then .ok ((pageEntries e 0 [] true, (withSel w.1 (Config.poisonedSel w.1), true)), s)
  else
    let n := min (bitsOf 17 0 w.1) e.npg
    match s.readScores key e.src e.t i 0 n n with
    | .error r => .error r
    | .ok (xs, s) =>
      let bad := xs.any fun x => x.2.2
      let sel := selectPages e n xs
      .ok ((pageEntries e (bitsOf 46 32 w.1) sel bad, (withSel w.1 sel.length, bad)), s)

/-- The rows of PAGES from `i` on. -/
def State.pagesRows (s : State) (key : Nat) (e : SieveEntry) (i : Nat) :
    List (Nat × Bool) → Except Nat ((List (Nat × Bool) × List (Nat × Bool)) × State)
  | [] => .ok (([], []), s)
  | w :: ws =>
    match s.pagesRow key e i w with
    | .error r => .error r
    | .ok ((es, v), s) =>
      match s.pagesRows key e (i + 1) ws with
      | .error r => .error r
      | .ok ((rest, vs), s) => .ok ((es ++ rest, v :: vs), s)

/-- PAGES on a core. -/
def State.pagesCore (s : State) (key : Nat) (e : SieveEntry) : Except Nat (List Target × State) :=
  match s.readGrans key e.aux e.t with
  | .error r => .error r
  | .ok (ws, s) => (s.pagesRows key e 0 ws).map fun r => ([granTarget (e.dst, r.1.1), granTarget (e.aux, r.1.2)], r.2)

/-! ## Running a SIEVE (R201, R203) -/

/-- The areas of a function as (address, bytes); `hosted` is how many experts the core hosts (R210). -/
def SieveEntry.areas (e : SieveEntry) (hosted : Nat) : SieveFunc → List (Nat × Nat)
  | .topk => [(e.src, scoreBytes e.t e.e), (e.dst, 8 * e.t * e.k)]
  | .send => [(e.src, 8 * e.t * e.k), (e.dst, 8 * (2 * e.nsrc * e.x + e.t * e.k)), (e.aux, 4 * (e.nsrc + 1)), (e.map, 2 * e.e)]
  | .dispatch =>
    [(e.src, 8 * e.nsrc * e.x), (e.dst, 8 * (hosted * (e.c + e.o) + e.nsrc * e.x)), (e.aux, 4 * (e.e + 2)), (e.map, 2 * e.e)]
  | .pages => [(e.src, scoreBytes e.t e.npg), (e.dst, 8 * e.t * e.budget), (e.aux, 8 * e.t)]

/-- The map of an entry as it stands in the scratchpad of a core. -/
def State.mapNow (s : State) (key : Nat) (e : SieveEntry) : List Nat :=
  (upFrom 0 e.e).map fun j => ofBytes ((upFrom (e.map + 2 * j) 2).map fun a => s.spadByte key a)

/-- How many experts a core hosts under a map, of which at most four get a capacity list (R210). -/
def SieveEntry.hosted (e : SieveEntry) (map : List Nat) (dcore : Nat) : Nat :=
  min 4 ((localExperts e map).filter fun ex => decide (mapCore (map.getD ex 0) = dcore)).length

/-- The banks of a function's areas on a core. -/
def State.sieveBanks (s : State) (key : Nat) (e : SieveEntry) (f : SieveFunc) : List Nat :=
  let n := match f with
    | .dispatch => e.hosted (s.mapNow key e) (s.dcoreOf key)
    | _ => 0
  ((e.areas n f).flatMap fun a => banksOf a.1 (min a.2 4096)).eraseDups

/-- The code of a function (Table 07.2). -/
def SieveFunc.code : SieveFunc → Nat
  | .topk => 0
  | .send => 1
  | .dispatch => 2
  | .pages => 3

/-- The function on one core: the results to write. -/
def State.sieveCore (s : State) (key : Nat) (f : SieveFunc) (e : SieveEntry) (sa : BitVec 5) : Except Nat (List Target × State) :=
  match f with
  | .topk => s.topkCore key e
  | .send => s.sendCore key e (s.sval key sa)
  | .dispatch => s.dispatchCore key e
  | .pages => s.pagesCore key e

/-- Whether a target may not be written (R150). -/
def State.targetBarred (s : State) (key : Nat) : Target → Bool
  | .bytes a bs _ => s.writeBarred key a bs.length
  | _ => false

/-- Run the function on a core: results are written after its latency; a barred write is not made and halts with 0x23. -/
def State.sieveOn (s : State) (key : Nat) (f : SieveFunc) (e : SieveEntry) (sa : BitVec 5) : State :=
  match s.sieveCore key f e sa with
  | .error r => s.halt (key / 16) r (some key)
  | .ok (ts, s) =>
    let good := ts.filter fun t => !s.targetBarred key t
    let halts := if good.length < ts.length then [0x23] else []
    s.applyEffect key 0x6 0
      { writes := good.map fun t => (e.latency f, t), flags := 0, halts := halts, access := [] }

/-- The accesses already scheduled that may meet the sieve. -/
def State.meetEarlier (s : State) (key : Nat) : State :=
  ((s.core key).arrayUses ++ (s.core key).uses).foldl (fun s u => s.meetSieve key u) s

/-- Start a SIEVE now on every core of the cluster. -/
def State.startSieve (s : State) (cl : Nat) (f : SieveFunc) (entry : Nat) (sa : BitVec 5) : State :=
  let e := s.sieveEntry cl entry
  let now := (s.seq cl).now
  let tags := (s.coresOf cl).map fun key => (key, (s.core key).tags)
  let banks := (s.coresOf cl).map fun key => (key, s.sieveBanks key e f)
  let v : SieveState := { func := f.code, from_ := now, until_ := now + e.latency f, banks := banks, tags := tags }
  let s := (s.coresOf cl).foldl (fun s key => s.sieveOn key f e sa) s
  let s := s.onSeq cl fun q => { q with sieve := some v }
  (s.coresOf cl).foldl (fun s key => s.meetEarlier key) s

/-- Whether the sieve of a cluster is still running. -/
def State.sieveBusy (s : State) (cl : Nat) : Bool :=
  match (s.seq cl).sieve with
  | some v => decide ((s.seq cl).now < v.until_)
  | none => false

/-- Issue a SIEVE: it starts, or stalls the cluster's issue while the sieve runs. -/
def State.issueSieve (s : State) (i : Issue) (f : SieveFunc) (op : Instr) (entry : BitVec 8) (sa : BitVec 5) : State :=
  s.runSync i [] fun s =>
    if s.sieveBusy i.cl.val then s.onSeq i.cl.val fun q => { q with stalled := [op] }
    else s.startSieve i.cl.val f entry.toNat sa

/-- TOPK. -/
def execTopk (i : Issue) (entry : BitVec 8) (sa : BitVec 5) (s : State) : Host.Outcome State Fault Refusal :=
  .next (s.issueSieve i .topk (.topk i entry sa) entry sa)

/-- SEND. -/
def execSend (i : Issue) (entry : BitVec 8) (sa : BitVec 5) (s : State) : Host.Outcome State Fault Refusal :=
  .next (s.issueSieve i .send (.send i entry sa) entry sa)

/-- DISPATCH. -/
def execDispatch (i : Issue) (entry : BitVec 8) (sa : BitVec 5) (s : State) : Host.Outcome State Fault Refusal :=
  .next (s.issueSieve i .dispatch (.dispatch i entry sa) entry sa)

/-- PAGES. -/
def execPages (i : Issue) (entry : BitVec 8) (sa : BitVec 5) (s : State) : Host.Outcome State Fault Refusal :=
  .next (s.issueSieve i .pages (.pages i entry sa) entry sa)

/-- The function, entry and scalar of a stalled SIEVE. -/
def stalledSieve : List Instr → Option (SieveFunc × Nat × BitVec 5)
  | .topk _ e a :: _ => some (.topk, e.toNat, a)
  | .send _ e a :: _ => some (.send, e.toNat, a)
  | .dispatch _ e a :: _ => some (.dispatch, e.toNat, a)
  | .pages _ e a :: _ => some (.pages, e.toNat, a)
  | _ => none

/-- The sieve is free: a stalled SIEVE starts, and the stall has lengthened its bundle. -/
def State.sieveFree (s : State) (cl : Nat) : State :=
  let q := s.seq cl
  match stalledSieve q.stalled with
  | none => s.setSeq cl { q with sieve := none }
  | some (f, e, a) =>
    let q := { q with sieve := none, stalled := [], dur := q.dur + (q.now - q.at_) }
    (s.setSeq cl q).startSieve cl f e a

/-- SIEVE_FREE: `adv` local cycles pass, but a stalled SIEVE waits no longer than the running one takes. -/
def execSieveFree (cl : Fin 4) (adv : Nat) (s : State) : Host.Outcome State Fault Refusal :=
  let q := s.seq cl.val
  match q.sieve with
  | none => .next (s.addCycles cl.val adv)
  | some v =>
    let t := if q.stalled.isEmpty then q.now + adv else min (q.now + adv) (max q.now v.until_)
    let s := s.toCycle cl.val t
    if v.until_ ≤ t then .next (s.sieveFree cl.val) else .next s

end Sys2Proof.Machine
end

