-- ==== Sys2Proof/Machine/ArmCheck.lean ====
section
/-! DEFINITION. The checks that a reel passes at load, at staging and at arm (R19, R51, R52, R59, R149, R156 to R159, R186, R202,
R225, R256, R270, R301, R312, R333, R350 to R358, R376, R387, R404). -/

namespace Sys2Proof.Machine

/-- The first failure of a list of checks: each answers the failing item. -/
def firstFail : List (Nat × Option Nat) → Option (Nat × Nat)
  | [] => none
  | (code, some item) :: _ => some (code, item)
  | (_, none) :: cs => firstFail cs

/-- A check without an item. -/
def failIf (b : Bool) : Option Nat := if b then some 0 else none

/-! ## Loading (R350 to R353, R270, R387) -/

/-- Whether the directory describes sections within the reel that do not overlap. -/
def Reel.layoutOk (r : Reel) : Bool :=
  r.dir.all (fun e => decide (e.offset + e.length ≤ r.size)) && apart r.dir
where
  /-- Whether the sections of a list lie apart. -/
  apart : List DirEntry → Bool
  | [] => true
  | e :: es => es.all (fun f => !overlaps e.offset e.length f.offset f.length) && apart es

/-- Whether every section that the loader verifies has its digest. -/
def Reel.digestsOk (r : Reel) (rank : Option Nat) : Bool :=
  r.dir.all fun e => if e.rank = 0xFFFF ∨ some e.rank = rank then e.digestOk else true

/-- The member rank of this device in a reel. -/
def State.memberRank (s : State) (r : Reel) : Option Nat := (r.member s.deviceId).map (·.rank)

/-- Whether a reel verifies: header and directory signed, sections intact. -/
def State.reelVerifies (s : State) (r : Reel) : Bool := r.layoutOk && s.accepts r.sig 1 && r.digestsOk (s.memberRank r)

/-- Whether the reel has a section of a reserved type. -/
def Reel.typesOk (r : Reel) : Bool := r.dir.all fun e => decide (1 ≤ e.type) && decide (e.type ≤ 0x10)

/-- Whether the reel runs on this device's grade (R352). -/
def State.gradeFits (s : State) (r : Reel) : Bool := decide (r.grid ≤ s.vcores) && decide (r.planf ≤ s.planf)

/-- Whether the grid fits the good slots (R353). -/
def State.gridFits (s : State) (r : Reel) : Bool := (upFrom 0 4).all fun cl => decide (r.grid ≤ (s.goodSlots cl).length)

/-- The serving area: two images, the outcome table and the page tables (R234, R243). -/
def Reel.servingArea (r : Reel) : Nat × Nat := (r.serving.area, 0x10000000 + 32768 * 32768)

/-- The frame pool. -/
def Reel.pool (r : Reel) : Nat × Nat := (r.serving.poolBase, r.serving.poolPages * r.serving.poolStride * 32)

/-- Whether the reel's serving engine is used. -/
def Reel.serves (r : Reel) : Bool := !r.shapePlan

/-- Whether the device's own chunks keep R270. -/
def State.chunksOk (s : State) (r : Reel) : Bool :=
  let cs := s.chunksIn r
  cs.all (fun c => decide (c.len % 32 = 0) && decide (32 ≤ c.len) && decide (c.len ≤ 4194304) && decide (c.dest + c.len ≤ hbmSize) &&
    (r.manifest.targets.any fun t => decide (t.1 = c.target)) &&
    !(r.serves && overlaps c.dest c.len r.servingArea.1 r.servingArea.2)) && apart cs
where
  /-- Whether the chunks of a list lie apart. -/
  apart : List Chunk → Bool
  | [] => true
  | c :: cs => cs.all (fun d => !overlaps c.dest c.len d.dest d.len) && apart cs

/-- Whether a chunk, the serving area or the frame pool meets a retired range (R387). -/
def State.meetsRetired (s : State) (r : Reel) : Bool :=
  (s.chunksIn r).any (fun c => s.isRetired c.dest c.len) ||
  (r.serves && (s.isRetired r.servingArea.1 r.servingArea.2 || s.isRetired r.pool.1 r.pool.2))

/-- Why LOAD refuses a reel: a DETAIL, or one that the spec does not give (R352, R270). -/
def State.loadRefused (s : State) (r : Reel) : Option (Option Nat) :=
  if !s.reelVerifies r then some (some 0x20)
  else if (r.member s.deviceId).isNone then some (some 0x21)
  else if !r.typesOk then some (some 0x22)
  else if r.format ≠ 1 ∨ s.gradeFits r = false then some none
  else if !s.gridFits r then some (some 0x23)
  else if !s.chunksOk r then some none
  else if s.meetsRetired r then some (some 0x28)
  else none

/-! ## Regions, descriptors, landing stages (0x05) -/

/-- A region word: KIND, BASE and LEN in units of 4 KiB. -/
def regionOf (w : Word) : Nat × Nat × Nat := (bitsOf 31 30 w.toNat, bitsOf 25 13 w.toNat, bitsOf 12 0 w.toNat)

/-- The first region that overlaps a later one or runs beyond the scratchpad. -/
def badRegion : Nat → List (Nat × Nat × Nat) → Option Nat
  | _, [] => none
  | i, r :: rs =>
    if r.1 ≠ 0 ∧ (spadSize / 4096 < r.2.1 + r.2.2 ∨ (rs.any fun q => decide (q.1 ≠ 0) && overlaps r.2.1 r.2.2 q.2.1 q.2.2) = true) then some i
    else badRegion (i + 1) rs

/-- A label entry of a reel's injection table. -/
def Reel.injection (r : Reel) (i : Nat) : Nat := (mapGet (fun _ => (0 : DWord)) r.labels i).toNat

/-- Whether a route names an injection entry that sends. -/
def Reel.routeSends (r : Reel) (i : Nat) : Bool := decide (i ≠ 0xFF) && labelSends (r.injection i)

/-- Whether a core image's descriptor keeps Tables 05.10 and 05.11, R156 and R157: KIND 0x2 names another core than the image's, and a
kind whose destination is a core of this device names one of the reel's grid. -/
def State.descOk (s : State) (r : Reel) (core : Nat) (b : BitVec 256) : Bool :=
  let d := descOf b
  let own := decide (d.ddev = s.deviceId)
  decide (d.kind ≤ 7) && decide (bitsOf 250 248 b.toNat = 0) && decide (bitsOf 234 232 b.toNat = 0) && decide (d.len % 32 = 0) &&
  decide (32 ≤ d.len) && decide (d.len ≤ 16777184) && decide (1 ≤ d.rows) &&
  XferArgs.fits { d := d, sa := d.saddr, da := d.daddr, p := 0, poison := false } &&
  (if d.kind = 3 then !own && r.routeSends d.route
   else if d.kind = 7 then own || r.routeSends d.route || decide (d.route = 0xFF)
   else own) &&
  (d.kind != 2 || decide (d.dcore ≠ core)) && (!(d.kind == 2 || (d.kind == 7 && own)) || decide (d.dcore % 16 < r.grid))

/-- The failing region or descriptor of the image of one core. -/
def State.badImage (s : State) (r : Reel) (c : Nat × CoreImage) : Option Nat :=
  match badRegion 0 (c.2.regions.map regionOf) with
  | some i => some i
  | none => (c.2.descs.find? fun d => !s.descOk r c.1 d.2).map (·.1)

/-- 0x05: the first invalid region, descriptor or declared landing-stage peak. -/
def State.check05 (s : State) (r : Reel) : Option Nat :=
  match r.cores.findSome? fun c => s.badImage r c with
  | some i => some i
  | none => (r.landPeaks.find? fun p => decide (512 < p.2.1) || decide (2 ^ 21 < p.2.2)).map (·.1)

/-! ## Sieve and reduction tables (0x06) -/

/-- The functions of SIEVE by FUNC. -/
def sieveFunc (n : Nat) : SieveFunc := [SieveFunc.topk, .send, .dispatch, .pages].getD n .topk

/-- The sieve entries that the bundles of a cluster use, with their functions (Table 07.2). -/
def ClusterImage.sieves (c : ClusterImage) : List (Nat × SieveFunc) :=
  c.bundles.filterMap fun b =>
    if headKind b ≠ 2 ∧ bitsOf 511 504 b.toNat = 8 then some (bitsOf 497 490 b.toNat, sieveFunc (bitsOf 499 498 b.toNat)) else none

/-- The map of an entry on a core, where it lies wholly within one resident region of the reel. -/
def State.residentMap (s : State) (r : Reel) (key : Nat) (e : SieveEntry) : Option (List Nat) :=
  let regions := (r.coreImage (16 * (key / 16) + s.vcoreOf key)).regions.map regionOf
  if regions.any fun g => decide (g.1 = 1) && decide (4096 * g.2.1 ≤ e.map) && decide (e.map + 2 * e.e ≤ 4096 * (g.2.1 + g.2.2)) then
    some ((upFrom 0 e.e).map fun j => ofBytes (memRead s.spad (spadAddr key (e.map + 2 * j)) 2))
  else none

/-- Whether the map of an entry keeps R202: ranks below NSRC; for DISPATCH at most 4 experts of the entry on a core. -/
def SieveEntry.mapOk (e : SieveEntry) (f : SieveFunc) (m : List Nat) : Bool :=
  m.all (fun w => decide (mapRank w < e.nsrc)) &&
  (f != .dispatch || m.all fun w => decide ((m.filter fun v => decide (mapRank v = mapRank w ∧ mapCore v = mapCore w)).length ≤ 4))

/-- Whether the entry's areas and its resident map keep R202 on a core. The capacity lists of DISPATCH are as many as the map gives the
core; a map that is not resident is checked as the function reads it, and until then counts as giving the core none (log 118). -/
def State.sieveFits (s : State) (r : Reel) (e : SieveEntry) (f : SieveFunc) (key : Nat) : Bool :=
  let m := if f == .send || f == .dispatch then s.residentMap r key e else none
  (e.areas (e.hosted (m.getD []) (s.dcoreOf key)) f).all (fun a => decide (a.1 + a.2 ≤ spadSize)) && ((m.map (e.mapOk f)).getD true)

/-- Whether a sieve entry in use keeps the checks of its function. -/
def State.sieveOk (s : State) (r : Reel) (cl : Nat) (e : SieveEntry) (f : SieveFunc) : Bool :=
  (s.coresOf cl).all (s.sieveFits r e f) &&
  (!(f == .topk || f == .send) || decide (e.k ≤ e.e)) &&
  (f != .dispatch || (decide ((e.c + e.o) % 32 = 0) && decide (32 ≤ e.c + e.o) && decide (e.c + e.o ≤ 4096))) &&
  (f != .pages || decide (e.sink + e.recent ≤ e.budget)) &&
  (!(f == .send || f == .dispatch) || decide (e.rank < e.nsrc))

/-- A sieve entry of a reel. -/
def Reel.sieveEntry (r : Reel) (cl i : Nat) : SieveEntry :=
  sieveEntryOf (((r.sieve.find? fun p => decide (p.1 = 256 * cl + i)).map (·.2)).getD 0)

/-- 0x06: the first invalid sieve entry or reduction group. -/
def State.check06 (s : State) (r : Reel) : Option Nat :=
  match r.clusters.findSome? fun c => (c.2.sieves.find? fun u => !s.sieveOk r c.1 (r.sieveEntry c.1 u.1) u.2).map (·.1) with
  | some i => some i
  | none => (r.groups.find? fun g => decide (256 ≤ g.1) || decide (8 ≤ g.2.rop) || g.2.members.isEmpty).map (·.1)

/-! ## Links (0x07, 0x08) -/

/-- The label entries of a reel that send, as their links. -/
def Reel.routeLinks (r : Reel) : List Nat := (r.labels.filter fun e => labelSends e.2.toNat).map fun e => labelOut e.2.toNat

/-- The links that the alternates' entries for a device send on. -/
def Reel.alternateLinks (r : Reel) (dev : Nat) : List Nat :=
  r.alternates.flatMap fun a =>
    (a.entries.filter fun e => decide (e.device = dev) && labelSends e.entry.toNat).map fun e => labelOut e.entry.toNat

/-- The alternate of a link in a reel, named by the link's end with the lower device ID. -/
def State.alternateIn (s : State) (r : Reel) (l : Nat) : Bool := r.alternates.any fun a => s.names a l

/-- Whether the reel names a link: in a route, in an alternate, or as in use. -/
def State.linkNamed (s : State) (r : Reel) (l : Nat) : Bool :=
  r.routeLinks.contains l || (r.alternateLinks s.deviceId).contains l || s.alternateIn r l ||
  (match r.linkPlan l with
   | some p => p.inUse
   | none => false)

/-- LANESMIN of a link in a reel. -/
def Reel.lanesMin (r : Reel) (l : Nat) : Nat :=
  match r.linkPlan l with
  | some p => p.lanesMin
  | none => 4

/-- The largest VC2 peak that LANESMIN and leeway admit (R312). -/
def LinkPlan.vc2Limit (p : LinkPlan) : Nat := linkSlots p.lanesMin * (32 / 2 ^ p.leeway - 1) / (32 / 2 ^ p.leeway)

/-- Whether a link that the reel names fails Table 12.10's check 0x07. -/
def State.linkUnfit (s : State) (r : Reel) (l : Nat) : Bool :=
  decide (s.linkState l ≠ stateUp) || !s.matched l || decide (s.fget (Reg.LK_STATUS_LANES l) < r.lanesMin l) ||
  decide (2400 < s.linkRtt l) ||
  (match r.linkPlan l with
   | some p => decide (p.vc2Limit < p.vc2max)
   | none => false)

/-- 0x07: the first unfit link. -/
def State.check07 (s : State) (r : Reel) : Option Nat := (upFrom 0 64).find? fun l => s.linkNamed r l && s.linkUnfit r l

/-- Whether a link is a torus link (Table 11.1). -/
def torusLink (l : Nat) : Bool := (decide (16 ≤ l) && decide (l ≤ 30)) || (decide (48 ≤ l) && decide (l ≤ 62))

/-- Whether a coordinate lies in a slice along one axis (R333). -/
def inSlice (x o d e : Nat) : Bool := decide (((x : Int) - o) % d < e)

/-- Whether this rack lies in the reel's slice. -/
def State.rackInSlice (s : State) (r : Reel) : Bool :=
  match s.manage.sheet with
  | none => false
  | some c =>
    inSlice c.coords.1 r.sliceOrigin.1 c.dims.1 r.sliceExtent.1 && inSlice c.coords.2.1 r.sliceOrigin.2.1 c.dims.2.1 r.sliceExtent.2.1 &&
    inSlice c.coords.2.2 r.sliceOrigin.2.2 c.dims.2.2 r.sliceExtent.2.2

/-- Whether a link's partner is a member of the take. -/
def State.partnerMember (s : State) (r : Reel) (l : Nat) : Bool := (r.member (s.fget (Reg.LK_PARTNER_ID_DEVICE l))).isSome

/-- Whether an alternate's entries name devices at the two ends of its link only, as far as one end knows them (R368): its own and its
partner's ID for a link of this device, and no entry of this device for another link; whatever the link, the end that names it and at
most one other device. -/
def State.altEnds (s : State) (a : Alternate) : Bool :=
  let others := ((a.entries.map (·.device)).filter fun d => decide (d ≠ a.dev)).eraseDups
  let mine := (upFrom 0 64).filter (s.names a)
  decide (others.length ≤ 1) &&
  a.entries.all fun e =>
    if mine.isEmpty then decide (e.device ≠ s.deviceId)
    else mine.all fun l => decide (e.device = s.deviceId) || decide (e.device = s.fget (Reg.LK_PARTNER_ID_DEVICE l))

/-- 0x08: slice, block range, membership, coverage by alternates (R333) and their ends (R368); in the bench position only takes of this
device arm (R316). -/
def State.check08 (s : State) (r : Reel) : Option Nat :=
  let links := r.routeLinks ++ r.alternateLinks s.deviceId
  if s.manage.straps.role = 2 ∧ r.ndev ≠ 1 then some 0
  else if !s.rackInSlice r then some 0
  else if r.members.any fun m => decide (m.device < s.manage.blockLo) || decide (s.manage.blockHi < m.device) then some 0
  else
    match (upFrom 0 64).find? fun l => links.contains l && torusLink l && !s.partnerMember r l with
    | some l => some l
    | none =>
      match (upFrom 0 64).find? fun l => links.contains l && !s.alternateIn r l with
      | some l => some l
      | none => (r.alternates.find? fun a => !s.altEnds a).map (·.link)

/-! ## Travel, D and M (0x09, 0x0A) -/

/-- A shortfall: link, KIND of TB_ARM_CHECK, ticks. -/
abbrev Short := Nat × Nat × Nat

/-- The shortfall of an assumption. -/
def shortOf (link kind assumed actual : Nat) : Option Short := if assumed < actual then some (link, kind, actual - assumed) else none

/-- The ticks that a declared marker path takes. -/
def State.markerTravel (s : State) (r : Reel) (m : Nat × List Nat × Nat) : Nat :=
  (m.2.1.map fun l => s.linkTravel l (r.lanesMin l)).sum + m.2.2

/-- The first travel assumption that is short (R51): links, on-device paths, marker paths. -/
def State.travelShort (s : State) (r : Reel) : Option Short :=
  match r.travel.links.findSome? fun a => shortOf a.1 0 a.2 (s.linkTravel a.1 (r.lanesMin a.1)) with
  | some x => some x
  | none =>
    match r.travel.paths.findSome? fun a => shortOf 0 1 a.2 (travelDev s.manage.grade a.1) with
    | some x => some x
    | none => r.travel.markers.findSome? fun m => shortOf (m.2.1.headD 0) 0 m.1 (s.markerTravel r m)

/-- Tolerance and pairwise difference of the take's scope (Table 02.1). -/
def Reel.tolerance (r : Reel) (dev : Nat) : Nat × Nat :=
  if r.members.all fun m => decide (m.device = dev) then (1, 2)
  else if r.members.all fun m => decide (m.device / 64 = dev / 64) then (3, 6)
  else (12, 24)

/-- The shortfall of M or D (R52). -/
def State.marginShort (s : State) (r : Reel) : Option Short :=
  match shortOf 0 3 r.tree.margin (2 * (r.tolerance s.deviceId).1 + 32) with
  | some x => some x
  | none => r.travel.markers.findSome? fun m => shortOf 0 2 r.tree.diam (s.markerTravel r m)

/-- Whether D + M is too large (R59). -/
def State.horizonLong (s : State) (r : Reel) : Bool := decide (12288 ≤ r.tree.diam + r.tree.margin + (r.tolerance s.deviceId).2)

/-! ## Serving, HBM, time, energy, replay pause (0x0B to 0x0F) -/

/-- 0x0B: READY and SETTLE leave too little time, or the pool differs (R225, R245). -/
def State.check0B (s : State) (r : Reel) : Bool :=
  let v := r.serving
  let n := v.shapes.foldl (fun n x => max n x.d) 0
  decide (v.ready * 4096 < r.tree.diam + r.tree.margin) ||
  (r.serves && (decide ((v.settle - v.ready) * 4096 < 256 + 32 * (n + 1) + 1024 + 4 * v.maxent + 16 * (n + 1)) ||
    decide (s.fget Reg.SV_POOL_PAGES_PAGES ≠ v.poolPages)))

/-- 0x0C: the first stack whose declared peak exceeds SCHEDMAX, which is at most 2,500 (R256). -/
def State.check0C (s : State) (r : Reel) : Option Nat :=
  (upFrom 0 8).find? fun i => decide (min 2500 (s.fget (Reg.HM_SCHED_SCHEDMAX i)) < r.hbmPeaks.getD i 0)

/-- 0x0D: not aligned, or the tree's parent link not UP. -/
def State.check0D (s : State) (r : Reel) : Option Nat :=
  if s.flag Reg.TB_STATUS_UNALIGNED then some 0
  else
    match r.tree.plink with
    | some l => if s.linkState l = stateUp then none else some l
    | none => none

/-- 0x0E: the energy budget exceeds the power limit (R404). -/
def State.check0E (s : State) (r : Reel) : Bool :=
  decide (512 * s.fget Reg.PW_LIMIT_WATTS < ceilDiv (r.epeak * s.fget Reg.PW_CONV_CONV) 1024)

/-- 0x0F: the replay pause is too short (R376). -/
def State.check0F (s : State) (r : Reel) : Bool :=
  decide (512 * s.fget Reg.FC_CFG_RPAUSE < 65536 + 4096 + r.tree.diam + r.tree.margin)

/-- Whether every scrub is done. -/
def State.allScrubbed (s : State) : Bool :=
  s.hbmScrubbed && (upFrom 0 4).all fun cl => (s.goodSlots cl).all fun p => s.flag (Reg.CL_SCRUB_DONE cl p)

/-- The checks of Table 12.10 that do not depend on the first cue or the cut, in the table's order. -/
def State.reelChecks (s : State) (r : Reel) : List (Nat × Option Nat) :=
  [(0x04, failIf (!s.shardVerified r)), (0x05, s.check05 r), (0x06, s.check06 r), (0x07, s.check07 r), (0x08, s.check08 r),
   (0x09, (s.travelShort r).map (·.1)), (0x0A, failIf ((s.marginShort r).isSome || s.horizonLong r)), (0x0B, failIf (s.check0B r)),
   (0x0C, s.check0C r), (0x0D, s.check0D r), (0x0E, failIf (s.check0E r)), (0x0F, failIf (s.check0F r))]

/-- The checks at arm: `first` is the first-cue wall tick. -/
def State.armChecks (s : State) (r : Reel) (first : Nat) : List (Nat × Option Nat) :=
  [(0x01, failIf (!s.allScrubbed)), (0x02, failIf (!s.hasPosition)),
   (0x03, failIf (decide (first % 4096 ≠ 0) || decide (first < s.wallNow + 1048576)))] ++ s.reelChecks r

/-- Show the outcome of an arm or a stage in HI_ARM and TB_ARM_CHECK. -/
def State.showArm (s : State) (r : Reel) (f : Option (Nat × Nat)) : State :=
  match f with
  | none => (((s.fsetb Reg.HI_ARM_FAIL false).fset Reg.HI_ARM_ITEM 0).fset Reg.HI_ARM_CODE 0).setReg Reg.TB_ARM_CHECK 0
  | some (code, item) =>
    let s := ((s.fsetb Reg.HI_ARM_FAIL true).fset Reg.HI_ARM_ITEM (item % 65536)).fset Reg.HI_ARM_CODE code
    let short := if code = 9 then s.travelShort r else if code = 10 then s.marginShort r else none
    match short with
    | none => s.setReg Reg.TB_ARM_CHECK 0
    | some (l, k, n) =>
      let s := (s.fsetb Reg.TB_ARM_CHECK_FAIL true).fset Reg.TB_ARM_CHECK_LINK l
      (s.fset Reg.TB_ARM_CHECK_KIND k).fset Reg.TB_ARM_CHECK_SHORT (min n 0xFFFF)

/-! ## Staging (R358) -/

/-- The regions of a core image that must agree: resident and carried, with resident contents. -/
def CoreImage.kept (c : CoreImage) : List (Nat × Nat × Nat) × List (Nat × List Byte) :=
  ((c.regions.map regionOf).filter fun r => decide (r.1 = 1) || decide (r.1 = 2), c.resident)

/-- Whether two reels declare the same serving area, context ranges and meter ranges. -/
def sameServing (a b : ServSection) : Bool :=
  decide (a.area = b.area) && decide (a.ctxLo = b.ctxLo) && decide (a.ctxHi = b.ctxHi) && decide (a.meterLo = b.meterLo) &&
  decide (a.meterHi = b.meterHi)

/-- Whether a reel may be staged beside the active one (R352, R358). -/
def State.stageable (s : State) (old new : Reel) : Bool :=
  decide (new.take ≠ old.take) && decide (new.baseTag = old.baseTag) &&
  ((upFrom 0 4).all fun cl => (upFrom 0 10).all fun v =>
    decide ((new.coreImage (16 * cl + v)).kept = (old.coreImage (16 * cl + v)).kept)) &&
  sameServing old.serving new.serving && s.gradeFits new && decide (new.grid ≤ old.grid) &&
  ((new.member s.deviceId).isNone || s.shardVerified new)

end Sys2Proof.Machine
end

