-- ==== Sys2Proof/Machine/Orders.lean ====
section
/-! DEFINITION. The orders that load, arm, drain, exchange and serve, and those of position and call sheet (R34, R153, R266, R321,
R336, R342 to R362, R387, R404). -/

namespace Sys2Proof.Machine

/-! ## LOAD and STAGE (R350 to R354, R358) -/

/-- Refuse an order with a DETAIL, or with one that the spec does not give. -/
def State.refuse (s : State) (opcode : Nat) (o : Order) (detail : Option Nat) : State :=
  match detail with
  | some d => s.done opcode o (.plain .refused d)
  | none => s.refuseFree opcode o .refused

/-- Log event 0x84: 1 loaded, 2 staged, 3 armed, 4 exchanged. -/
def State.logReel (s : State) (what tag : Nat) : State := s.logEvent 0x84 0 0 0 (what * 2 ^ 28 + tag)

/-- An UNLOAD or a new LOAD ends an admission that did not join (R391); an ADMIT under way is cancelled. -/
def State.endAdmission (s : State) : State :=
  let s := s.finishOp 0x13 (.plain .cancelled 0)
  if s.faults.admission = .joined then s else { s with faults.admission := .idle, faults.admitPartial := false }

/-- Write a reel into the active banks of a device that holds none. -/
def State.loadReel (s : State) (r : Reel) : State :=
  let s := { (s.mapGrid r.grid).loadBanks r with carriedOk := none }
  let s := s.mappedCores.foldl (fun (s : State) key => s.loadResident r key) s
  { s.setDev .loaded with written := [], take.staged := none }.endAdmission.logReel 1 r.take

/-- LOAD. -/
def execLoad (o : Order) (r : Reel) (s : State) : Host.Outcome State Fault Refusal :=
  .next (s.receive o 0x01 (fun s => decide (s.dev = .ready)) fun s =>
    if s.screening then s.done 0x01 o (.plain .busy 0)
    else
      match s.loadRefused r with
      | some d => s.refuse 0x01 o d
      | none => (s.loadReel r).done 0x01 o (.plain .ok 0))

/-- Why a STAGE is refused before the arm checks; a reel that omits this device is admitted (R361). -/
def State.stageRefused (s : State) (old new : Reel) : Option (Option Nat) :=
  if !s.reelVerifies new then some (some 0x20)
  else if !new.typesOk then some (some 0x22)
  else if new.format ≠ 1 then some none
  else if !s.stageable old new then some (some 0x24)
  else if (new.member s.deviceId).isSome && s.meetsRetired new then some (some 0x28)
  else none

/-- The arm checks of a staged reel: those that do not depend on the cut; a departing device has none. -/
def State.stageChecks (s : State) (new : Reel) : Option (Nat × Nat) :=
  if (new.member s.deviceId).isNone then none else firstFail (s.reelChecks new)

/-- Stage a reel in the inactive banks. -/
def State.stageReel (s : State) (r : Reel) : State :=
  ({ s with take.staged := some r }.showHash Reg.HI_STAGE_HASH r.hash).logReel 2 r.take

/-- The effect of STAGE. -/
def State.stage (s : State) (o : Order) (old new : Reel) : State :=
  match s.stageRefused old new with
  | some d => s.refuse 0x01 o d
  | none =>
    match s.stageChecks new with
    | some f => (s.showArm new (some f)).done 0x01 o (.plain .refused f.1)
    | none => (s.stageReel new).done 0x01 o (.plain .ok 0)

/-- STAGE: LOAD with ARG0 bit 0, in RUNNING; while an exchange is pending the inactive banks are in use. -/
def execStage (o : Order) (r : Reel) (s : State) : Host.Outcome State Fault Refusal :=
  .next (s.receive o 0x01 (fun s => decide (s.dev = .running)) fun s =>
    if s.take.exchange.isSome then s.done 0x01 o (.plain .busy 0)
    else
      match s.take.active with
      | some old => s.stage o old r
      | none => s.done 0x01 o (.plain .state 0))

/-! ## UNLOAD (R153, R266, R274) -/

/-- Every good core. -/
def State.goodCores (s : State) : List Nat := (upFrom 0 4).flatMap fun cl => (s.goodSlots cl).map fun p => 16 * cl + p

/-- Start the scrubs of an unload. -/
def State.startUnload (s : State) (o : Order) : State :=
  let s := s.stopFetch.unverify
  let s := s.goodCores.foldl (fun (s : State) key => s.scrubCoreStart key) s
  let s := (upFrom 0 8).foldl (fun (s : State) i => s.scrubStackStart i) s
  s.endAdmission.background 0x02 o

/-- UNLOAD: completes when the scrubs end. -/
def execUnload (o : Order) (s : State) : Host.Outcome State Fault Refusal :=
  .next (s.receive o 0x02 (fun s => decide (s.dev = .loaded)) fun s =>
    if (s.running? 0x02).isSome then s.done 0x02 o (.plain .busy 0) else s.startUnload o)

/-- The end of an unload, once every scrub is done. -/
def State.unloaded (s : State) : State :=
  if (s.running? 0x02).isSome ∧ s.allScrubbed = true then
    let s := { s.unmapGrid with take.active := none, take.staged := none }
    (s.setDev .ready).finishOp 0x02 (.plain .ok 0)
  else s

/-- SCRUB_COMPLETE: of a core, or of a stack. -/
def execScrubComplete (core : Option CoreId) (stack : Fin 8) (s : State) : Host.Outcome State Fault Refusal :=
  .next (match core with
    | some c => (s.scrubCoreDone c.key).unloaded
    | none => (s.scrubStackDone stack.val).unloaded)

/-! ## ARM (R34, R355 to R357) -/

/-- The cores' registers that an arm clears: sticky flags, carried phase. -/
def State.armCores (s : State) : State :=
  s.mappedCores.foldl (fun (s : State) key =>
    (s.setReg (Reg.CL_FLAGS (key / 16) (key % 16)) 0).fsetb (Reg.CL_CARRY_PHASE (key / 16) (key % 16)) false) s

/-- The sequencers at an arm: no halt, no SSEL. -/
def State.armSeqs (s : State) : State :=
  (upFrom 0 4).foldl (fun (s : State) cl => (s.clearHalt cl).fsetb (Reg.CL_SEQ_SSEL_VALID cl) false)
    { s with seqs := [], take.ssel := none, take.sselLate := none }

/-- The serving engine at an arm: contexts free, meters empty, free lists in ascending frame order, page tables empty; orders
that wait stay. -/
def State.armServing (s : State) (r : Reel) : State :=
  let n := s.fget Reg.SV_POOL_PAGES_PAGES
  let waiting := s.serve.orders.map fun o => { o with rcvd := none }
  let v : Serve := { Serve.initial with orders := waiting, freeList := upFrom 0 n, mirrorFree := upFrom n n }
  let s : State := { s with serve := v }
  let s := if r.serves then s.unitsClear ((r.serving.area + 0x10000000) / 32) (32768 * 1024) else s
  s.fset Reg.SV_POOL_FREE_FREE n

/-- The serving engine of an admitted device: the contexts it copied are its own; the list of those lost goes to the lead. -/
def State.joinServing (s : State) (r : Reel) : State :=
  let lost := s.serve.lostCtxs
  let s := s.fset Reg.SV_POOL_FREE_FREE s.serve.freeList.length
  if lost.isEmpty || decide (r.leadDev = s.deviceId) then s
  else { s with serve.lostCtxs := [] }.emit (.lostList r.leadDev lost)

/-- The trigger inputs at an arm: a latch that is set keeps its edge, captured as of now in the new plan time. -/
def State.armTrigs (s : State) : State :=
  (upFrom 0 4).foldl (fun (s : State) n =>
    s.setTrig n { s.trig n with cap := s.planNow, vis := none, clear := none, atCut := none, atCutVis := none }) s

/-- The take's own state at an arm. -/
def State.armTake (s : State) (o : Order) (r : Reel) (join : Option (Nat × Int)) : State :=
  let t := { s.take with staged := none, labels := r.labels, altLive := [], altPending := [], altDone := [], sched := [], drainAt := none,
                         exchange := none, members := false, joined := join.isSome,
                         firstDone := false, pauseTo := none, armSeq := o.seq, armTag := o.tag }
  let s : State := { s with take := t, links := mapAll (fun _ => Link.initial) (fun k => { k with failedInTake := false }) s.links }
  let s := (s.fsetb Reg.FC_STATUS_ALTINST false).fset Reg.FC_STATUS_REPLAYS 0
  (s.fset Reg.SV_CUTS_CUTS ((join.map (·.1)).getD 0)).fsetb Reg.SV_MIRROR_STAT_BROKEN false

/-- Plan time at an arm runs from the new plan offset. -/
def State.armTime (s : State) (offset : DWord) : State :=
  let t := { s.time with offset := offset, frozen := none, gates := [], held := 0, hold := none, stop := none }
  { s with time := t }

/-- A recorded stream that waits for the arm takes the place of the take's inputs (R434). -/
def State.armReplay (s : State) : State :=
  if s.log.replayArmed then { s with log.replayArmed := false }.fset Reg.CN_REC_STATE (if s.log.stream.isEmpty then 3 else 2) else s

/-- The shape that the first step has; which is a free choice. -/
def State.armShape (s : State) (r : Reel) (join : Bool) : Nat × State :=
  if join then
    let (n, s) := s.draw
    ((Config.freeWord n).toNat % max 1 r.nshape, s)
  else (Config.firstShape r.take % max 1 r.nshape, s)

/-- Whether an arm joins after an admission. -/
def State.admitted (s : State) (join : Bool) : Bool :=
  join && (decide (s.faults.admission = .complete) || decide (s.faults.admission = .incomplete))

/-- Every check passed: the device is armed, plan time `tick` at the joining cut or 0 at the first cue at wall tick `first`. -/
def State.armed (s : State) (o : Order) (r : Reel) (first : DWord) (join : Option (Nat × Int)) : State :=
  let tick := (join.map (·.2)).getD 0
  let adm := s.admitted join.isSome
  let s := (((s.showArm r none).loadControl r).fset Reg.PW_BUDGET_VALUE r.epeak).armCores.armSeqs.emptyLandings
  let s := ((s.armTake o r join).armTime (first - BitVec.ofInt 64 tick)).armTrigs
  let s := if adm then { s with faults.admission := .joined }.joinServing r else s.armServing r
  let (shape, s) := s.armShape r join.isSome
  (((s.beginStep shape tick).armReplay).setDev .armed).logReel 3 r.take

/-- The effect of ARM: the checks in the order of Table 12.10. A device that is not LOADED fails the first. -/
def State.arm (s : State) (o : Order) (first : DWord) (join : Option (Nat × Int)) : State :=
  if (s.running? 0x13).isSome then s.done 0x04 o (.plain .busy 0)
  else
  match s.take.active with
  | none => (((s.fsetb Reg.HI_ARM_FAIL true).fset Reg.HI_ARM_ITEM 0).fset Reg.HI_ARM_CODE 1).done 0x04 o (.plain .refused 0x01)
  | some r =>
    match firstFail ((0x01, failIf (decide (s.dev ≠ .loaded))) :: s.armChecks r first.toNat) with
    | some f => (s.showArm r (some f)).done 0x04 o (.plain .refused f.1)
    | none => (s.armed o r first join).done 0x04 o (.plain .ok 0)

/-- ARM. -/
def execArm (o : Order) (firstCue : DWord) (s : State) : Host.Outcome State Fault Refusal :=
  .next (s.receive o 0x04 (fun _ => true) fun s => s.arm o firstCue none)

/-- ARM with JOIN: ARG1 [63:8] is the joining cut's index, ARG2 its plan tick; ARG1 without bit 0 is a plain ARM, and other low
bits are reserved. An ARG2 that is no gate is taken as it is, and the cuts that follow lie off the gates of R21 (DESIGN CHOICE, log
122: no rule checks it). -/
def execArmJoin (o : Order) (arg0 arg1 arg2 : DWord) (s : State) : Host.Outcome State Fault Refusal :=
  .next (s.receive o 0x04 (fun _ => true) fun s =>
    if bitsOf 7 1 arg1.toNat ≠ 0 then s.done 0x04 o (.plain .malformed 0)
    else if bitOf arg1.toNat 0 then s.arm o arg0 (some (bitsOf 63 8 arg1.toNat, arg2.toInt))
    else s.arm o arg0 none)

/-! ## DRAIN (R349) -/

/-- A drained device that had joined after an admission has the admission's state again. -/
def State.unjoin (s : State) : State :=
  if s.faults.admission = .joined then
    { s with faults.admission := if s.faults.admitPartial then .incomplete else .complete }
  else s

/-- The next cut whose settle has not begun. -/
def State.nextOpenCut (s : State) : Nat :=
  let n := s.fget Reg.SV_CUTS_CUTS + 1
  if s.settleTick ≤ s.planNow ∨ s.serve.frozen.isSome = true then n + 1 else n

/-- The effect of DRAIN: ARMED and FENCED leave the take at once; else the take ends at a cut. -/
def State.drain (s : State) (o : Order) (cut : DWord) : State :=
  if s.dev = .armed ∨ s.dev = .fenced then ((s.finishOp 0x05 (.plain .ok 0)).leaveTake.unjoin).done 0x05 o (.plain .ok 0)
  else if cut ≠ 0 ∧ cut.toNat ≤ s.fget Reg.SV_CUTS_CUTS then s.done 0x05 o (.plain .state 0)
  else
    let k := if cut = 0 then s.nextOpenCut else cut.toNat
    ({ s with take.drainAt := some k }.setDev .draining).background 0x05 o

/-- Where DRAIN is accepted (Tables 12.6 and 12.7). -/
def State.drainAdmits (s : State) : Bool := s.dev.intake || decide (s.dev = .fenced)

/-- DRAIN. -/
def execDrain (o : Order) (cut : DWord) (s : State) : Host.Outcome State Fault Refusal :=
  .next (s.receive o 0x05 (·.drainAdmits) fun s => s.drain o cut)

/-! ## EXCHANGE (R359) -/

/-- Where EXCHANGE is accepted: RUNNING and HOLDING, outside replays. -/
def State.exchangeAdmits (s : State) : Bool := (decide (s.dev = .running) || decide (s.dev = .holding)) && decide (s.recState < 2)

/-- K = 0: the pending exchange completes CANCELLED. -/
def State.cancelExchange (s : State) (o : Order) : State :=
  let s := if s.take.exchange.isSome then s.recordInput 6 s.planNow [0, 0] [] [] else s
  ((s.finishOp 0x06 (.plain .cancelled 0)).dropExchange).done 0x06 o (.plain .ok 0)

/-- The effect of EXCHANGE with a cut. -/
def State.exchange (s : State) (o : Order) (k tj : DWord) : State :=
  if s.take.exchange.isSome then s.done 0x06 o (.plain .busy 0)
  else if s.take.staged.isNone = true ∨ k.toNat < s.fget Reg.SV_CUTS_CUTS + 2 then s.done 0x06 o (.plain .state 0)
  else if tj.toNat % 4096 ≠ 0 then s.done 0x06 o (.plain .malformed 0)
  else ((s.recordInput 6 s.planNow [k, tj] [] []).setExchange k.toNat tj.toNat).background 0x06 o

/-- EXCHANGE; K = 0 cancels. -/
def execExchange (o : Order) (k tj : DWord) (s : State) : Host.Outcome State Fault Refusal :=
  .next (s.receive o 0x06 (·.exchangeAdmits) fun s => if k = 0 then s.cancelExchange o else s.exchange o k tj)

/-- EXCHANGE_CANCEL: EXCHANGE with K = 0. -/
def execExchangeCancel (o : Order) (s : State) : Host.Outcome State Fault Refusal :=
  .next (s.receive o 0x06 (·.exchangeAdmits) fun s => s.cancelExchange o)

/-! ## SERVE (R218, R222, R223) -/

/-- Where SERVE is accepted: any state but OFF, BOOT and FAILED, outside replays. -/
def State.serveAdmits (s : State) : Bool := decide (2 ≤ s.dev.code) && decide (s.dev ≠ .failed) && decide (s.recState < 2)

/-- The lead keeps the entries for a settle. -/
def State.takeOrder (s : State) (o : Order) (es : List StepEntry) : State :=
  let q : ServeOrder :=
    { seq := o.seq, tag := o.tag, rcvd := if s.dev.inTake then some s.planNow else none, entries := es, fromEntry := 0, codes := [] }
  { s with serve.orders := s.serve.orders ++ [q] }.background 0x07 o

/-- A device that is not the lead rejects every entry with code 0x6. -/
def State.rejectOrder (s : State) (o : Order) (es : List StepEntry) : State :=
  (s.bumpBy Reg.SV_REJECTED_COUNT es.length).done 0x07 o { status := .ok, detail := 0, result := 0, codes := es.map fun _ => 6 }

/-- The effect of SERVE: 1 to 64 entries. -/
def State.serveOrder (s : State) (o : Order) (es : List StepEntry) : State :=
  if es.length = 0 ∨ 64 < es.length then s.done 0x07 o (.plain .malformed 0)
  else if s.fget Reg.SV_CTRL_ROLE = 1 then s.takeOrder o es
  else s.rejectOrder o es

/-- SERVE. -/
def execServe (o : Order) (entries : List StepEntry) (s : State) : Host.Outcome State Fault Refusal :=
  .next (s.receive o 0x07 (·.serveAdmits) fun s => s.serveOrder o entries)

/-! ## CABLING and CALLSHEET (R321, R336) -/

/-- The partner's identity as a trained link keeps it. -/
def State.partnerOf (s : State) (l : Nat) : TrainBody :=
  { device := s.fget (Reg.LK_PARTNER_ID_DEVICE l), slot := s.fget (Reg.LK_PARTNER_POS_SLOT l),
    role := BitVec.ofNat 2 (s.fget (Reg.LK_PARTNER_POS_ROLE l)), link := s.fget (Reg.LK_PARTNER_ID_LINK l), grade := 0,
    lanes := BitVec.ofNat 4 (s.fget (Reg.LK_PARTNER_POS_LANECAP l)) }

/-- Check every trained link again. -/
def State.recheckLinks (s : State) : State :=
  (upFrom 0 64).foldl (fun (s : State) l =>
    if s.flag (Reg.LK_STATUS_PARTNER l) then s.cabling l (s.cablingResult l (s.partnerOf l)) else s) s

/-- Take over a cabling plan, a rack number and a block range. -/
def State.recable (s : State) (plan : List Word) (rack blockLo blockHi : Nat) : State :=
  let m := { s.manage with plan := plan, rack := rack, blockLo := blockLo, blockHi := blockHi }
  { s with manage := m }.showPlan.showSlots.recheckLinks

/-- CABLING: in READY and LOADED; a plan has one entry per link, and rack 4,095 does not exist (R316; DESIGN CHOICE, log 119). -/
def execCabling (o : Order) (plan : List Word) (rack blockLo blockHi : Nat) (s : State) : Host.Outcome State Fault Refusal :=
  .next (s.receive o 0x0C (fun s => decide (s.dev = .ready) || decide (s.dev = .loaded)) fun s =>
    if plan.length ≠ 64 ∨ 4094 < rack then s.done 0x0C o (.plain .malformed 0)
    else (s.recable plan rack blockLo blockHi).done 0x0C o (.plain .ok 0))

/-- Write a sheet into the copy that is not in use, its GENERATION one above the current one; flash holds its bytes. -/
def State.storeSheet (s : State) (payload : List Byte) : State :=
  let cur := s.chosenSheet
  let bytes := sheetBytes payload (((cur.map (·.generation)).getD 0) + 1)
  let c := { sheetOf bytes with crcOk := true }
  match s.manage.sheets with
  | [a, b] =>
    if cur.isSome && decide (a = cur) then { s with manage.sheets := [a, some c] }.emit (.flashWrite 0x3020000 bytes)
    else { s with manage.sheets := [some c, b] }.emit (.flashWrite 0x3010000 bytes)
  | _ => s

/-- CALLSHEET: any state but OFF and BOOT; in effect from the next boot. A payload that is no sheet of Table 12.2 is MALFORMED; the
device writes GENERATION and the CRC itself (DESIGN CHOICE, log 119). -/
def execCallsheet (o : Order) (payload : List Byte) (s : State) : Host.Outcome State Fault Refusal :=
  .next (s.receive o 0x0D (fun s => decide (s.dev ≠ .boot)) fun s =>
    if sheetFormed payload = false then s.done 0x0D o (.plain .malformed 0)
    else ((s.storeSheet payload).logEvent 0x8A 0 0 0 0x0D).done 0x0D o (.plain .ok 0))

/-- The entries of the retired list: base and length, 8 bytes each (R387). -/
def retiredBytes (rows : List (Nat × Nat)) : List Byte := rows.flatMap fun r => toBytes 8 r.1 ++ toBytes 8 r.2

/-- FITNESS: the retired list goes to host memory. -/
def execFitness (o : Order) (paddr : DWord) (s : State) : Host.Outcome State Fault Refusal :=
  .next (s.receive o 0x12 (fun _ => true) fun s => (s.hostPost paddr (retiredBytes s.manage.retired)).done 0x12 o (.plain .ok 0))

end Sys2Proof.Machine
end

