-- ==== Sys2Proof/Machine/Patrol.lean ====
section
/-! DEFINITION. The patrol and the poison write-backs of HBM (R255, R261, R263, R265). -/

namespace Sys2Proof.Machine

/-- Whether a stack's patrol runs: powered, a pass has a length, and no scrub is under way. -/
def State.patrols (s : State) (i : Nat) : Bool :=
  decide (s.dev ≠ .off) && decide (s.fget (Reg.HM_PATROL_PERIOD i) ≠ 0) && !s.flag (Reg.HM_SCRUB_BUSY i)

/-- Store a unit's data again with fresh check bits: as poison, or as it was. Not a write for R265. -/
def State.unitBack (s : State) (u : Nat) (poison : Bool) : State :=
  (s.setUnitMeta u { poison := (s.unitMeta u).poison || poison, check := .clean }).unitTouched u

/-- The write-back that the patrol's last read left, unless a write cancelled it. -/
def State.patrolBack (s : State) (i : Nat) : State :=
  match (s.stack i).found with
  | some (u, poison) => s.unitBack u poison
  | none => s

/-- The patrol goes on to the next unit; after the last one a pass is complete and the rows' counts start over. -/
def State.patrolOn (s : State) (i : Nat) : State :=
  let k := s.stack i
  if k.patrol + 1 < 2 ^ 31 then s.setStack i { k with patrol := k.patrol + 1 }
  else (s.setStack i { k with patrol := 0, ceRows := [] }).bump (Reg.HM_PATROL_PASSES i)

/-- The patrol reads one unit: an error is counted, reported and left for the write-back. A retired row has none. -/
def State.patrolUnit (s : State) (i u : Nat) : State :=
  if s.isRetired (32 * u) 32 then s
  else
    match (s.unitMeta u).check with
    | .clean => s
    | .correctable =>
      let s := s.unitCe u
      s.setStack i { s.stack i with found := some (u, false) }
    | .uncorrectable =>
      let s := (s.unitUe u).rowForRepair u
      s.setStack i { s.stack i with found := some (u, true) }

/-- PATROL_READ: the last read's write-back, then the next unit. -/
def execPatrolRead (stack : Fin 8) (s : State) : Host.Outcome State Fault Refusal :=
  let i := stack.val
  if s.patrols i then
    let s := s.storesFirst.patrolBack i
    .next ((s.patrolUnit i (i * 2 ^ 31 + (s.stack i).patrol)).patrolOn i)
  else .next s

/-- POISON_WRITEBACK: the oldest queued unit of the stack becomes poison with fresh check bits. -/
def execPoisonWriteback (stack : Fin 8) (s : State) : Host.Outcome State Fault Refusal :=
  if s.dev = .off then .next s
  else
    let s := s.storesFirst
    match (s.stack stack.val).pwb with
    | [] => .next s
    | u :: _ => .next (s.unitBack u true)

end Sys2Proof.Machine
end

