-- ==== Sys2Proof/Machine/Power.lean ====
section
/-! DEFINITION. Clocks, barometers, the brake and the thermal trip; the stacks' refresh and temperature (R29 to R32, R257 to R259,
R402 to R407). -/

namespace Sys2Proof.Machine

/-! ## Regions (R31, R32, Table 14.15) -/

/-- The cluster whose segments a region executes: a mapped core slot's or a sequencer's. -/
def State.regionCluster (s : State) (region : Nat) : Option Nat :=
  if region < 44 then
    if s.flag (Reg.CL_SLOT_ID_MAPPED (region / 11) (region % 11)) then some (region / 11) else none
  else if region < 48 then some (region - 44)
  else none

/-- The region's cluster notes a stretched cycle of its segment (R46). -/
def State.firstStretch (s : State) (region : Nat) : State :=
  match s.regionCluster region with
  | none => s
  | some cl =>
    if (s.seq cl).executing = true ∧ s.halted cl = false then s.noteStretch cl [region] else s

/-- A region stretches cycles: it counts each of them. How many is a free value, at least 1; so is the largest number in one frame. -/
def State.stretch (s : State) (region : Nat) : State :=
  let (n, s) := s.draw
  let count := (Config.freeWord n).toNat % 2 ^ 20 + 1
  let (m, s) := s.draw
  let s := s.bumpBy (Reg.PW_BARO_STRETCH region) count
  let unit := if region < 44 then 16 * (region / 11) + region % 11 else 0
  (s.extreme (if region < 44 then 1 else 0) unit 7 ((Config.freeWord m).toNat % count + 1)).firstStretch region

/-- Whether a region exists on the device: a core slot that is not disabled, a sequencer, a controller or the network. -/
def State.regionPresent (s : State) (region : Nat) : Bool :=
  decide (44 ≤ region) || !s.flag (Reg.CL_SLOT_ID_DISABLED (region / 11) (region % 11))

/-- A region runs at plan frequency. -/
def State.atPlan (s : State) (region : Nat) : Bool := decide (s.fget (Reg.PW_BARO_RATIO region) = 256)

/-- CLOCK_RAISE: a region whose barometers are all ample raises its clock by one step, up to 1.25 times plan frequency. -/
def execClockRaise (region : Fin 57) (s : State) : Host.Outcome State Fault Refusal :=
  let r := region.val
  if s.dev ≠ .off ∧ s.regionPresent r = true ∧ s.fget (Reg.PW_BARO_BAND r) = 0 ∧ s.fget (Reg.PW_BARO_RATIO r) < 320 then
    .next (s.fset (Reg.PW_BARO_RATIO r) (s.fget (Reg.PW_BARO_RATIO r) + 1))
  else .next s

/-- BAND of a band. -/
def Band.code : Band → Nat
  | .ample => 0
  | .narrow => 1
  | .exhausted => 2

/-- A region acts on its worst band: narrow lowers the clock to plan frequency; exhausted stretches cycles at plan frequency, and
lowers a faster clock (DEDUCED, log 70). -/
def State.band (s : State) (r : Nat) (b : Band) : State :=
  let was := s.atPlan r
  let s := s.fset (Reg.PW_BARO_BAND r) b.code
  match b with
  | .ample => s
  | .narrow => s.fset (Reg.PW_BARO_RATIO r) 256
  | .exhausted => if was then s.stretch r else s.fset (Reg.PW_BARO_RATIO r) 256

/-- BAROMETER_BAND. -/
def execBarometerBand (region : Fin 57) (band : Band) (s : State) : Host.Outcome State Fault Refusal :=
  .next (if s.dev ≠ .off ∧ s.regionPresent region.val = true then s.band region.val band else s)

/-! ## The brake (R405, R406) -/

/-- Whether an average input power exceeds PW_LIMIT × (1 + MARGIN / 256). -/
def State.overLimit (s : State) (watts : Nat) : Bool :=
  decide (s.fget Reg.PW_LIMIT_WATTS * (256 + s.fget Reg.PW_BRAKE_CFG_MARGIN) < 256 * watts)

/-- Note a cause of the brake present now. -/
def State.brakeCause (s : State) : State := { s with manage.overTicks := s.wallNow }

/-- The brake engages: it is counted once, every region stretches, and in RUNNING a hold is requested. -/
def State.engage (s : State) (thermal : Bool) : State :=
  let s := (s.brakeCause).fsetb (if thermal then Reg.PW_STATUS_THERM else Reg.PW_STATUS_OVERCUR) true
  if s.flag Reg.PW_STATUS_BRAKE then s.brakeRequest
  else
    let s := (s.fsetb Reg.PW_STATUS_BRAKE true).bump Reg.PW_BRAKES_VALUE
    let s := (upFrom 0 57).foldl (fun (s : State) r => if s.regionPresent r then s.stretch r else s) s
    s.brakeRequest

/-- An average of input power over 1,024 ticks. -/
def State.powerSample (s : State) (watts : Nat) : State :=
  ((s.fset Reg.PW_INPUT_NOW (min watts 0xFFFF)).peak Reg.PW_INPUT_PEAK watts).extreme 0 0 2 watts

/-- BRAKE_ENGAGE: an average of input power, which engages the brake where it exceeds the limit; a rail trip; or a temperature
threshold. -/
def execBrakeEngage (c : BrakeCause) (watts : Nat) (s : State) : Host.Outcome State Fault Refusal :=
  if s.dev = .off then .next s
  else
    match c with
    | .power =>
      let s := s.powerSample watts
      .next (if s.overLimit watts then s.engage false else s)
    | .rail => .next (s.engage false)
    | .thermal => .next (s.engage true)

/-- Whether a stack is at 95 °C or above. -/
def State.hotStack (s : State) : Bool := (upFrom 0 8).any fun i => s.flag (Reg.HM_STATUS_OVERTEMP i)

/-- BRAKE_RELEASE: none of the causes has been present for 1,024 ticks. -/
def execBrakeRelease (s : State) : Host.Outcome State Fault Refusal :=
  if s.hotStack = false ∧ s.manage.overTicks + 1024 ≤ s.wallNow then .next (s.fsetb Reg.PW_STATUS_BRAKE false) else .next s

/-! ## Temperatures (R258, R405, R407) -/

/-- The device takes the thermal trip, once: source 0x42, and FAILED. -/
def State.trip (s : State) : State :=
  if s.flag Reg.PW_STATUS_TRIP then s
  else (s.fsetb Reg.PW_STATUS_TRIP true).raise 0x42 0 0 (Config.faultDetail 0x42 0).toNat

/-- Act on the hottest die junction and stack. -/
def State.thermal (s : State) (die stack : Nat) : State :=
  if 115 ≤ die ∨ 105 ≤ stack then s.trip
  else if 105 ≤ die ∨ 95 ≤ stack then s.engage true
  else s

/-- THERMAL_TRIP: the hottest junction of each die and the hottest stack as the power unit sees them. -/
def execThermalTrip (dieW dieE stack : Nat) (s : State) : Host.Outcome State Fault Refusal :=
  if s.dev = .off then .next s
  else
    let s := ((s.fset Reg.PW_TEMP_DIEW (min dieW 255)).fset Reg.PW_TEMP_DIEE (min dieE 255)).fset Reg.PW_TEMP_HBMMAX (min stack 255)
    let s := (s.extreme 0 0 3 dieW).extreme 0 0 3 dieE
    .next (s.thermal (max dieW dieE) stack)

/-- Ticks from one refresh window of a channel to the next (R257). -/
def State.refreshPeriod (s : State) (i : Nat) : Nat := if s.flag (Reg.HM_STATUS_DOUBLE i) then 1952 else 3904

/-- A channel's window opens, if its period has passed since the last one. -/
def State.refresh (s : State) (i channel : Nat) : State :=
  let k := s.stack i
  let last := mapGet (fun _ => 0) k.windows channel
  if last = 0 ∨ last - 1 + s.refreshPeriod i ≤ s.wallNow then
    s.setStack i { k with windows := mapPut (fun _ => 0) k.windows channel (s.wallNow + 1) }
  else s

/-- REFRESH_WINDOW: in every state but OFF (R259). The window changes no content and moves no tick of the plan. -/
def execRefreshWindow (stack : Fin 8) (channel : Fin 32) (s : State) : Host.Outcome State Fault Refusal :=
  .next (if s.dev = .off then s else s.refresh stack.val channel.val)

/-- The hottest stack. -/
def State.hottest (s : State) : Nat := (upFrom 0 8).foldl (fun n i => max n (s.fget (Reg.HM_STATUS_TEMP i))) 0

/-- A stack's temperature: DOUBLE, OVERTEMP, and the power unit is told. -/
def State.stackTemp (s : State) (i t : Nat) : State :=
  let was := s.flag (Reg.HM_STATUS_OVERTEMP i)
  let s := s.fset (Reg.HM_STATUS_TEMP i) (min t 255)
  let s := if 85 < t then s.fsetb (Reg.HM_STATUS_DOUBLE i) true else if t ≤ 83 then s.fsetb (Reg.HM_STATUS_DOUBLE i) false else s
  let s := (s.fsetb (Reg.HM_STATUS_OVERTEMP i) (decide (95 ≤ t))).extreme 3 i 4 t
  let s := s.fset Reg.PW_TEMP_HBMMAX s.hottest
  let s := if was then s.brakeCause else s
  s.thermal 0 t

/-- TEMPERATURE_SAMPLE. -/
def execTemperatureSample (stack : Fin 8) (celsius : Nat) (s : State) : Host.Outcome State Fault Refusal :=
  .next (if s.dev = .off then s else s.stackTemp stack.val celsius)

end Sys2Proof.Machine
end

