-- ==== Sys2Proof/Machine/Recorder.lean ====
section
/-! DEFINITION. Orders of the continuity log and of record mode; interval summaries (R430 to R436). -/

namespace Sys2Proof.Machine

/-! ## Reading and clearing (R431, R432) -/

/-- As many elements of `size` bytes, oldest first, as a length holds. -/
def oldest {α : Type} (l : List α) (size plen : Nat) : List α := l.take (plen / size)

/-- The effect of CN_DUMP: the records, or the interval summaries, of one die. -/
def State.dumpLog (s : State) (o : Order) (arg0 paddr : DWord) (plen : Nat) : State :=
  let l := s.dieLog (arg0.toNat % 2)
  if arg0.getLsbD 1 then
    let (n, s) := s.draw
    let s := s.hostPost paddr ((oldest l.closed 1024 plen).flatMap (·.bytes))
    s.done 0x20 o { status := .ok, detail := 0, result := BitVec.ofNat 64 (Config.freeWord n).toNat, codes := [] }
  else
    let recs := oldest l.recs 64 plen
    let s := s.hostPost paddr (recs.flatMap (·.bytes))
    match recs.getLast? with
    | some r => s.done 0x20 o { status := .ok, detail := 0, result := BitVec.ofNat 64 r.seq, codes := [] }
    | none =>
      let (n, s) := s.draw
      s.done 0x20 o { status := .ok, detail := 0, result := BitVec.ofNat 64 (Config.freeWord n).toNat, codes := [] }

/-- CN_DUMP: from BOOT onward. -/
def execCnDump (o : Order) (arg0 paddr : DWord) (plen : Nat) (s : State) : Host.Outcome State Fault Refusal :=
  .next (s.receive o 0x20 (fun _ => true) fun s => s.dumpLog o arg0 paddr plen)

/-- A die's log is cleared, and says so in its first record. -/
def State.clearLog (s : State) (key d : Nat) : State :=
  let l := s.dieLog d
  let n := min 0xFFFF l.recs.length
  let s := (s.setDieLog d { l with recs := [], closed := [] }).bump Reg.CN_CLEARS_COUNT
  s.logOn d 0x86 0 0 0 (n * 2 ^ 16 + key)

/-- The effect of CN_CLEAR. -/
def State.clearLogs (s : State) (o : Order) (t : Token) : State :=
  if s.tokenGood t 3 then
    let s := { s with manage.nonce := none }
    let key := t.sig.keyIdx % 8
    let s := if t.scope.getLsbD 0 then s.clearLog key 0 else s
    let s := if t.scope.getLsbD 1 then s.clearLog key 1 else s
    s.done 0x21 o (.plain .ok 0)
  else s.refuseToken 0x21 o 0x61

/-- CN_CLEAR: in every state but OFF and BOOT. -/
def execCnClear (o : Order) (t : Token) (s : State) : Host.Outcome State Fault Refusal :=
  .next (s.receive o 0x21 (fun s => decide (s.dev ≠ .boot)) fun s => s.clearLogs o t)

/-- Close the interval summary of a die. -/
def State.closeSummary (s : State) (d : Nat) : State :=
  let l := s.dieLog d
  let next := { Summary.initial with wall := l.cur.wall + 1000000000 * s.fget Reg.CN_CFG_INTERVAL, index := l.cur.index + 1 }
  s.setDieLog d { l with closed := keepLast 128 (l.closed ++ [{ l.cur with holdover := s.holdover }]), cur := next }

/-- DAILIES_INTERVAL: every INTERVAL seconds of wall time, in dailies. -/
def execDailiesInterval (die : Fin 2) (s : State) : Host.Outcome State Fault Refusal :=
  let l := s.dieLog die.val
  if s.dev ≠ .off ∧ s.dailies = true ∧ l.cur.wall + 1000000000 * s.fget Reg.CN_CFG_INTERVAL ≤ s.wallNow then
    .next (s.closeSummary die.val)
  else .next s

/-! ## Record and replay (R433, R434, R436) -/

/-- Recording stops: an end entry closes the stream. -/
def State.stopRecording (s : State) : State :=
  if s.recState = 1 then
    let s := (s.recordInput 7 0 [] [] []).flushRecord
    if s.recState = 1 then s.fset Reg.CN_REC_STATE 0 else s
  else s

/-- Recording starts into a buffer of the host. -/
def State.startRecording (s : State) (base : DWord) (size : Nat) : State :=
  let l := { s.log with recBase := base, recSize := size, recOfs := 0, stepEntries := [], entries := [], stream := [], replayArmed := false }
  ({ s with log := l }.fset Reg.CN_REC_STATE 1).fset Reg.CN_REC_HEAD_OFFSET 0

/-- The effect of REC_START. -/
def State.recordOrder (s : State) (o : Order) (base size : DWord) : State :=
  if base = 0 then s.stopRecording.done 0x22 o (.plain .ok 0)
  else if s.dev ≠ .loaded then s.done 0x22 o (.plain .state 0)
  else if base.toNat % 4096 ≠ 0 ∨ size.toNat % 4096 ≠ 0 ∨ size = 0 then s.refuseFree 0x22 o .refused
  else (s.startRecording base size.toNat).done 0x22 o (.plain .ok 0)

/-- REC_START: in LOADED; with ARG0 = 0 it stops recording, in any state. -/
def execRecStart (o : Order) (base size : DWord) (s : State) : Host.Outcome State Fault Refusal :=
  .next (s.receive o 0x22 (fun _ => true) fun s => s.recordOrder o base size)

/-- REC_STOP: REC_START with ARG0 = 0. -/
def execRecStop (o : Order) (s : State) : Host.Outcome State Fault Refusal :=
  .next (s.receive o 0x22 (fun _ => true) fun s => s.stopRecording.done 0x22 o (.plain .ok 0))

/-- REPLAY: the take of the next ARM takes its inputs from the stream. -/
def execReplay (o : Order) (stream : List RecEntry) (s : State) : Host.Outcome State Fault Refusal :=
  .next (s.receive o 0x23 (fun s => decide (s.dev = .loaded)) fun s =>
    let l := { s.log with stream := stream.filter (fun e => decide (e.kind ≠ 7)), replayArmed := true }
    { s with log := l }.done 0x23 o (.plain .ok 0))

/-- Bytes of the host's buffer that are free: what the host has read may be overwritten. -/
def State.recRoom (s : State) : Nat :=
  let used := (s.log.recOfs + s.log.recSize - s.fget Reg.CN_REC_HEAD_OFFSET % max 1 s.log.recSize) % max 1 s.log.recSize
  s.log.recSize - used

/-- A step order's entry of 64 bytes (Table 08.3). -/
def StepEntry.bytes (e : StepEntry) : List Byte :=
  toBytes 4 e.w0.toNat ++ toBytes 4 e.w4.toNat ++ toBytes 8 e.q8.toNat ++ toBytes 8 e.q16.toNat ++ toBytes 8 e.q24.toNat ++
  toBytes 8 e.q32.toNat ++ toBytes 24 e.rest.toNat

/-- A recorded entry's payload: words, serving entries, data. -/
def RecEntry.payload (e : RecEntry) : List Byte :=
  (e.words.flatMap fun w => toBytes 8 w.toNat) ++ e.entries.flatMap (·.bytes) ++ e.data

/-- A recorded entry's bytes (Table 15.5), its payload padded to 32. -/
def RecEntry.bytes (e : RecEntry) : List Byte :=
  let p := e.payload
  toBytes 2 e.kind ++ toBytes 2 0 ++ toBytes 4 p.length ++ toBytes 8 (unsignedOf 64 e.plan) ++ toBytes 8 e.cut ++ toBytes 8 e.wall ++
  p ++ List.replicate (e.size - 32 - p.length) 0

/-- Write into the record buffer at its offset: a ring, so what passes its end goes on at its base. -/
def State.recordPost (s : State) (bs : List Byte) : State :=
  let n := s.log.recSize - s.log.recOfs
  let s := s.hostPost (s.log.recBase + BitVec.ofNat 64 s.log.recOfs) (bs.take n)
  if bs.length ≤ n then s else s.hostPost s.log.recBase (bs.drop n)

/-- RECORD_ENTRY_WRITE: the oldest waiting entry, once room exists. -/
def execRecordEntryWrite (s : State) : Host.Outcome State Fault Refusal :=
  match s.log.entries with
  | [] => .next s
  | e :: rest =>
    if s.hostUp = true ∧ e.size < s.recRoom then
      let s := s.recordPost e.bytes
      .next { s with log.entries := rest, log.recOfs := (s.log.recOfs + e.size) % s.log.recSize }
    else .next s

end Sys2Proof.Machine
end

