-- ==== Sys2Proof/Machine/Recovery.lean ====
section
/-! DEFINITION. Resumption of a fenced take and admission of a replacement (R382 to R384, R389 to R391). -/

namespace Sys2Proof.Machine

/-! ## RESUME (R383, R384) -/

/-- Why RESUME is refused. -/
def State.resumeRefused (s : State) (epoch wr cut : DWord) : Option Nat :=
  if epoch.toNat ≤ s.fget Reg.FC_EPOCH_VALUE then some 0x40
  else if cut.toNat ≠ s.fget Reg.SV_CUTS_CUTS then some 0x41
  else if wr.toNat % 65536 ≠ 0 ∨ wr.toNat < s.wallNow + 1048576 then some 0x42
  else none

/-- RESUME: in FENCED, outside replays. -/
def execResume (o : Order) (epoch wr cut : DWord) (s : State) : Host.Outcome State Fault Refusal :=
  .next (s.receive o 0x10 (fun s => decide (s.dev = .fenced) && decide (s.recState < 2)) fun s =>
    match s.resumeRefused epoch wr cut with
    | some d => s.done 0x10 o (.plain .refused d)
    | none => ((s.recordInput 5 s.planNow [epoch, wr, cut] [] []).grant epoch.toNat wr.toNat).done 0x10 o (.plain .ok 0))

/-! ## ADMIT (R389 to R391) -/

/-- Do something under the serving registers of the loaded reel, which the control path loads only at arm. -/
def State.underReel (s : State) (r : Reel) (f : State → State) : State :=
  let t := f (s.loadServing r)
  let keep := fun (u : State) (fld : Fld) => u.fset fld (s.fget fld)
  let t := keep (keep (keep t Reg.SV_CTRL_ROLE) Reg.SV_CTRL_MAXENT) Reg.SV_TIMING_SETTLE
  let t := keep (keep (keep t Reg.SV_TIMING_READY) Reg.SV_AREA_BASE) Reg.SV_POOL_BASE_BASE
  let t := keep (keep (keep t Reg.SV_POOL_STRIDE_STRIDE) Reg.SV_KV_CFG_NRANK) Reg.SV_KV_CFG_KRANK
  keep (keep (keep (keep t Reg.SV_CTX_RANGE_LO) Reg.SV_CTX_RANGE_HI) Reg.SV_METER_RANGE_LO) Reg.SV_METER_RANGE_HI

/-- The frame of a local page of an admitted context: the next free one where the page is not mapped. -/
def State.admitPage (s : State) (c lp : Nat) : Option Nat × State :=
  let w := s.pageWord c lp
  if 2 ^ 31 ≤ w then (some (w % 2 ^ 24), s)
  else
    match s.serve.freeList with
    | [] => (none, s)
    | f :: fs => (some f, { s with serve.freeList := fs }.hbmPut (s.pageEntry c lp) (toBytes 4 (2 ^ 31 + f)))

/-- Write one piece of copied KV; a piece without a frame, or beyond its page, is not written. -/
def State.admitPiece (s : State) (c : Nat) (x : Nat × Nat × List Byte × List Bool) : State :=
  let (lp, off, bs, ps) := x
  match s.admitPage c lp with
  | (none, s) => s
  | (some f, s) =>
    if 32 * s.fget Reg.SV_POOL_STRIDE_STRIDE < off + bs.length ∨ hbmSize < s.frameAddr f + off + bs.length then s
    else s.hbmPutUnits (s.frameAddr f + off) bs ps

/-- The local pages that a context's committed positions reach, ascending. -/
def State.committedPages (s : State) (commit : Nat) : List Nat := s.localPages 0 commit

/-- Take over one context of the stand-in's mirror: its pages in ascending order, its committed KV, its commit pointer, and on
the lead its record. -/
def State.admitCtx (s : State) (m : MirrorCtx) : State :=
  let s := (s.committedPages m.commit).foldl (fun (s : State) lp => (s.admitPage m.ctx lp).2) s
  let s := m.kv.foldl (fun (s : State) x => s.admitPiece m.ctx x) s
  let reach := 64 * ceilDiv m.commit 64
  s.setCtx m.ctx (match m.entry with
    | some e => { e with mirror := false, commit := m.commit, reach := max e.reach reach }
    | none => { Ctx.initial with st := .held, commit := m.commit, reach := reach })

/-- Take over the contexts copied, ascending, and the meters. -/
def State.admitAll (s : State) (r : Reel) (cs : List MirrorCtx) (ms : List (Nat × Nat × Nat)) : State :=
  s.underReel r fun s => ((sortBy (fun c => (c.ctx : Int)) cs).foldl (fun (s : State) c => s.admitCtx c) s).adoptMeters ms

/-- Why ADMIT is refused: the stand-in's mirror is of another cut, or lacks the lead's records. -/
def State.admitRefused (s : State) (r : Reel) (cut standinCut : DWord) (leadRecords : Bool) : Bool :=
  decide (standinCut ≠ cut) || (decide (r.leadDev = s.deviceId) && !leadRecords)

/-- The copy starts: no context, every frame free. -/
def State.startAdmission (s : State) (o : Order) (r : Reel) : State :=
  let adm := { s.faults with admission := AState.copying, admitPartial := false }
  ({ s with faults := adm }.armServing r).background 0x13 o

/-- ADMIT, where admission is idle. -/
def State.admitOrder (s : State) (o : Order) (r : Reel) (arg0 cut standinCut : DWord) (leadRecords : Bool) : State :=
  let s := (s.fset Reg.FC_ADMIT_STANDIN (bitsOf 17 0 arg0.toNat)).fset Reg.FC_ADMIT_DETAIL 0
  if s.admitRefused r cut standinCut leadRecords then (s.fset Reg.FC_ADMIT_DETAIL 0x43).done 0x13 o (.plain .refused 0x43)
  else s.startAdmission o r

/-- ADMIT: in LOADED; `standinCut` is the SV_MIRROR_CUT that the stand-in answers, `leadRecords` whether it has the lead's
records. -/
def execAdmitOrder (o : Order) (arg0 arg1 standinCut : DWord) (leadRecords : Bool) (s : State) : Host.Outcome State Fault Refusal :=
  .next (s.receive o 0x13 (fun s => decide (s.dev = .loaded)) fun s =>
    if s.faults.admission = .copying then s.done 0x13 o (.plain .busy 0)
    else
      match s.take.active with
      | some r =>
        if s.faults.admission = .idle then s.admitOrder o r arg0 arg1 standinCut leadRecords
        else s.done 0x13 o (.plain .state 0)
      | none => s.done 0x13 o (.plain .state 0))

/-- The state of the admission that a copy's end leaves. -/
def State.endCopy (s : State) (a : AState) (part : Bool) : State :=
  { s with faults.admission := a, faults.admitPartial := part }

/-- ADMIT_COPY_COMPLETE: the mirror of cut C is copied. -/
def execAdmitCopyComplete (ctxs : List MirrorCtx) (meters : List (Nat × Nat × Nat)) (s : State) : Host.Outcome State Fault Refusal :=
  match s.faults.admission, s.take.active with
  | .copying, some r => .next (((s.admitAll r ctxs meters).endCopy .complete false).finishOp 0x13 (.plain .ok 0))
  | _, _ => .next s

/-- The stand-in stopped answering: the contexts whose copy completed stay, the others are lost. -/
def State.admitTimeout (s : State) (r : Reel) (copied : List MirrorCtx) (meters : List (Nat × Nat × Nat)) (lost : List Nat) : State :=
  let s := (s.admitAll r copied meters).endCopy .incomplete true
  let s := (s.fset Reg.FC_ADMIT_DETAIL 0x44).fset Reg.FC_ADMIT_LOST_COUNT (min lost.length 0xFFFF)
  { s with serve.lostCtxs := lost }.finishOp 0x13
    { status := .failed, detail := 0x44, result := BitVec.ofNat 64 lost.length, codes := [] }

/-- ADMIT_STANDIN_TIMEOUT: the stand-in has not answered for 1 ms. -/
def execAdmitStandinTimeout (copied : List MirrorCtx) (meters : List (Nat × Nat × Nat)) (lost : List Nat) (s : State) :
    Host.Outcome State Fault Refusal :=
  match s.faults.admission, s.take.active with
  | .copying, some r => .next (s.admitTimeout r copied meters lost)
  | _, _ => .next s

end Sys2Proof.Machine
end

