-- ==== Sys2Proof/Machine/Scalar.lean ====
section
/-! DEFINITION. The scalar slot: arithmetic, logic, compares, loads and stores (R175, Tables 06.4 and 06.6). -/

namespace Sys2Proof.Machine

/-- The results of the two-operand scalar operations. -/
inductive ScalarOp where
  | add | sub | mul | and | or | xor | shl | shr | sar | min | max
deriving DecidableEq, Repr

/-- SA op SB (Table 06.6). -/
def ScalarOp.eval (o : ScalarOp) (a b : DWord) : DWord :=
  match o with
  | .add => a + b
  | .sub => a - b
  | .mul => a * b
  | .and => a &&& b
  | .or => a ||| b
  | .xor => a ^^^ b
  | .shl => a <<< (b.toNat % 64)
  | .shr => a >>> (b.toNat % 64)
  | .sar => a.sshiftRight (b.toNat % 64)
  | .min => if a.slt b then a else b
  | .max => if a.slt b then b else a

/-- Latency of a scalar operation (Table 06.4). -/
def ScalarOp.latency : ScalarOp → Nat
  | .mul => 3
  | _ => 1

/-- The effect of a format R operation on a core. -/
def scalarEffect (o : ScalarOp) (sd sa sb : BitVec 5) (s : State) (key : Nat) : Effect :=
  let a := s.sval key sa
  let b := s.sval key sb
  .write o.latency (.sreg sd.toNat ⟨o.eval a.v b.v, a.p || b.p⟩)

/-- A format R operation. -/
def State.scalarOp (s : State) (o : ScalarOp) (i : Issue) (sd sa sb : BitVec 5) : State :=
  s.runSlot i .s 0x7 0 (writesScalar sd) fun s key => (scalarEffect o sd sa sb s key, s)

/-- ADD. -/
def execAdd (i : Issue) (sd sa sb : BitVec 5) (s : State) : Host.Outcome State Fault Refusal :=
  .next (s.scalarOp .add i sd sa sb)

/-- SUB. -/
def execSub (i : Issue) (sd sa sb : BitVec 5) (s : State) : Host.Outcome State Fault Refusal :=
  .next (s.scalarOp .sub i sd sa sb)

/-- MUL: the low 64 bits. -/
def execMul (i : Issue) (sd sa sb : BitVec 5) (s : State) : Host.Outcome State Fault Refusal :=
  .next (s.scalarOp .mul i sd sa sb)

/-- AND. -/
def execAnd (i : Issue) (sd sa sb : BitVec 5) (s : State) : Host.Outcome State Fault Refusal :=
  .next (s.scalarOp .and i sd sa sb)

/-- OR. -/
def execOr (i : Issue) (sd sa sb : BitVec 5) (s : State) : Host.Outcome State Fault Refusal :=
  .next (s.scalarOp .or i sd sa sb)

/-- XOR. -/
def execXor (i : Issue) (sd sa sb : BitVec 5) (s : State) : Host.Outcome State Fault Refusal :=
  .next (s.scalarOp .xor i sd sa sb)

/-- SHL: shift by SB[5:0]. -/
def execShl (i : Issue) (sd sa sb : BitVec 5) (s : State) : Host.Outcome State Fault Refusal :=
  .next (s.scalarOp .shl i sd sa sb)

/-- SHR: logical shift by SB[5:0]. -/
def execShr (i : Issue) (sd sa sb : BitVec 5) (s : State) : Host.Outcome State Fault Refusal :=
  .next (s.scalarOp .shr i sd sa sb)

/-- SAR: arithmetic shift by SB[5:0]. -/
def execSar (i : Issue) (sd sa sb : BitVec 5) (s : State) : Host.Outcome State Fault Refusal :=
  .next (s.scalarOp .sar i sd sa sb)

/-- MIN, signed. -/
def execMin (i : Issue) (sd sa sb : BitVec 5) (s : State) : Host.Outcome State Fault Refusal :=
  .next (s.scalarOp .min i sd sa sb)

/-- MAX, signed. -/
def execMax (i : Issue) (sd sa sb : BitVec 5) (s : State) : Host.Outcome State Fault Refusal :=
  .next (s.scalarOp .max i sd sa sb)

/-- ADDI: SD := SA + IMM. -/
def execAddi (i : Issue) (sd sa : BitVec 5) (imm : Word) (s : State) : Host.Outcome State Fault Refusal :=
  .next (s.runSlot i .s 0x7 0 (writesScalar sd) fun s key =>
    let a := s.sval key sa
    (.write 1 (.sreg sd.toNat ⟨a.v + immS imm, a.p⟩), s))

/-- MOVI: SD := IMM. -/
def execMovi (i : Issue) (sd : BitVec 5) (imm : Word) (s : State) : Host.Outcome State Fault Refusal :=
  .next (s.runSlot i .s 0x7 0 (writesScalar sd) fun s _ => (.write 1 (.sreg sd.toNat ⟨immS imm, false⟩), s))

/-- MOVHI: SD[63:32] := IMM, the low half unchanged. -/
def execMovhi (i : Issue) (sd : BitVec 5) (imm : Word) (s : State) : Host.Outcome State Fault Refusal :=
  .next (s.runSlot i .s 0x7 0 (writesScalar sd) fun s key =>
    let d := s.sval key sd
    (.write 1 (.sreg sd.toNat ⟨imm ++ d.v.extractLsb' 0 32, d.p⟩), s))

/-- The conditions of CMP. -/
def cmpHolds (cond : Nat) (a b : DWord) : Bool :=
  match cond with
  | 0 => a == b
  | 1 => a != b
  | 2 => a.slt b
  | 3 => !a.slt b
  | 4 => a.ult b
  | _ => !a.ult b

/-- CMP's decode check: SD[4:3], the condition code and IMM[31:13] (R175). -/
def cmpDecode (sd : BitVec 5) (imm : Word) : List Nat :=
  if 8 ≤ sd.toNat ∨ 6 ≤ imm.toNat % 8 ∨ 2 ^ 13 ≤ imm.toNat then [0x03] else []

/-- CMP: p[SD] := SA cond s[IMM[12:8]]. -/
def execCmp (i : Issue) (sd sa : BitVec 5) (imm : Word) (s : State) : Host.Outcome State Fault Refusal :=
  .next (s.runSlot i .s 0x7 0 (cmpDecode sd imm) fun s key =>
    let a := s.sval key sa
    let b := s.sval key (BitVec.ofNat 5 (imm.toNat / 2 ^ 8))
    (.write 1 (.pred (sd.toNat % 8) ⟨cmpHolds (imm.toNat % 8) a.v b.v, a.p || b.p⟩), s))

/-- The bank cycles of a scalar access (R137): one for 8 bytes, else two. -/
def scalarAccess (first a n : Nat) (write : Bool) : List (Nat × Nat × Nat × Bool) :=
  if n = 8 then [(first, a, n, write)] else [(first, a, n, write), (first + 1, a, n, write)]

/-- The effect of LDS on a core. -/
def ldsEffect (sd sa : BitVec 5) (imm : Word) (s : State) (key : Nat) : Effect × State :=
  let base := s.sval key sa
  let (a, n) := scalarAddr base.v imm
  if scalarAddrBad a n then (.stop 0x22, s)
  else
    match s.scheduledRead key a n with
    | .error r => (.stop r, s)
    | .ok ((bs, ps), s) =>
      ({ writes := [(6, .sreg sd.toNat ⟨BitVec.ofNat 64 (ofBytes bs), base.p || ps.any id⟩)], flags := 0, halts := [],
         access := scalarAccess 0 a n false }, s)

/-- LDS: SD := the zero-extended load. -/
def execLds (i : Issue) (sd sa : BitVec 5) (imm : Word) (s : State) : Host.Outcome State Fault Refusal :=
  .next (s.runSlot i .s 0x7 0 (writesScalar sd) (ldsEffect sd sa imm))

/-- The effect of STS on a core; the write is performed two cycles after issue. -/
def stsEffect (sd sa : BitVec 5) (imm : Word) (s : State) (key : Nat) : Effect × State :=
  let base := s.sval key sa
  let d := s.sval key sd
  let (a, n) := scalarAddr base.v imm
  if scalarAddrBad a n then (.stop 0x22, s)
  else if s.writeBarred key a n then (.stop 0x23, s)
  else
    ({ writes := [(2, .bytes a (toBytes n d.v.toNat) [base.p || d.p])], flags := 0, halts := [],
       access := scalarAccess (if n = 8 then 2 else 1) a n true }, s)

/-- STS: store the low bytes of SD. -/
def execSts (i : Issue) (sd sa : BitVec 5) (imm : Word) (s : State) : Host.Outcome State Fault Refusal :=
  .next (s.runSlot i .s 0x7 0 [] (stsEffect sd sa imm))

end Sys2Proof.Machine
end

