-- ==== Sys2Proof/Machine/Dispatch.lean ====
section
/-! DEFINITION. The effect of each command: one call of its meaning. -/

namespace Sys2Proof.Machine

def exec (i : Instr) (s : State) : Host.Outcome State Fault Refusal :=
  match i with
  | .load o r => Sys2Proof.Machine.execLoad o r s
  | .stage o r => Sys2Proof.Machine.execStage o r s
  | .unload o => Sys2Proof.Machine.execUnload o s
  | .fetch o => Sys2Proof.Machine.execFetch o s
  | .arm o firstCue => Sys2Proof.Machine.execArm o firstCue s
  | .armJoin o arg0 arg1 arg2 => Sys2Proof.Machine.execArmJoin o arg0 arg1 arg2 s
  | .drain o cut => Sys2Proof.Machine.execDrain o cut s
  | .exchange o k tj => Sys2Proof.Machine.execExchange o k tj s
  | .exchangeCancel o => Sys2Proof.Machine.execExchangeCancel o s
  | .serve o entries => Sys2Proof.Machine.execServe o entries s
  | .copyin o arg0 arg1 arg2 data => Sys2Proof.Machine.execCopyin o arg0 arg1 arg2 data s
  | .copyout o arg0 arg1 arg2 dest => Sys2Proof.Machine.execCopyout o arg0 arg1 arg2 dest s
  | .regrd o arg0 => Sys2Proof.Machine.execRegrd o arg0 s
  | .regwr o arg0 arg1 => Sys2Proof.Machine.execRegwr o arg0 arg1 s
  | .cabling o plan rack blockLo blockHi => Sys2Proof.Machine.execCabling o plan rack blockLo blockHi s
  | .callsheet o payload => Sys2Proof.Machine.execCallsheet o payload s
  | .reset o => Sys2Proof.Machine.execReset o s
  | .resume o epoch wr cut => Sys2Proof.Machine.execResume o epoch wr cut s
  | .screen o => Sys2Proof.Machine.execScreen o s
  | .screenComplete r => Sys2Proof.Machine.execScreenComplete r s
  | .fitness o paddr => Sys2Proof.Machine.execFitness o paddr s
  | .admitOrder o arg0 arg1 standinCut leadRecords => Sys2Proof.Machine.execAdmitOrder o arg0 arg1 standinCut leadRecords s
  | .admitCopyComplete ctxs meters => Sys2Proof.Machine.execAdmitCopyComplete ctxs meters s
  | .admitStandinTimeout copied meters lost => Sys2Proof.Machine.execAdmitStandinTimeout copied meters lost s
  | .updDownload o offset hdr data => Sys2Proof.Machine.execUpdDownload o offset hdr data s
  | .updVerify o => Sys2Proof.Machine.execUpdVerify o s
  | .updActivate o => Sys2Proof.Machine.execUpdActivate o s
  | .updConfirm o => Sys2Proof.Machine.execUpdConfirm o s
  | .updCancel o => Sys2Proof.Machine.execUpdCancel o s
  | .dbgNonce o => Sys2Proof.Machine.execDbgNonce o s
  | .dbgUnlock o t => Sys2Proof.Machine.execDbgUnlock o t s
  | .dbgRelock o => Sys2Proof.Machine.execDbgRelock o s
  | .cnDump o arg0 paddr plen => Sys2Proof.Machine.execCnDump o arg0 paddr plen s
  | .cnClear o t => Sys2Proof.Machine.execCnClear o t s
  | .recStart o base size => Sys2Proof.Machine.execRecStart o base size s
  | .recStop o => Sys2Proof.Machine.execRecStop o s
  | .replay o stream => Sys2Proof.Machine.execReplay o stream s
  | .completionPost => Sys2Proof.Machine.execCompletionPost s
  | .deliveryReadComplete => Sys2Proof.Machine.execDeliveryReadComplete s
  | .oqTail slot value w => Sys2Proof.Machine.execOqTail slot value w s
  | .cqHead slot value w => Sys2Proof.Machine.execCqHead slot value w s
  | .ringHead slot ctx value w => Sys2Proof.Machine.execRingHead slot ctx value w s
  | .registerWrite p w offset value => Sys2Proof.Machine.execRegisterWrite p w offset value s
  | .rcRead p w offset => Sys2Proof.Machine.execRcRead p w offset s
  | .lowWordRead p w offset => Sys2Proof.Machine.execLowWordRead p w offset s
  | .tbStep p high => Sys2Proof.Machine.execTbStep p high s
  | .lkCtrlEn p l en => Sys2Proof.Machine.execLkCtrlEn p l en s
  | .retrain p l => Sys2Proof.Machine.execRetrain p l s
  | .lkSleepRequest p l => Sys2Proof.Machine.execLkSleepRequest p l s
  | .wake p l => Sys2Proof.Machine.execWake p l s
  | .hiMbCtrlEn p => Sys2Proof.Machine.execHiMbCtrlEn p s
  | .cnRecHead p offset => Sys2Proof.Machine.execCnRecHead p offset s
  | .lullRun iss count slotsZero => Sys2Proof.Machine.execLullRun iss count slotsZero s
  | .checkpoint iss => Sys2Proof.Machine.execCheckpoint iss s
  | .add iss sd sa sb => Sys2Proof.Machine.execAdd iss sd sa sb s
  | .sub iss sd sa sb => Sys2Proof.Machine.execSub iss sd sa sb s
  | .mul iss sd sa sb => Sys2Proof.Machine.execMul iss sd sa sb s
  | .and iss sd sa sb => Sys2Proof.Machine.execAnd iss sd sa sb s
  | .or iss sd sa sb => Sys2Proof.Machine.execOr iss sd sa sb s
  | .xor iss sd sa sb => Sys2Proof.Machine.execXor iss sd sa sb s
  | .shl iss sd sa sb => Sys2Proof.Machine.execShl iss sd sa sb s
  | .shr iss sd sa sb => Sys2Proof.Machine.execShr iss sd sa sb s
  | .sar iss sd sa sb => Sys2Proof.Machine.execSar iss sd sa sb s
  | .min iss sd sa sb => Sys2Proof.Machine.execMin iss sd sa sb s
  | .max iss sd sa sb => Sys2Proof.Machine.execMax iss sd sa sb s
  | .addi iss sd sa imm => Sys2Proof.Machine.execAddi iss sd sa imm s
  | .movi iss sd imm => Sys2Proof.Machine.execMovi iss sd imm s
  | .movhi iss sd imm => Sys2Proof.Machine.execMovhi iss sd imm s
  | .cmp iss sd sa imm => Sys2Proof.Machine.execCmp iss sd sa imm s
  | .lds iss sd sa imm => Sys2Proof.Machine.execLds iss sd sa imm s
  | .sts iss sd sa imm => Sys2Proof.Machine.execSts iss sd sa imm s
  | .brb iss sc cond len => Sys2Proof.Machine.execBrb iss sc cond len s
  | .loop iss sn si body max => Sys2Proof.Machine.execLoop iss sn si body max s
  | .vadd iss pipe vd va vb rnd => Sys2Proof.Machine.execVadd iss pipe vd va vb rnd s
  | .vsub iss pipe vd va vb rnd => Sys2Proof.Machine.execVsub iss pipe vd va vb rnd s
  | .vmul iss pipe vd va vb rnd => Sys2Proof.Machine.execVmul iss pipe vd va vb rnd s
  | .vfma iss pipe vd va vb vc rnd => Sys2Proof.Machine.execVfma iss pipe vd va vb vc rnd s
  | .vmin iss pipe vd va vb => Sys2Proof.Machine.execVmin iss pipe vd va vb s
  | .vmax iss pipe vd va vb => Sys2Proof.Machine.execVmax iss pipe vd va vb s
  | .vcvt iss pipe vd va vb rnd sat fmt => Sys2Proof.Machine.execVcvt iss pipe vd va vb rnd sat fmt s
  | .vcmp iss pipe vd va vb fmt => Sys2Proof.Machine.execVcmp iss pipe vd va vb fmt s
  | .vsel iss pipe vd va vb vc => Sys2Proof.Machine.execVsel iss pipe vd va vb vc s
  | .vpset iss pipe vd va fmt => Sys2Proof.Machine.execVpset iss pipe vd va fmt s
  | .vperm iss pipe vd va vb => Sys2Proof.Machine.execVperm iss pipe vd va vb s
  | .vred iss pipe vd va rnd fmt => Sys2Proof.Machine.execVred iss pipe vd va rnd fmt s
  | .vsfu iss pipe vd va rnd fmt => Sys2Proof.Machine.execVsfu iss pipe vd va rnd fmt s
  | .vld iss pipe vd va imm => Sys2Proof.Machine.execVld iss pipe vd va imm s
  | .vst iss pipe vd va imm => Sys2Proof.Machine.execVst iss pipe vd va imm s
  | .vacc iss pipe vd va imm => Sys2Proof.Machine.execVacc iss pipe vd va imm s
  | .mma iss b => Sys2Proof.Machine.execMma iss b s
  | .passStart c adv array => Sys2Proof.Machine.execPassStart c adv array s
  | .mmaComplete c adv => Sys2Proof.Machine.execMmaComplete c adv s
  | .pendingTakeup c adv => Sys2Proof.Machine.execPendingTakeup c adv s
  | .fadeOutEnd c adv => Sys2Proof.Machine.execFadeOutEnd c adv s
  | .xfer iss ldSlot desc sadr dadr treg timm => Sys2Proof.Machine.execXfer iss ldSlot desc sadr dadr treg timm s
  | .sig iss ctr amt timm => Sys2Proof.Machine.execSig iss ctr amt timm s
  | .sigDue ctr => Sys2Proof.Machine.execSigDue ctr s
  | .setc iss ctr val timm => Sys2Proof.Machine.execSetc iss ctr val timm s
  | .setcDue ctr => Sys2Proof.Machine.execSetcDue ctr s
  | .wait iss ctr stgt tmo tgt => Sys2Proof.Machine.execWait iss ctr stgt tmo tgt s
  | .waitSatisfied cl => Sys2Proof.Machine.execWaitSatisfied cl s
  | .waitTimeout cl => Sys2Proof.Machine.execWaitTimeout cl s
  | .redc iss sd sa rop => Sys2Proof.Machine.execRedc iss sd sa rop s
  | .redx iss sd sa rop grp timm => Sys2Proof.Machine.execRedx iss sd sa rop grp timm s
  | .redxResult cl => Sys2Proof.Machine.execRedxResult cl s
  | .trig iss sd inp clr => Sys2Proof.Machine.execTrig iss sd inp clr s
  | .ssel iss sa => Sys2Proof.Machine.execSsel iss sa s
  | .topk iss entry sa => Sys2Proof.Machine.execTopk iss entry sa s
  | .send iss entry sa => Sys2Proof.Machine.execSend iss entry sa s
  | .dispatch iss entry sa => Sys2Proof.Machine.execDispatch iss entry sa s
  | .pages iss entry sa => Sys2Proof.Machine.execPages iss entry sa s
  | .sieveFree cl adv => Sys2Proof.Machine.execSieveFree cl adv s
  | .cue cl => Sys2Proof.Machine.execCue cl s
  | .landingRelease dst what => Sys2Proof.Machine.execLandingRelease dst what s
  | .landingWriteback c granule => Sys2Proof.Machine.execLandingWriteback c granule s
  | .eccWriteback c => Sys2Proof.Machine.execEccWriteback c s
  | .drizzleRequest c r => Sys2Proof.Machine.execDrizzleRequest c r s
  | .drizzleAccess c => Sys2Proof.Machine.execDrizzleAccess c s
  | .drizzleWatchdog c => Sys2Proof.Machine.execDrizzleWatchdog c s
  | .scrubComplete core stack => Sys2Proof.Machine.execScrubComplete core stack s
  | .clockRaise region => Sys2Proof.Machine.execClockRaise region s
  | .barometerBand region band => Sys2Proof.Machine.execBarometerBand region band s
  | .gate => Sys2Proof.Machine.execGate s
  | .holdEnd => Sys2Proof.Machine.execHoldEnd s
  | .fadeIn c array => Sys2Proof.Machine.execFadeIn c array s
  | .replayStop => Sys2Proof.Machine.execReplayStop s
  | .replayOrderSend => Sys2Proof.Machine.execReplayOrderSend s
  | .resumeTick => Sys2Proof.Machine.execResumeTick s
  | .takeStart => Sys2Proof.Machine.execTakeStart s
  | .settle => Sys2Proof.Machine.execSettle s
  | .cutMessageSend => Sys2Proof.Machine.execCutMessageSend s
  | .cutMessageReceive r take gate shape digest adopt => Sys2Proof.Machine.execCutMessageReceive r take gate shape digest adopt s
  | .prepare => Sys2Proof.Machine.execPrepare s
  | .cut => Sys2Proof.Machine.execCut s
  | .exchangePauseEnd => Sys2Proof.Machine.execExchangePauseEnd s
  | .ringRecordWrite ctx => Sys2Proof.Machine.execRingRecordWrite ctx s
  | .tailWrite ctx => Sys2Proof.Machine.execTailWrite ctx s
  | .mirrorSend => Sys2Proof.Machine.execMirrorSend s
  | .mirrorWrite l rx p cut rec meters ended complete => Sys2Proof.Machine.execMirrorWrite l rx p cut rec meters ended complete s
  | .mirrorAcknowledgement l rx p cut => Sys2Proof.Machine.execMirrorAcknowledgement l rx p cut s
  | .slateSend l => Sys2Proof.Machine.execSlateSend l s
  | .slate l tsend techo trecv dev holdover unaligned => Sys2Proof.Machine.execSlate l tsend techo trecv dev holdover unaligned s
  | .holdMarker r take gate frames reason origin => Sys2Proof.Machine.execHoldMarker r take gate frames reason origin s
  | .framePulseOut => Sys2Proof.Machine.execFramePulseOut s
  | .framePulseIn => Sys2Proof.Machine.execFramePulseIn s
  | .triggerEdge inp rising width => Sys2Proof.Machine.execTriggerEdge inp rising width s
  | .triggerVisible inp => Sys2Proof.Machine.execTriggerVisible inp s
  | .lossOfReference => Sys2Proof.Machine.execLossOfReference s
  | .packetSend l => Sys2Proof.Machine.execPacketSend l s
  | .vc2Launch l => Sys2Proof.Machine.execVc2Launch l s
  | .scheduledSendPacket l rx p => Sys2Proof.Machine.execScheduledSendPacket l rx p s
  | .redxContribution l rx p grp rank value poison => Sys2Proof.Machine.execRedxContribution l rx p grp rank value poison s
  | .unscheduledSend l rx p => Sys2Proof.Machine.execUnscheduledSend l rx p s
  | .proxiedRequest l rx p ask addr => Sys2Proof.Machine.execProxiedRequest l rx p ask addr s
  | .proxiedResponse l rx p => Sys2Proof.Machine.execProxiedResponse l rx p s
  | .ack l seq cvc credits => Sys2Proof.Machine.execAck l seq cvc credits s
  | .nak l seq cvc credits => Sys2Proof.Machine.execNak l seq cvc credits s
  | .replayTimeout l => Sys2Proof.Machine.execReplayTimeout l s
  | .discard l seq => Sys2Proof.Machine.execDiscard l seq s
  | .creditExchange l => Sys2Proof.Machine.execCreditExchange l s
  | .credit l sent freed => Sys2Proof.Machine.execCredit l sent freed s
  | .linkDead l => Sys2Proof.Machine.execLinkDead l s
  | .laneLockLoss l lane => Sys2Proof.Machine.execLaneLockLoss l lane s
  | .laneErrorLimit l lane symbols => Sys2Proof.Machine.execLaneErrorLimit l lane symbols s
  | .lanes l mask => Sys2Proof.Machine.execLanes l mask s
  | .laneMaskSwitch l => Sys2Proof.Machine.execLaneMaskSwitch l s
  | .signalDetect l mask => Sys2Proof.Machine.execSignalDetect l mask s
  | .lossOfSignal l => Sys2Proof.Machine.execLossOfSignal l s
  | .train l b => Sys2Proof.Machine.execTrain l b s
  | .trainingComplete l mask => Sys2Proof.Machine.execTrainingComplete l mask s
  | .trainingTimeout l => Sys2Proof.Machine.execTrainingTimeout l s
  | .wakeTimeout l => Sys2Proof.Machine.execWakeTimeout l s
  | .wakeComplete l offset => Sys2Proof.Machine.execWakeComplete l offset s
  | .failedTimeout l => Sys2Proof.Machine.execFailedTimeout l s
  | .sleep l request grant => Sys2Proof.Machine.execSleep l request grant s
  | .idleTimeout l => Sys2Proof.Machine.execIdleTimeout l s
  | .udrainExpiry dest => Sys2Proof.Machine.execUdrainExpiry dest s
  | .refreshWindow stack channel => Sys2Proof.Machine.execRefreshWindow stack channel s
  | .temperatureSample stack celsius => Sys2Proof.Machine.execTemperatureSample stack celsius s
  | .patrolRead stack => Sys2Proof.Machine.execPatrolRead stack s
  | .poisonWriteback stack => Sys2Proof.Machine.execPoisonWriteback stack s
  | .chunkArrival index data transportFailed => Sys2Proof.Machine.execChunkArrival index data transportFailed s
  | .ptpMessage m => Sys2Proof.Machine.execPtpMessage m s
  | .frontEndFrameDrop port => Sys2Proof.Machine.execFrontEndFrameDrop port s
  | .brakeEngage c watts => Sys2Proof.Machine.execBrakeEngage c watts s
  | .brakeRelease => Sys2Proof.Machine.execBrakeRelease s
  | .thermalTrip dieW dieE stack => Sys2Proof.Machine.execThermalTrip dieW dieE stack s
  | .managementPeriod die w => Sys2Proof.Machine.execManagementPeriod die w s
  | .heartbeat die strap => Sys2Proof.Machine.execHeartbeat die strap s
  | .heartbeatMissed die => Sys2Proof.Machine.execHeartbeatMissed die s
  | .strapSample die level => Sys2Proof.Machine.execStrapSample die level s
  | .pldmFirmwareUpdate p => Sys2Proof.Machine.execPldmFirmwareUpdate p s
  | .firmwareConfirm => Sys2Proof.Machine.execFirmwareConfirm s
  | .dailiesInterval die => Sys2Proof.Machine.execDailiesInterval die s
  | .recordEntryWrite => Sys2Proof.Machine.execRecordEntryWrite s
  | .mainPowerGood p => Sys2Proof.Machine.execMainPowerGood p s
  | .powerLost mainLost => Sys2Proof.Machine.execPowerLost mainLost s
  | .bootComplete b => Sys2Proof.Machine.execBootComplete b s
  | .trialTimeout => Sys2Proof.Machine.execTrialTimeout s
  | .hostInterfaceReset => Sys2Proof.Machine.execHostInterfaceReset s
  | .i3cReset => Sys2Proof.Machine.execI3cReset s
  | .uncorrectableCodeword l c => Sys2Proof.Machine.execUncorrectableCodeword l c s
  | .partnerWakeSignal l => Sys2Proof.Machine.execPartnerWakeSignal l s
  | .landingArrival dst index => Sys2Proof.Machine.execLandingArrival dst index s
  | .holdoverOscillatorFailure => Sys2Proof.Machine.execHoldoverOscillatorFailure s
  | .frontEndLinkChange port up fast => Sys2Proof.Machine.execFrontEndLinkChange port up fast s
  | .malformedOrder descriptor crc => Sys2Proof.Machine.execMalformedOrder descriptor crc s

end Sys2Proof.Machine
end

