-- ==== Sys2Proof/Machine/Idle.lean ====
section
/-! DEFINITION. What a step does on an empty queue. -/

namespace Sys2Proof.Machine

/-- One tick of wall time passes while the device is powered (R33, R34); everything else waits for its command. The step of an
empty queue is the model's choice (DESIGN CHOICE, log 1). -/
def State.idle (s : State) : State :=
  if s.dev = .off then s else { s with time.wall := s.time.wall + 1 }

end Sys2Proof.Machine
end

