-- ==== Sys2Proof/Machine/Pins.lean ====
section
/-! DEFINITION. The module's status outputs and fibers: what a state drives on its pins, and where a link's lanes lie (R458 to R460). -/

namespace Sys2Proof.Machine

/-- Whether a status output is asserted, and so driven low: Table 17.4. In OFF every output is released. -/
def State.statAsserted (s : State) (n : Fin 4) : Bool :=
  decide (s.dev ≠ .off) &&
  match n with
  | 0 => decide (s.dev ≠ .boot) && decide (s.dev ≠ .failed)
  | 1 => s.dev.intake
  | 2 => decide (s.dev = .fenced) || decide (s.dev = .failed) || s.contra
  | 3 => s.holdover

/-- The connector of the optical bay that carries a link (R459). -/
def linkConnector (l : Fin 64) : Nat := l.val / 4

/-- The fiber of its connector on which a link's lane transmits (R459). -/
def txFiber (l : Fin 64) (lane : Fin 4) : Nat := 1 + 4 * (l.val % 4) + lane.val

/-- The fiber of its connector on which a link's lane receives (R459). -/
def rxFiber (l : Fin 64) (lane : Fin 4) : Nat := 17 + 4 * (l.val % 4) + lane.val

/-- The fiber of the front end's connector on which a port's lane transmits (R460). -/
def txFrontEnd (p : Fin 2) (lane : Fin 4) : Nat := 1 + 8 * p.val + lane.val

/-- The fiber on which it receives (R460). -/
def rxFrontEnd (p : Fin 2) (lane : Fin 4) : Nat := 5 + 8 * p.val + lane.val

end Sys2Proof.Machine
end

