-- ==== Sys2Proof/Safety.lean ====
section
/-! DEFINITION. What counts as a safe run, in the terms that the statements use: canonical memories and maps, orders that are
taken, completions, operations that issue, and the frames of the core operations. -/

namespace Sys2Proof.Claims

open Sys2Proof.Machine

/-! ## Safety -/

/-- The memories and the registers are in canonical form. -/
def canonical (s : State) : Bool := Memory.wf s.spad && Memory.wf s.hbm && mapWf resetWord s.regs

/-- A command that never stops the machine: any but the three that address the scratchpads or HBM by an address that may not
exist (R136, R254). -/
def neverStops : Instr → Bool
  | .copyin _ _ _ _ _ | .copyout _ _ _ _ _ | .drizzleRequest _ _ => false
  | _ => true

/-! ## What a command may touch -/

/-- A command that may change a byte of a scratchpad: a bundle operation or a unit of the core (results that fall due are performed), a
landing, the drizzle port, a scrub, the cut, LOAD and UNLOAD, what may end the take, and what resets the device. -/
def touchesSpad : Instr → Bool
  | .load .. | .unload .. | .drain .. | .gate .. | .replayStop .. | .deliveryReadComplete .. | .lullRun .. | .checkpoint .. | .add .. | .sub .. | .mul .. | .and ..
  | .or .. | .xor .. | .shl .. | .shr .. | .sar .. | .min .. | .max .. | .addi .. | .movi .. | .movhi .. | .cmp .. | .lds ..
  | .sts .. | .brb .. | .loop .. | .vadd .. | .vsub .. | .vmul .. | .vfma .. | .vmin .. | .vmax .. | .vcvt .. | .vcmp ..
  | .vsel .. | .vpset .. | .vperm .. | .vred .. | .vsfu .. | .vld .. | .vst .. | .vacc .. | .mma .. | .passStart ..
  | .mmaComplete .. | .pendingTakeup .. | .fadeOutEnd .. | .xfer .. | .sig .. | .setc .. | .wait .. | .waitSatisfied ..
  | .waitTimeout .. | .redc .. | .redx .. | .redxResult .. | .trig .. | .ssel .. | .topk .. | .send .. | .dispatch ..
  | .pages .. | .sieveFree .. | .cue .. | .landingRelease .. | .drizzleAccess .. | .scrubComplete .. | .cut ..
  | .proxiedResponse .. | .mainPowerGood .. | .powerLost .. | .trialTimeout .. | .i3cReset .. => true
  | _ => false

/-- A command that may change a byte of HBM: a landing or what applies stores that are due before its own access (R255), COPYIN and
COPYOUT, FETCH's chunks, the serving images and tables, mirror pieces, admission, ARM, a scrub, the patrol, a screen test's repairs,
the cut, and what resets the device. -/
def touchesHbm : Instr → Bool
  | .arm .. | .armJoin .. | .copyin .. | .copyout .. | .screenComplete .. | .patrolRead .. | .poisonWriteback .. | .prepare ..
  | .bootComplete .. | .admitOrder .. | .admitCopyComplete .. | .admitStandinTimeout ..
  | .deliveryReadComplete .. | .waitSatisfied .. | .waitTimeout .. | .cue .. | .landingRelease .. | .scrubComplete ..
  | .settle .. | .cut .. | .mirrorWrite .. | .proxiedResponse .. | .chunkArrival .. | .mainPowerGood .. | .powerLost ..
  | .trialTimeout .. | .i3cReset .. => true
  | _ => false

/-- A command that may change a context, a meter, a waiting step entry, a pending settle or a mirror queue. -/
def touchesServe : Instr → Bool
  | .arm .. | .armJoin .. | .serve .. | .admitOrder .. | .admitCopyComplete .. | .admitStandinTimeout ..
  | .deliveryReadComplete .. | .oqTail .. | .cqHead .. | .ringHead .. | .resumeTick .. | .settle .. | .prepare .. | .cut ..
  | .ringRecordWrite .. | .tailWrite .. | .mirrorSend .. | .mirrorWrite .. | .mirrorAcknowledgement .. | .proxiedRequest ..
  | .proxiedResponse .. | .mainPowerGood .. | .powerLost .. | .trialTimeout .. | .i3cReset .. => true
  | _ => false

/-- A command that may change the progress of FETCH. -/
def touchesFetch : Instr → Bool
  | .unload .. | .fetch .. | .deliveryReadComplete .. | .proxiedResponse .. | .chunkArrival .. | .mainPowerGood ..
  | .powerLost .. | .trialTimeout .. | .i3cReset .. => true
  | _ => false

/-- A command that may change what the management side holds: firmware, journal, call sheets, keys, cabling plan, straps, processors. -/
def touchesManage : Instr → Bool
  | .cabling .. | .callsheet .. | .screenComplete .. | .updDownload .. | .updVerify .. | .updActivate .. | .updConfirm ..
  | .updCancel .. | .dbgNonce .. | .dbgUnlock .. | .cnClear .. | .deliveryReadComplete .. | .proxiedResponse ..
  | .temperatureSample .. | .brakeEngage .. | .thermalTrip .. | .managementPeriod .. | .heartbeat .. | .heartbeatMissed ..
  | .strapSample .. | .pldmFirmwareUpdate .. | .firmwareConfirm .. | .mainPowerGood .. | .powerLost .. | .bootComplete ..
  | .trialTimeout .. | .i3cReset .. => true
  | _ => false

/-- A command that may change the plan offset: the arm, the end of a hold or of an exchange's pause, resumption, and what resets the
device. -/
def movesPlan : Instr → Bool
  | .arm .. | .armJoin .. | .deliveryReadComplete .. | .holdEnd .. | .resumeTick .. | .exchangePauseEnd ..
  | .proxiedResponse .. | .mainPowerGood .. | .powerLost .. | .trialTimeout .. | .i3cReset .. => true
  | _ => false

/-- A command that may step wall time: a time signal, the realignment at a gate, TB_STEP, and what resets the device. -/
def stepsWall : Instr → Bool
  | .regwr .. | .deliveryReadComplete .. | .registerWrite .. | .tbStep .. | .gate .. | .slate .. | .framePulseIn ..
  | .proxiedResponse .. | .ptpMessage .. | .mainPowerGood .. | .powerLost .. | .trialTimeout .. | .i3cReset .. => true
  | _ => false

/-! ## Orders (R344 to R347) -/

/-- The state in which an accepted order executes: its descriptor taken, HI_MB_NEXT advanced, the order counted. -/
def accepted (s : State) : State := s.descriptorTaken.accept

/-- The device takes an order: it is powered, SEQ is the next one, and the election straps do not contradict each other. -/
abbrev Taken (s : State) (o : Order) : Prop := s.dev ≠ .off ∧ s.hostRole ≠ 0 ∧ o.seq.toNat = s.nextSeq ∧ s.contra = false

/-- The order's completion is the last one queued. -/
abbrev Ended (t : State) (opcode : Nat) (o : Order) (v : Verdict) : Prop :=
  t.host.ready.getLast? = some (t.completion opcode o.seq o.tag v)

/-- The verdict OK with no detail. -/
def ok : Verdict := .plain .ok 0

/-- Data goes out to a host address: as a posted write, or from a proxied device to its gateway. -/
abbrev Written (s t : State) (addr : DWord) (data : List Byte) : Prop :=
  (if s.hostRole = 3 then Out.proxyAsk s.gateway .write addr data else .hostWrite addr data) ∈ t.out

/-- An interrupt goes out: as an MSI-X message, or from a proxied device to its gateway. -/
abbrev Interrupted (s t : State) (vector : Nat) : Prop :=
  (if s.hostRole = 3 then Out.proxyAsk s.gateway .irq (BitVec.ofNat 64 vector) [] else .msix vector) ∈ t.out

/-- No store of an HBM controller is due: an access to HBM performs none first (R255). -/
abbrev NoStoreDue (s : State) : Prop := ∀ k ∈ s.hbmStacks, ∀ l ∈ k.2.landing, s.planNow < l.p

/-- One F0 notice is counted. -/
abbrev Noticed (s t : State) : Prop := t.fget (Reg.FC_COUNT_COUNT 0) = min (s.fget (Reg.FC_COUNT_COUNT 0) + 1) (2 ^ 32 - 1)

/-- A background order waits under its SEQ. -/
abbrev Waits (t : State) (opcode : Nat) (o : Order) : Prop :=
  ∃ b ∈ t.host.background, b.opcode = opcode ∧ b.seq = o.seq ∧ b.tag = o.tag

/-- The completion of a background order is the last one queued. -/
abbrev Finished (t : State) (b : Background) (v : Verdict) : Prop :=
  t.host.ready.getLast? = some (t.completion b.opcode b.seq b.tag v)

/-- The image that a firmware slot holds: B, or A. -/
def slotImage (s : State) (slotB : Bool) : List Host.Cell := if slotB then s.manage.imgB else s.manage.imgA

/-- A part of a firmware image is written where it belongs in the inactive slot: over what was there, or at offset 0 into the erased
slot; flash takes its bytes, and the other slot keeps its image. -/
def WritesImage (s t : State) (offset : Nat) (data : List Byte) : Prop :=
  t.inactive = s.inactive ∧ memRead (slotImage t s.inactive) offset data.length = data ∧
  (∀ a, (a < offset ∨ offset + data.length ≤ a) →
    memGet (slotImage t s.inactive) a = memGet (if offset = 0 then [] else slotImage s s.inactive) a) ∧
  slotImage t (!s.inactive) = slotImage s (!s.inactive) ∧ .flashWrite (slotOffset s.inactive + offset) data ∈ t.out

/-- The data of a drizzle write. -/
def writeData : DrizzleOp → List Byte
  | .write _ data _ _ => data
  | .read _ _ _ => []

/-- The bytes that a drizzle request asks for. -/
def readLength : DrizzleOp → Nat
  | .read _ len _ => len
  | .write _ _ _ _ => 0

/-- A link hears ordered sets: the device listens, and the link is in ALIGNCHK or UP with a matching cabling check (R305, R320). -/
abbrev Hears (s : State) (l : Nat) : Prop :=
  s.dev ≠ .off ∧ s.dev ≠ .failed ∧ 3 ≤ s.linkState l ∧ s.linkState l ≤ 4 ∧ s.matched l = true

/-- A packet arrives whole: the link carries packets, and its SEQ is the one expected and its two checks hold (R294, R295). -/
abbrev Whole (s : State) (l : Nat) (rx : Rx) (p : Packet) : Prop :=
  s.carries l = true ∧ rx.seq = (s.link l).rxSeq ∧ rx.crcOk p = true ∧ rx.hcrcOk p = true ∧ rx.bad = false

/-! ## Operations of bundles (R168 to R173)

`u` is the state in which an operation has issued: its bundle is reached and its slot taken. -/

/-- No result of the cluster's cores falls due `lat` cycles from now. -/
abbrev Clear (u : State) (cl lat : Nat) : Prop :=
  ∀ key ∈ u.coresOf cl, ∀ w ∈ (u.core key).pend, w.due ≠ (u.seq cl).now + lat

/-- The results on their way on a core after an operation under PG with one result: written after its latency, poisoned where the
predicate is; none where the predicate is 0. -/
def queued (u : State) (key : Nat) (pg : BitVec 4) (lat : Nat) (x : Target) : List PendWrite :=
  let now := (u.seq (key / 16)).now
  match u.guard key pg with
  | none => (u.core key).pend
  | some b =>
    (u.core key).pend ++
      [{ due := now + lat, issued := now, tag := (u.core key).tags, target := if b then x.poisoned else x }]

/-- A core keeps everything but results on their way, scheduled bank uses, the pipes' intervals, and transfers sent: its register
files, accumulators, matrix slot, arrays and queues. -/
def KeepsCore (d c : Core) : Prop :=
  d = { c with pend := d.pend, tags := d.tags, uses := d.uses, pipeFree := d.pipeFree, inflight := d.inflight, sent := d.sent,
               lastFlagP := d.lastFlagP }

/-- The frame of an operation without flags: nothing but the cluster's results on their way differs. -/
def OnlyResults (t u : State) (cl : Nat) : Prop :=
  t = { u with cores := t.cores } ∧ (∀ key, KeepsCore (t.core key) (u.core key)) ∧
  ∀ key, key ∉ u.coresOf cl → t.core key = u.core key

/-- The operation gives every core on which it executes the one result `x`, and does nothing else. -/
def Gives (t u : State) (i : Issue) (lat : Nat) (x : Nat → Target) : Prop :=
  OnlyResults t u i.cl.val ∧ ∀ key ∈ u.coresOf i.cl.val, (t.core key).pend = queued u key i.pg lat (x key)

/-- A command that issued answers a next state with that result. -/
def Results (c : Instr) (s u : State) (i : Issue) (lat : Nat) (x : Nat → Target) : Prop :=
  ∃ t, exec c s = .next t ∧ Gives t u i lat x

/-- The sticky flags of a core. -/
def stickyFlags (s : State) (key : Nat) : BitVec 4 := BitVec.ofNat 4 (s.fget ⟨Reg.CL_FLAGS (key / 16) (key % 16), 3, 0⟩)

/-- No arithmetic trap is enabled on the cluster's cores. -/
abbrev NoTraps (u : State) (cl : Nat) : Prop := ∀ key ∈ u.coresOf cl, u.fget (Reg.CL_TRAP_EN_EN (key / 16) (key % 16)) = 0

/-- As `Gives`, with sticky flags: CL_FLAGS of the cores on which the operation executes gain `fl`; no other register differs. -/
def GivesFlags (t u : State) (i : Issue) (lat : Nat) (x : Nat → Target) (fl : Nat → BitVec 4) : Prop :=
  t = { u with cores := t.cores, regs := t.regs } ∧ (∀ key, KeepsCore (t.core key) (u.core key)) ∧
  (∀ key, key ∉ u.coresOf i.cl.val → t.core key = u.core key) ∧
  (∀ off, (∀ key ∈ u.coresOf i.cl.val, off ≠ Reg.CL_FLAGS (key / 16) (key % 16)) → t.reg off = u.reg off) ∧
  ∀ key ∈ u.coresOf i.cl.val, (t.core key).pend = queued u key i.pg lat (x key) ∧
    stickyFlags t key = if (u.guard key i.pg).isSome then stickyFlags u key ||| fl key else stickyFlags u key

/-- A vector operation that issued writes, lane by lane, `f`, with the poison `p`, and sets the lanes' flags. -/
def Lanes (c : Instr) (s u : State) (i : Issue) (lat : Nat) (vd : BitVec 5) (p : Nat → BitVec 64)
    (f : Nat → Nat → Nat × BitVec 4) : Prop :=
  let rs := fun key => (upFrom 0 128).map (f key)
  ∃ t, exec c s = .next t ∧
    GivesFlags t u i lat (fun key => .vreg vd.toNat { v := BitVec.ofNat 4096 (joinLanes ((rs key).map (·.1))), p := p key })
      (fun key => flagsOf (rs key))

/-- The pipe's issue interval has passed on every core of the cluster (Table 05.9). -/
abbrev PipeReady (u : State) (cl : Nat) (p : Fin 2) : Prop :=
  ∀ key ∈ u.coresOf cl, (u.core key).pipeFree.getD p.val 0 ≤ (u.seq cl).now

/-- No scheduled access of the cluster's cores uses a bank in this cycle or later, no SIEVE runs, and the continuity checker is off. -/
abbrev BanksFree (u : State) (cl : Nat) : Prop :=
  u.checking cl = false ∧ (u.seq cl).sieve = none ∧
  ∀ key ∈ u.coresOf cl, ∀ v ∈ (u.core key).arrayUses ++ (u.core key).uses, v.cycle < (u.seq cl).now

/-- Granules [g, g + n) of a core hold no bit error. -/
abbrev CleanGranules (u : State) (key g n : Nat) : Prop := ∀ k, k < n → (u.granMeta key (g + k)).check = .clean

/-- Poison flags of granules [g, g + n). -/
def granulePoison (u : State) (key g n : Nat) : List Bool := (upFrom g n).map fun k => (u.granMeta key k).poison

/-- Poison flags of the granules that bytes [a, a + n) of HBM deliver: a poisoned unit delivers four poisoned granules (R148). -/
def unitPoison (s : State) (a n : Nat) : List Bool := granFlags ((upFrom (a / 32) (n / 32)).map fun k => (s.unitMeta k).poison)

/-- No unit of HBM holds a bit error, and no row is retired. -/
abbrev CleanUnits (s : State) : Prop := (∀ k, (s.unitMeta k).check = .clean) ∧ s.manage.retired = []

/-- The command halts the cluster with a reason. -/
def HaltsWith (c : Instr) (s : State) (cl reason : Nat) : Prop :=
  ∃ t, exec c s = .next t ∧ t.halted cl = true ∧ t.fget (Reg.CL_SEQ_HALT_REASON cl) = reason

end Sys2Proof.Claims
end

