-- ==== Sys2Proof/Certificates/Slice0/Obligations.lean ====
section
/-! DEFINITION. The statements for the provers: what the commands of every family do, in the terms of Sys2Proof/Safety.lean. -/

open Sys2Proof Sys2Proof.Machine Sys2Proof.Claims

/-! ## The queue of commands, reset, and stops -/

/-- A step takes the command at the front of the queue and runs it with the queue's rest. -/
def Obligations.StepRunsTheFrontCommand : Prop :=
  ∀ (c : Instr) (rest : List Instr) (s : State),
    step { s with pending := c :: rest } = exec c { s with pending := rest }

/-- The state after reset: BOOT (HI_STATUS.STATE resets to 1), the next order 1 (R345), every context free (R219), no drizzle request and
no command waiting, memories and registers in canonical form. -/
def Obligations.ResetState : Prop :=
  State.reset.dev = .boot ∧ State.reset.nextSeq = 1 ∧ (∀ c, (State.reset.ctx c).st = .free) ∧ (∀ k, (State.reset.core k).drizzle = []) ∧
  canonical State.reset = true ∧ State.reset.pending = []

/-- Every step keeps the scratchpads, HBM and the registers in canonical form: keys rising, and no entry equal to what an unlisted
key reads as. -/
def Obligations.StepKeepsCanonicalForm : Prop :=
  ∀ s t : State, canonical s = true → step s = .next t → canonical t = true

/-- Every command but COPYIN, COPYOUT and DRIZZLE_REQUEST answers a next state in every state, and these three stop only with the
fault noSuchAddress. That the machine stops there is the model's choice (R136 and R254 say only that the addresses do not exist). -/
def Obligations.OnlyMissingAddressesStop : Prop :=
  ∀ (c : Instr) (s : State),
    (∃ t, exec c s = .next t) ∨ (neverStops c = false ∧ exec c s = .fault .noSuchAddress)

/-- The frame of every command on the memories and the units: scratchpad bytes, HBM bytes, the serving engine, FETCH and the
management side change only under the commands that the spec gives an effect on them; every other command leaves each as it is.
A command never changes the queue of the commands behind it. -/
def Obligations.MemoriesKept : Prop :=
  ∀ (c : Instr) (s t : State), exec c s = .next t →
    t.pending = s.pending ∧
    (touchesSpad c = false → t.spad = s.spad) ∧ (touchesHbm c = false → t.hbm = s.hbm) ∧
    (touchesServe c = false → t.serve = s.serve) ∧ (touchesFetch c = false → t.fetch = s.fetch) ∧
    (touchesManage c = false → t.manage = s.manage)

/-- Plan time and wall time: a command that is no arm, no end of a hold and no resumption leaves the plan offset; the end of a hold
adds 512 ticks for each held frame, or nothing while the hold lasts (R35); a command that is no time signal, gate or TB_STEP leaves
wall time, and within a take a register write, by the bus, by REGWR or as TB_STEP, leaves both (R36). -/
def Obligations.PlanAndWallTime : Prop :=
  (∀ (c : Instr) (s t : State), exec c s = .next t →
    (movesPlan c = false → t.time.offset = s.time.offset) ∧ (stepsWall c = false → t.time.wall = s.time.wall)) ∧
  (∀ s t : State, exec .holdEnd s = .next t →
    t.time.offset = s.time.offset ∨
      ∃ h, s.time.hold = some h ∧ t.time.offset = s.time.offset + BitVec.ofNat 64 (512 * h.frames)) ∧
  (∀ (c : Instr) (s t : State), s.dev.inTake = true → exec c s = .next t →
    ((∃ o arg0 arg1, c = .regwr o arg0 arg1) ∨ (∃ p w off v, c = .registerWrite p w off v) ∨ (∃ p v, c = .tbStep p v)) →
    t.time.offset = s.time.offset ∧ t.time.wall = s.time.wall)

/-! ## Receiving orders -/

/-- Receipt of an order, shown on MALFORMED_ORDER, which every state but OFF admits, by a device with a host role: the SEQ expected next
advances HI_MB_NEXT and HI_ORDERS, and completes MALFORMED, or in CONTRA REFUSED, which DD_REFUSED counts (R344, R347, R401); a
higher SEQ completes GAP; a lower one whose completion is retained is answered by it again, with DUP, and counted in HI_DUPS, one
under way is counted there and answered by nothing, and any other completes STALE, all three leaving HI_MB_NEXT (R344). A device in
OFF or without a host role receives none (R338). A well-formed descriptor has no effect as MALFORMED_ORDER: the model's choice (log
119). UNLOAD outside LOADED and SCREEN outside READY complete STATE (R347). -/
def Obligations.OrdersReceived : Prop :=
  (∀ (s : State) (d : List Byte) (crc : Word),
     let o := (descriptorOf d crc).order
     let op := (descriptorOf d crc).opcode
     let again := s.host.kept.find? fun c => decide (c.seq = o.seq)
     let runs := s.host.background.any fun b => decide (b.seq = o.seq)
     ((descriptorOf d crc).formed = true → exec (.malformedOrder d crc) s = .next s) ∧
     (s.dev = .off ∨ s.hostRole = 0 → exec (.malformedOrder d crc) s = .next s) ∧
     ((descriptorOf d crc).formed = false → s.dev ≠ .off → s.hostRole ≠ 0 →
       (o.seq.toNat = s.nextSeq → s.nextSeq < 2 ^ 64 - 1 →
         (s.contra = false → ∃ t, exec (.malformedOrder d crc) s = .next t ∧ t.nextSeq = s.nextSeq + 1 ∧
           t.fget Reg.HI_ORDERS_COUNT = min (s.fget Reg.HI_ORDERS_COUNT + 1) (2 ^ 32 - 1) ∧ Ended t op o (.plain .malformed 0)) ∧
         (s.contra = true → ∃ t n, exec (.malformedOrder d crc) s = .next t ∧ t.nextSeq = s.nextSeq + 1 ∧
           t.fget Reg.DD_REFUSED_COUNT = min (s.fget Reg.DD_REFUSED_COUNT + 1) (2 ^ 32 - 1) ∧ Ended t op o (.plain .refused n))) ∧
       (s.nextSeq < o.seq.toNat → ∃ t, exec (.malformedOrder d crc) s = .next t ∧ t.nextSeq = s.nextSeq ∧
         Ended t op o (.plain .gap 0)) ∧
       (o.seq.toNat < s.nextSeq →
         (∀ c, again = some c → ∃ t, exec (.malformedOrder d crc) s = .next t ∧ t.nextSeq = s.nextSeq ∧
           t.host.ready = s.host.ready ++ [{ c with dup := true }] ∧
           t.fget Reg.HI_DUPS_COUNT = min (s.fget Reg.HI_DUPS_COUNT + 1) (2 ^ 32 - 1)) ∧
         (again = none → runs = true → ∃ t, exec (.malformedOrder d crc) s = .next t ∧ t.nextSeq = s.nextSeq ∧
           t.host.ready = s.host.ready ∧ t.fget Reg.HI_DUPS_COUNT = min (s.fget Reg.HI_DUPS_COUNT + 1) (2 ^ 32 - 1)) ∧
         (again = none → runs = false → ∃ t, exec (.malformedOrder d crc) s = .next t ∧ t.nextSeq = s.nextSeq ∧
           Ended t op o (.plain .stale 0))))) ∧
  (∀ (s : State) (o : Order), Taken s o →
     (s.dev ≠ .loaded → ∃ t, exec (.unload o) s = .next t ∧ t.dev = s.dev ∧ Ended t 0x02 o (.plain .state 0)) ∧
     (s.dev ≠ .ready → ∃ t, exec (.screen o) s = .next t ∧ t.dev = s.dev ∧ Ended t 0x11 o (.plain .state 0)))

/-! ## Orders of the take -/

/-- LOAD in READY makes a reel that its checks pass the active one, in LOADED; STAGE in RUNNING makes one the staged reel beside the
active one; a reel that does not verify is refused with 0x20 and changes neither bank (R350, R352, R354, R358). UNLOAD in LOADED
starts the scrub of every good core and every stack and waits (R153, R266, R349); the SCRUB_COMPLETE that leaves every scrub done ends
it OK in READY without a reel, and one before it leaves it waiting. -/
def Obligations.LoadStageUnload : Prop :=
  (∀ (s : State) (o : Order), Taken s o → (accepted s).isolated = false →
    (∀ r, s.dev = .ready → (accepted s).screening = false →
      ((accepted s).loadRefused r = none →
        ∃ t, exec (.load o r) s = .next t ∧ t.dev = .loaded ∧ t.take.active = some r ∧ t.take.staged = none ∧ Ended t 0x01 o ok) ∧
      ((accepted s).reelVerifies r = false →
        ∃ t, exec (.load o r) s = .next t ∧ t.dev = .ready ∧ t.take = s.take ∧ Ended t 0x01 o (.plain .refused 0x20))) ∧
    (∀ r old, s.dev = .running → s.take.exchange = none → s.take.active = some old →
      ((accepted s).stageRefused old r = none → (accepted s).stageChecks r = none →
        ∃ t, exec (.stage o r) s = .next t ∧ t.dev = .running ∧ t.take.active = some old ∧ t.take.staged = some r ∧
          Ended t 0x01 o ok) ∧
      ((accepted s).reelVerifies r = false →
        ∃ t, exec (.stage o r) s = .next t ∧ t.dev = .running ∧ t.take = s.take ∧ Ended t 0x01 o (.plain .refused 0x20))) ∧
    (s.dev = .loaded → ((accepted s).running? 0x02) = none →
      ∃ t, exec (.unload o) s = .next t ∧ (∀ key ∈ s.goodCores, t.scrubbing key = true) ∧
        (∀ i, i < 8 → t.flag (Reg.HM_SCRUB_BUSY i) = true) ∧ Waits t 0x02 o)) ∧
  (∀ (s : State) (core : Option CoreId) (stack : Fin 8) (b : Background), s.running? 0x02 = some b →
    let u := match core with
      | some c => s.scrubCoreDone c.key
      | none => s.scrubStackDone stack.val
    (u.allScrubbed = true → ∃ t, exec (.scrubComplete core stack) s = .next t ∧ t.dev = .ready ∧ t.take.active = none ∧
      t.take.staged = none ∧ t.flag Reg.HI_GRID_MAPPED = false ∧ Finished t b ok) ∧
    (u.allScrubbed = false → ∃ t, exec (.scrubComplete core stack) s = .next t ∧ t.dev = s.dev ∧ t.take = s.take ∧ t.host = s.host))

/-- ARM with every check passed: the device is ARMED, and the plan offset is the wall tick of the first cue, at which plan time is
therefore 0, with cut index 0; a tick that is no multiple of 4,096 is refused (R34). With JOIN plan time is ARG2 at that wall tick and
the cut index is ARG1[63:8], and an admission that completed has joined (R356, R357, R391). A check of Table 12.10 that fails leaves
the device LOADED, shows its code in HI_ARM, and ARM, with JOIN or without, completes REFUSED with it (R356). -/
def Obligations.Arming : Prop :=
  ∀ (s : State) (o : Order) (r : Reel), Taken s o → s.dev = .loaded → s.take.active = some r → ((accepted s).running? 0x13) = none →
    let at_ : State → DWord → Int := fun t first => ({ t with time := { t.time with wall := first, frozen := none } }).planNow
    (∀ first, firstFail ((accepted s).armChecks r first.toNat) = none →
      ∃ t, exec (.arm o first) s = .next t ∧ t.dev = .armed ∧ t.time.offset = first ∧ t.take.lastCut = 0 ∧ at_ t first = 0 ∧
        t.fget Reg.SV_CUTS_CUTS = 0 ∧ Ended t 0x04 o ok) ∧
    (∀ first : DWord, first.toNat % 4096 ≠ 0 →
      ∃ t code, exec (.arm o first) s = .next t ∧ t.dev = .loaded ∧ 0 < code ∧ Ended t 0x04 o (.plain .refused code)) ∧
    (∀ first code item, firstFail ((accepted s).armChecks r first.toNat) = some (code, item) →
      ∃ t, exec (.arm o first) s = .next t ∧ t.dev = .loaded ∧ t.fget Reg.HI_ARM_CODE = code % 256 ∧
        Ended t 0x04 o (.plain .refused code)) ∧
    (∀ first arg1 arg2 : DWord, bitsOf 7 1 arg1.toNat = 0 → bitOf arg1.toNat 0 = true →
      (firstFail ((accepted s).armChecks r first.toNat) = none →
        ∃ t, exec (.armJoin o first arg1 arg2) s = .next t ∧ t.dev = .armed ∧ t.time.offset = first - arg2 ∧
          at_ t first = arg2.toInt ∧ t.take.lastCut = arg2.toInt ∧ t.take.joined = true ∧
          t.fget Reg.SV_CUTS_CUTS = bitsOf 63 8 arg1.toNat ∧
          (s.faults.admission = .complete ∨ s.faults.admission = .incomplete → t.faults.admission = .joined) ∧ Ended t 0x04 o ok) ∧
      (∀ code item, firstFail ((accepted s).armChecks r first.toNat) = some (code, item) →
        ∃ t, exec (.armJoin o first arg1 arg2) s = .next t ∧ t.dev = .loaded ∧ t.fget Reg.HI_ARM_CODE = code % 256 ∧
          Ended t 0x04 o (.plain .refused code)))

/-- DRAIN in ARMED ends the take; in RUNNING and HOLDING the device drains towards the named cut, and the order waits for it
(R349). EXCHANGE of a staged reel at a cut two ahead is pending under K and T_J; with K = 0, and as EXCHANGE_CANCEL, it drops the
pending one (R359). SERVE at the lead keeps the entries for a settle (R218, R223). -/
def Obligations.DrainExchangeServe : Prop :=
  ∀ (s : State) (o : Order), Taken s o →
    (s.dev = .armed → ∀ k, ∃ t, exec (.drain o k) s = .next t ∧ t.dev = .loaded ∧ t.time.gates = [] ∧ Ended t 0x05 o ok) ∧
    (s.dev = .running ∨ s.dev = .holding → ∀ k : DWord, (accepted s).fget Reg.SV_CUTS_CUTS < k.toNat →
      ∃ t, exec (.drain o k) s = .next t ∧ t.dev = .draining ∧ t.take.drainAt = some k.toNat ∧ Waits t 0x05 o) ∧
    ((s.dev = .running ∨ s.dev = .holding) → (accepted s).recState < 2 → ∀ k tj : DWord, k ≠ 0 → s.take.exchange = none →
      s.take.staged.isSome = true → (accepted s).fget Reg.SV_CUTS_CUTS + 2 ≤ k.toNat → tj.toNat % 4096 = 0 →
      ∃ t, exec (.exchange o k tj) s = .next t ∧ t.take.exchange = some (k.toNat, tj.toNat) ∧ Waits t 0x06 o) ∧
    ((s.dev = .running ∨ s.dev = .holding) → (accepted s).recState < 2 → ∀ tj : DWord,
      (∃ t, exec (.exchange o 0 tj) s = .next t ∧ t.take.exchange = none ∧ Ended t 0x06 o ok) ∧
      (∃ t, exec (.exchangeCancel o) s = .next t ∧ t.take.exchange = none ∧ Ended t 0x06 o ok)) ∧
    (2 ≤ s.dev.code → s.dev ≠ .failed → (accepted s).recState < 2 → (accepted s).fget Reg.SV_CTRL_ROLE = 1 →
      ∀ es : List StepEntry, 0 < es.length → es.length ≤ 64 →
      ∃ t q, exec (.serve o es) s = .next t ∧ t.serve.orders = s.serve.orders ++ [q] ∧ q.seq = o.seq ∧ q.entries = es ∧ q.fromEntry = 0 ∧
        Waits t 0x07 o)

/-- COPYIN into HBM outside the weights writes its bytes and no others, and increments the counter that ARG2 flags (R348, R255);
COPYIN into a scratchpad queues drizzle writes of at most 4,096 bytes each, in the data's order, the last of which increments that
counter, and waits for them (R141, R348). COPYOUT from HBM writes to host memory what HBM holds there, through the gateway on a
proxied device, and increments the counter that ARG2 flags (R340, R348); COPYOUT from a scratchpad queues drizzle reads of the length
asked for, and waits for them. -/
def Obligations.HostCopies : Prop :=
  (∀ (s : State) (o : Order) (arg0 arg1 arg2 : DWord) (data : List Byte), Taken s o →
     (accepted s).copyinAdmits arg0 arg1 data.length = true → copyFormed arg0 arg1 = true → data ≠ [] →
     (accepted s).copyBusy arg0 = false → copyBeyond arg0 arg1 data.length = false →
     (copySpace arg0 = 0 → s.inWeights arg1.toNat data.length = false → s.isRetired arg1.toNat (32 * ceilDiv data.length 32) = false →
       NoStoreDue s →
       ∃ t, exec (.copyin o arg0 arg1 arg2 data) s = .next t ∧ memRead t.hbm arg1.toNat data.length = data ∧
         (∀ a, (a < arg1.toNat ∨ arg1.toNat + data.length ≤ a) → memGet t.hbm a = memGet s.hbm a) ∧
         (∀ c, copyCounter arg0 arg2 = some c → t.counter c = (s.counter c + 1) % 2 ^ 32) ∧
         t.spad = s.spad ∧ t.cores = s.cores ∧ Ended t 0x08 o ok) ∧
     (∀ key, copySpace arg0 = 1 → (accepted s).copyKey arg0 = some key →
       ∃ t rs, exec (.copyin o arg0 arg1 arg2 data) s = .next t ∧ (t.core key).drizzle = (s.core key).drizzle ++ rs ∧
         rs.flatMap (fun r => writeData r.op) = data ∧ (∀ r ∈ rs, (writeData r.op).length ≤ 4096) ∧
         (∀ r, rs.getLast? = some r → ∃ a bs ps, r.op = .write a bs ps (copyCounter arg0 arg2)) ∧
         t.hbm = s.hbm ∧ t.spad = s.spad ∧ Waits t 0x08 o)) ∧
  (∀ (s : State) (o : Order) (arg0 arg1 arg2 : DWord) (d : HostSpan), Taken s o → 2 ≤ s.dev.code → s.dev ≠ .failed →
     copyFormed arg0 arg1 = true → 0 < d.len → (accepted s).copyBusy arg0 = false → copyBeyond arg0 arg1 d.len = false →
     (copySpace arg0 = 0 → NoStoreDue s →
       ∃ t, exec (.copyout o arg0 arg1 arg2 d) s = .next t ∧ Written s t d.addr (memRead s.hbm arg1.toNat d.len) ∧
         (∀ c, copyCounter arg0 arg2 = some c → t.counter c = (s.counter c + 1) % 2 ^ 32) ∧
         t.hbm = s.hbm ∧ t.spad = s.spad ∧ Ended t 0x09 o ok) ∧
     (∀ key, copySpace arg0 = 1 → (accepted s).copyKey arg0 = some key →
       ∃ t rs, exec (.copyout o arg0 arg1 arg2 d) s = .next t ∧ (t.core key).drizzle = (s.core key).drizzle ++ rs ∧
         (rs.map fun r => readLength r.op).sum = d.len ∧ (∀ r ∈ rs, readLength r.op ≤ 4096) ∧ t.hbm = s.hbm ∧ t.spad = s.spad ∧
         Waits t 0x09 o))

/-- REGRD answers in RESULT what a 32-bit read over its path returns, with that read's effects; REGWR writes as a 32-bit write, and
completes FAILED 0x50 where the register's die is out of reach (Table 12.6, R400, R440). CABLING stores a plan of 64 links, a rack
number up to 4,094 and the block range (R316, R321); CALLSHEET stores a well-formed sheet with a GENERATION one above the one in use in
the other copy, and writes its bytes to flash (R336); what either cannot store is MALFORMED, which is the model's choice (log 119).
FITNESS writes the retired rows to host memory (R387). -/
def Obligations.RegisterAndPositionOrders : Prop :=
  (∀ (s : State) (o : Order), Taken s o →
     (∀ arg0 : DWord, ∃ t, exec (.regrd o arg0) s = .next t ∧
       t.regs = ((accepted s).readBar .regrd .w32 arg0.toNat).2.regs ∧
       Ended t 0x0A o { status := .ok, detail := 0, result := ((accepted s).readBar .regrd .w32 arg0.toNat).1, codes := [] }) ∧
     (∀ arg0 arg1 : DWord,
       ((accepted s).farRegister arg0.toNat = false →
         ∃ t u, exec (.regwr o arg0 arg1) s = .next t ∧ exec (.registerWrite .regrd .w32 arg0.toNat arg1) (accepted s) = .next u ∧
           t.regs = u.regs ∧ t.dev = u.dev ∧ Ended t 0x0B o ok) ∧
       ((accepted s).farRegister arg0.toNat = true →
         ∃ t, exec (.regwr o arg0 arg1) s = .next t ∧ t.regs = (accepted s).regs ∧ Ended t 0x0B o (.plain .failed 0x50)))) ∧
  (∀ (s : State) (o : Order), Taken s o →
     (∀ plan rack lo hi, (s.dev = .ready ∨ s.dev = .loaded) →
       (plan.length = 64 → rack ≤ 4094 →
         ∃ t, exec (.cabling o plan rack lo hi) s = .next t ∧ t.manage.plan = plan ∧ t.manage.rack = rack ∧ t.manage.blockLo = lo ∧
           t.manage.blockHi = hi ∧ Ended t 0x0C o ok) ∧
       (plan.length ≠ 64 ∨ 4094 < rack →
         ∃ t, exec (.cabling o plan rack lo hi) s = .next t ∧ t.manage = s.manage ∧ Ended t 0x0C o (.plain .malformed 0))) ∧
     (∀ payload, s.dev ≠ .boot →
       (∀ cur, sheetFormed payload = true → s.manage.sheets.length = 2 → s.chosenSheet = some cur →
         ∃ t off, exec (.callsheet o payload) s = .next t ∧
           some { sheetOf payload with generation := (cur.generation + 1) % 2 ^ 32, crcOk := true } ∈ t.manage.sheets ∧
           some cur ∈ t.manage.sheets ∧ .flashWrite off (sheetBytes payload (cur.generation + 1)) ∈ t.out ∧
           t.manage.sheet = s.manage.sheet ∧ Ended t 0x0D o ok) ∧
       (sheetFormed payload = false →
         ∃ t, exec (.callsheet o payload) s = .next t ∧ t.manage = s.manage ∧ Ended t 0x0D o (.plain .malformed 0))) ∧
     (∀ paddr, ∃ t, exec (.fitness o paddr) s = .next t ∧ Written s t paddr (retiredBytes s.manage.retired) ∧ Ended t 0x12 o ok))

/-- RESET, in every state but OFF and in CONTRA too, is noted until the read behind its completion is answered, which enters BOOT
(R341, R401, Table 12.6). RESUME in FENCED keeps the grant's EPOCH and WR and resumes nothing yet, or is refused with the code of its
check (R384). SCREEN runs in the background in READY, and SCREEN_COMPLETE ends it OK with the result applied (R388). ADMIT starts the
copy of the stand-in's mirror, or is refused with 0x43 where the mirror is of another cut (R389, R390); ADMIT_COPY_COMPLETE ends it OK
with the admission COMPLETE, and ADMIT_STANDIN_TIMEOUT ends it FAILED 0x44 with the admission INCOMPLETE and the lost contexts listed
(R390, R391). -/
def Obligations.ResetResumeScreenAdmit : Prop :=
  (∀ (s : State) (o : Order), s.dev ≠ .off → s.hostRole ≠ 0 → o.seq.toNat = s.nextSeq →
     ∃ t, exec (.reset o) s = .next t ∧ t.host.resetAfter = some o.seq ∧ t.dev = s.dev ∧ Ended t 0x0E o ok) ∧
  (∀ (s : State) (r : HostRead) (rest : List HostRead) (c : Completion), s.dev ≠ .off → (s.hostRole = 1 ∨ s.hostRole = 2) →
     s.host.reads = r :: rest → s.host.resetAfter = some c.seq → .completion c ∈ s.host.posted.take r.own →
     ∃ t, exec .deliveryReadComplete s = .next t ∧ t.dev = .boot) ∧
  (∀ (s : State) (o : Order), Taken s o →
     (∀ epoch wr cut, s.dev = .fenced → (accepted s).recState < 2 →
       ((accepted s).resumeRefused epoch wr cut = none →
         ∃ t st, exec (.resume o epoch wr cut) s = .next t ∧ t.time.stop = some st ∧ st.wr = wr.toNat ∧ t.dev = .fenced ∧
           t.fget Reg.FC_EPOCH_VALUE = epoch.toNat ∧ t.fget Reg.FC_RESUME_VALUE = wr.toNat ∧ Ended t 0x10 o ok) ∧
       (∀ d, (accepted s).resumeRefused epoch wr cut = some d →
         ∃ t, exec (.resume o epoch wr cut) s = .next t ∧ t.time = s.time ∧ t.dev = .fenced ∧ Ended t 0x10 o (.plain .refused d))) ∧
     (s.dev = .ready → (accepted s).isolated = false → ((accepted s).running? 0x11) = none →
       ∃ t, exec (.screen o) s = .next t ∧ t.dev = .ready ∧ Waits t 0x11 o)) ∧
  (∀ (s : State) (b : Background) (r : ScreenResult), s.running? 0x11 = some b →
     ∃ t, exec (.screenComplete r) s = .next t ∧ Finished t b ok ∧ (∀ k ∈ r.badSlots, k ∈ t.manage.badSlots) ∧
       (∀ x ∈ r.retired, x ∈ t.manage.retired)) ∧
  (∀ (s : State) (o : Order) (r : Reel) (arg0 cut : DWord) (recs : Bool), Taken s o → (accepted s).isolated = false → s.dev = .loaded →
     s.take.active = some r → s.faults.admission = .idle →
     ((r.leadDev = s.deviceId → recs = true) →
       ∃ t, exec (.admitOrder o arg0 cut cut recs) s = .next t ∧ t.faults.admission = .copying ∧ t.serve.ctxs = [] ∧ Waits t 0x13 o) ∧
     (∀ other, other ≠ cut → ∃ t, exec (.admitOrder o arg0 cut other recs) s = .next t ∧ t.faults.admission = .idle ∧
       Ended t 0x13 o (.plain .refused 0x43))) ∧
  (∀ (s : State) (r : Reel) (b : Background) (ctxs : List MirrorCtx) (meters : List (Nat × Nat × Nat)),
     s.faults.admission = .copying → s.take.active = some r → s.running? 0x13 = some b →
     (∃ t, exec (.admitCopyComplete ctxs meters) s = .next t ∧ t.faults.admission = .complete ∧ Finished t b ok) ∧
     (∀ lost, ∃ t, exec (.admitStandinTimeout ctxs meters lost) s = .next t ∧ t.faults.admission = .incomplete ∧
       t.serve.lostCtxs = lost ∧
       Finished t b { status := .failed, detail := 0x44, result := BitVec.ofNat 64 lost.length, codes := [] }))

/-- FETCH in LOADED with HBM scrubbed and the shard not verified starts the fetch and reads the first QPS chunks in manifest order, each
over a port that its target allows (R271, R272); a target without a port ends it FAILED with code 4, and a shard without chunks is
verified at once. Outside LOADED or before the scrub it completes STATE with code 3, while a fetch runs BUSY with code 5, and for a
verified shard OK with code 0 (R273). A chunk whose hash matches is written and counted, with REREAD off, and the last one ends the fetch
with the shard digest shown (R272); a chunk whose hash differs is read again and counted while RETRY allows it, and else ends the fetch
with code 1 (R272); a read that fails in transport ends it with code 2 (R273). -/
def Obligations.ShardFetch : Prop :=
  (∀ (s : State) (o : Order), Taken s o → (accepted s).isolated = false →
    (s.dev ≠ .loaded ∨ (accepted s).hbmScrubbed = false →
      ∃ t, exec (.fetch o) s = .next t ∧ t.fget Reg.FE_FETCH_STAT_CODE = 3 ∧ Ended t 0x03 o (.plain .state 3)) ∧
    (s.dev = .loaded → (accepted s).hbmScrubbed = true →
      ((accepted s).fetching = true →
        ∃ t, exec (.fetch o) s = .next t ∧ t.fget Reg.FE_FETCH_STAT_CODE = 5 ∧ Ended t 0x03 o (.plain .busy 5)) ∧
      (∀ r, (accepted s).fetching = false → s.take.active = some r →
        ((accepted s).shardVerified r = true →
          ∃ t, exec (.fetch o) s = .next t ∧ t.fget Reg.FE_FETCH_STAT_CODE = 0 ∧ Ended t 0x03 o ok) ∧
        ((accepted s).shardVerified r = false →
          ((∀ c ∈ s.chunks, (accepted s).targetPorts r c.target ≠ []) → s.chunks ≠ [] →
            ∃ t, exec (.fetch o) s = .next t ∧ t.fetching = true ∧ t.fetch.verified = [] ∧ Waits t 0x03 o ∧
              ∀ i c, i < max 1 (min 64 ((accepted s).fget Reg.FE_FETCH_CFG_QPS)) → s.chunks[i]? = some c →
                ∃ p d, p ∈ (accepted s).targetPorts r c.target ∧ (c.target, d) ∈ r.manifest.targets ∧
                  .chunkRead i p d d.ipv4 c.raddr c.len ∈ t.out) ∧
          ((accepted s).running? 0x03 = none →
            ((∃ c ∈ s.chunks, (accepted s).targetPorts r c.target = []) →
              ∃ t, exec (.fetch o) s = .next t ∧ t.fget Reg.FE_FETCH_STAT_CODE = 4 ∧ Ended t 0x03 o (.plain .failed 4)) ∧
            (s.chunks = [] → ∃ t, exec (.fetch o) s = .next t ∧ t.fget Reg.FE_FETCH_STAT_STATE = 2 ∧ Ended t 0x03 o ok)))))) ∧
  (∀ (s : State) (i : Nat) (c : Chunk), s.fetching = true → s.outstanding.contains i = true → s.chunks[i]? = some c →
    (∀ data, data.length = c.len →
      (sha256 data = c.sha → data.length % 32 = 0 → c.dest % 32 = 0 → s.flag Reg.FE_FETCH_CFG_REREAD = false →
        s.isRetired c.dest c.len = false →
        ∃ t, exec (.chunkArrival i data false) s = .next t ∧ i ∈ t.fetch.verified ∧ memRead t.hbm c.dest c.len = data ∧
          t.fget Reg.FE_FETCH_DONE_CHUNKS = (s.fetch.verified.length + 1) % 2 ^ 18 ∧
          (s.fetch.verified.length + 1 = s.chunks.length →
            t.fget Reg.FE_FETCH_STAT_STATE = 2 ∧ (∀ b, s.running? 0x03 = some b → Finished t b ok) ∧
            ∀ k, k < 8 → t.fget (Reg.FE_SHARD_DIGEST_BYTES k) = ofBytes (((shaBytes (shardDigest s.chunks)).drop (4 * k)).take 4))) ∧
      (∀ r, sha256 data ≠ c.sha → s.take.active = some r →
        let n := mapGet (fun _ => 0) s.fetch.retries i
        (n < s.fget Reg.FE_FETCH_CFG_RETRY → s.targetPorts r c.target ≠ [] →
          ∃ t p d, exec (.chunkArrival i data false) s = .next t ∧ t.fetching = true ∧
            t.fget Reg.FE_FETCH_RETRIES_COUNT = min (s.fget Reg.FE_FETCH_RETRIES_COUNT + 1) (2 ^ 32 - 1) ∧
            .chunkRead i p d d.ipv4 c.raddr c.len ∈ t.out) ∧
        (s.fget Reg.FE_FETCH_CFG_RETRY ≤ n →
          ∃ t, exec (.chunkArrival i data false) s = .next t ∧ t.fetching = false ∧ t.fget Reg.FE_FETCH_STAT_CODE = 1))) ∧
    (∀ data, ∃ t, exec (.chunkArrival i data true) s = .next t ∧ t.fetching = false ∧ t.fget Reg.FE_FETCH_STAT_CODE = 2))

/-! ## Management orders -/

/-- The update orders on a device with no trial and no update on the other path: UPD_DOWNLOAD writes its bytes into the inactive slot
and nothing into the active one, records the image as downloaded once all of it has come, and refuses a part that is no multiple of
4 KiB or does not fit; UPD_VERIFY records a valid image as verified, and completes FAILED with its code in SC_UPD otherwise;
UPD_ACTIVATE records a trial of three boots; UPD_CANCEL abandons the download, and a trial that has not booted (R411, R413, R414). A
trial image that is confirmed becomes the active one: UPD_CONFIRM, and FIRMWARE_CONFIRM from the management side (R414). A PLDM
firmware update writes into the inactive slot, verifies, records and activates as the orders do (R419); in CONTRA both management
requests are refused and counted (R401). -/
def Obligations.FirmwareUpdates : Prop :=
  (∀ (s : State) (o : Order), Taken s o → (accepted s).managed = true → (accepted s).updateBusy false = false →
     (s.journal.trial = none →
       (∀ offset hdr data,
         (data.length % 4096 = 0 → offset.toNat + data.length ≤ 24 * 2 ^ 20 →
           ∃ t, exec (.updDownload o offset hdr data) s = .next t ∧ WritesImage s t offset.toNat data ∧
             (t.downloaded = true → 1 ≤ t.journal.stage) ∧ Ended t 0x18 o ok) ∧
         (data.length % 4096 ≠ 0 ∨ 24 * 2 ^ 20 < offset.toNat + data.length →
           ∃ t n, exec (.updDownload o offset hdr data) s = .next t ∧ t.manage = s.manage ∧ Ended t 0x18 o (.plain .refused n))) ∧
       (1 ≤ s.journal.stage →
         (s.verifyCode = 0 →
           ∃ t, exec (.updVerify o) s = .next t ∧ t.journal.stage = 2 ∧ t.fget Reg.SC_UPD_CODE = 0 ∧ Ended t 0x19 o ok) ∧
         (s.verifyCode ≠ 0 →
           ∃ t n, exec (.updVerify o) s = .next t ∧ t.manage = s.manage ∧ t.fget Reg.SC_UPD_CODE = s.verifyCode ∧
             Ended t 0x19 o (.plain .failed n))) ∧
       (s.journal.stage = 2 → (accepted s).isolated = false →
         ∃ t, exec (.updActivate o) s = .next t ∧ t.journal.trial = some s.inactive ∧ t.journal.trials = 3 ∧
           t.journal.activeB = s.journal.activeB ∧ Ended t 0x1A o ok) ∧
       (∃ t, exec (.updCancel o) s = .next t ∧ t.manage.dl = [] ∧ t.journal.stage = 0 ∧ t.journal.activeB = s.journal.activeB ∧
         Ended t 0x1C o ok)) ∧
     (s.journal.trial.isSome = true → s.inTrial = false →
       ∃ t, exec (.updCancel o) s = .next t ∧ t.journal.trial = none ∧ t.journal.activeB = s.journal.activeB ∧ Ended t 0x1C o ok)) ∧
  (∀ (s : State) (b : Bool), s.journal.trial = some b → s.mayConfirm = true →
     (∀ o, Taken s o → (accepted s).isolated = false → (accepted s).updateBusy false = false →
       ∃ t, exec (.updConfirm o) s = .next t ∧ t.journal.activeB = b ∧ t.journal.trial = none ∧ Ended t 0x1B o ok) ∧
     (s.dev ≠ .off → s.contra = false → s.isolated = false →
       ∃ t, exec .firmwareConfirm s = .next t ∧ t.journal.activeB = b ∧ t.journal.trial = none)) ∧
  (∀ s : State, s.dev ≠ .off → s.contra = false → s.managed = true → s.journal.trial = none → s.updateBusy true = false →
     (∀ offset hdr data last, data.length ≤ 4096 → offset + data.length ≤ 24 * 2 ^ 20 →
       ∃ t, exec (.pldmFirmwareUpdate (.transfer offset hdr data last)) s = .next t ∧ WritesImage s t offset data) ∧
     (1 ≤ s.journal.stage →
       (∃ t, exec (.pldmFirmwareUpdate .verify) s = .next t ∧ t.fget Reg.SC_UPD_CODE = s.verifyCode ∧ t.manage = s.manage) ∧
       (s.verifyCode = 0 → ∃ t, exec (.pldmFirmwareUpdate .apply) s = .next t ∧ t.journal.stage = 2)) ∧
     (s.journal.stage = 2 → s.isolated = false →
       ∃ t, exec (.pldmFirmwareUpdate .activate) s = .next t ∧ t.journal.trial = some s.inactive ∧ t.journal.trials = 3)) ∧
  (∀ (s : State) (p : PldmStep), s.dev ≠ .off → s.contra = true →
     (∃ t, exec (.pldmFirmwareUpdate p) s = .next t ∧ t.manage = s.manage ∧
       t.fget Reg.DD_REFUSED_COUNT = min (s.fget Reg.DD_REFUSED_COUNT + 1) (2 ^ 32 - 1)) ∧
     (∃ t, exec .firmwareConfirm s = .next t ∧ t.manage = s.manage ∧
       t.fget Reg.DD_REFUSED_COUNT = min (s.fget Reg.DD_REFUSED_COUNT + 1) (2 ^ 32 - 1)))

/-- DBG_NONCE answers a nonce other than the last one, which only the next token may use; DBG_UNLOCK with a good token sets SC_DEBUG and
spends the nonce, and with any other token refuses with 0x60 and leaves SC_DEBUG and the nonce; DBG_RELOCK clears SC_DEBUG outside a
take (R410). CN_CLEAR with a good token leaves, in each log that it names, one record of event 0x86, and the other log as it is, and
with any other token refuses with 0x61 (R432). CN_DUMP writes the oldest records, or interval summaries, that the length holds to host
memory, and RESULT is the SEQ of the last record (R431). DAILIES_INTERVAL closes the interval summary once its INTERVAL has passed, in
dailies (R430). -/
def Obligations.TokensAndLogs : Prop :=
  (∀ (s : State) (o : Order) (k : Token), Taken s o →
     (s.dev ≠ .boot → ∃ t x, exec (.dbgNonce o) s = .next t ∧ t.manage.nonce = some x ∧ s.manage.lastNonce ≠ some x ∧
       t.manage.lastNonce = some x ∧ Ended t 0x1D o { status := .ok, detail := 0, result := x, codes := [] }) ∧
     (s.dev = .ready →
       (s.tokenGood k 2 = true → ∃ t, exec (.dbgUnlock o k) s = .next t ∧ t.flag Reg.SC_DEBUG_UNLOCKED = true ∧
         t.fget Reg.SC_DEBUG_SCOPE = k.scope.toNat % 4 ∧ t.fget Reg.SC_DEBUG_KEY = k.sig.keyIdx % 8 ∧ t.manage.nonce = none ∧
         Ended t 0x1E o ok) ∧
       (s.tokenGood k 2 = false → ∃ t, exec (.dbgUnlock o k) s = .next t ∧ t.reg Reg.SC_DEBUG = s.reg Reg.SC_DEBUG ∧
         t.manage = s.manage ∧ Ended t 0x1E o (.plain .refused 0x60))) ∧
     (s.dev.inTake = false → ∃ t, exec (.dbgRelock o) s = .next t ∧ t.flag Reg.SC_DEBUG_UNLOCKED = false ∧ Ended t 0x1F o ok) ∧
     (s.dev ≠ .boot →
       (s.tokenGood k 3 = true → ∃ t, exec (.cnClear o k) s = .next t ∧ t.manage.nonce = none ∧ Ended t 0x21 o ok ∧
         ∀ d : Fin 2, (k.scope.getLsbD d.val = true → ∃ r, (t.dieLog d.val).recs = [r] ∧ r.event = 0x86) ∧
           (k.scope.getLsbD d.val = false → t.dieLog d.val = s.dieLog d.val)) ∧
       (s.tokenGood k 3 = false → ∃ t, exec (.cnClear o k) s = .next t ∧ t.manage = s.manage ∧
         Ended t 0x21 o (.plain .refused 0x61)))) ∧
  (∀ (s : State) (o : Order) (arg0 paddr : DWord) (n : Nat), Taken s o →
     let l := s.dieLog (arg0.toNat % 2)
     ∃ t x, exec (.cnDump o arg0 paddr n) s = .next t ∧
       Written s t paddr (if arg0.getLsbD 1 then (l.closed.take (n / 1024)).flatMap (·.bytes)
         else (l.recs.take (n / 64)).flatMap (·.bytes)) ∧
       (∀ r, arg0.getLsbD 1 = false → (l.recs.take (n / 64)).getLast? = some r → x = BitVec.ofNat 64 r.seq) ∧
       (s.hostRole ≠ 3 → t.log = s.log) ∧ Ended t 0x20 o { status := .ok, detail := 0, result := x, codes := [] }) ∧
  (∀ (s : State) (d : Fin 2), s.dev ≠ .off → s.dailies = true →
     (s.dieLog d.val).cur.wall + 1000000000 * s.fget Reg.CN_CFG_INTERVAL ≤ s.wallNow →
     ∃ t m, exec (.dailiesInterval d) s = .next t ∧ (t.dieLog d.val).closed.getLast? = some m ∧
       m.counts = (s.dieLog d.val).cur.counts ∧ m.index = (s.dieLog d.val).cur.index ∧
       (t.dieLog d.val).cur.index = (s.dieLog d.val).cur.index + 1 ∧ (t.dieLog d.val).cur.counts = [] ∧
       (t.dieLog d.val).recs = (s.dieLog d.val).recs)

/-- REC_START in LOADED with a buffer starts recording at its base; a buffer that is not aligned, or has no size, is refused. REC_START
with ARG0 = 0, and REC_STOP, in any state: a recording ends, its stream closed by an entry of KIND 7 where the device's store has room
for it, and a device that does not record completes OK (R433, R436). REPLAY in LOADED keeps the stream's inputs for the next ARM (R434).
RECORD_ENTRY_WRITE writes the oldest entry that fits at the host's buffer, going on at its base past its end, frees the entry, and moves
the offset; with no entry, or no room, nothing happens (R436). -/
def Obligations.RecordAndReplay : Prop :=
  (∀ (s : State) (o : Order), Taken s o →
    (∀ base size : DWord, s.dev = .loaded → base ≠ 0 →
      (base.toNat % 4096 = 0 → size.toNat % 4096 = 0 → size ≠ 0 →
        ∃ t, exec (.recStart o base size) s = .next t ∧ t.recState = 1 ∧ t.log.recBase = base ∧ t.log.recSize = size.toNat ∧
          t.log.recOfs = 0 ∧ t.log.entries = [] ∧ t.log.stepEntries = [] ∧ t.fget Reg.CN_REC_HEAD_OFFSET = 0 ∧ Ended t 0x22 o ok) ∧
      (base.toNat % 4096 ≠ 0 ∨ size.toNat % 4096 ≠ 0 ∨ size = 0 →
        ∃ t x, exec (.recStart o base size) s = .next t ∧ t.log = s.log ∧ Ended t 0x22 o (.plain .refused x))) ∧
    (∀ size,
      ((accepted s).recState = 1 →
        (∃ t, exec (.recStart o 0 size) s = .next t ∧ t.recState = 0 ∧ Ended t 0x22 o ok ∧
          ((accepted s).recHeld + 32 ≤ 2 ^ 20 → ∃ e ∈ t.log.entries, e.kind = 7 ∧ e.payload = [])) ∧
        (∃ t, exec (.recStop o) s = .next t ∧ t.recState = 0 ∧ Ended t 0x22 o ok ∧
          ((accepted s).recHeld + 32 ≤ 2 ^ 20 → ∃ e ∈ t.log.entries, e.kind = 7 ∧ e.payload = []))) ∧
      ((accepted s).recState ≠ 1 →
        (∃ t, exec (.recStart o 0 size) s = .next t ∧ t.recState = (accepted s).recState ∧ t.log = s.log ∧ Ended t 0x22 o ok) ∧
        (∃ t, exec (.recStop o) s = .next t ∧ t.recState = (accepted s).recState ∧ t.log = s.log ∧ Ended t 0x22 o ok))) ∧
    (∀ stream, s.dev = .loaded → ∃ t, exec (.replay o stream) s = .next t ∧ t.log.replayArmed = true ∧
      t.log.stream = stream.filter (fun e => decide (e.kind ≠ 7)) ∧ Ended t 0x23 o ok)) ∧
  (∀ s : State,
    (∀ (e : RecEntry) (rest : List RecEntry), s.log.entries = e :: rest → s.hostUp = true → e.size < s.recRoom →
      ∃ t, exec .recordEntryWrite s = .next t ∧ t.log.entries = rest ∧ t.log.recOfs = (s.log.recOfs + e.size) % s.log.recSize ∧
        (e.bytes.length ≤ s.log.recSize - s.log.recOfs → Written s t (s.log.recBase + BitVec.ofNat 64 s.log.recOfs) e.bytes) ∧
        (s.log.recSize - s.log.recOfs < e.bytes.length →
          Written s t (s.log.recBase + BitVec.ofNat 64 s.log.recOfs) (e.bytes.take (s.log.recSize - s.log.recOfs)) ∧
          Written s t s.log.recBase (e.bytes.drop (s.log.recSize - s.log.recOfs)))) ∧
    (s.log.entries = [] → exec .recordEntryWrite s = .next s) ∧
    (∀ (e : RecEntry) (rest : List RecEntry), s.log.entries = e :: rest → s.recRoom ≤ e.size →
      exec .recordEntryWrite s = .next s))

/-! ## Mailbox queues and doorbells -/

/-- COMPLETION_POST writes the oldest waiting completion, in the layout of Table 12.5 with the PHASE of its lap, into the queue's next
slot, while there is room and fewer than 4,096 items are undelivered; the item is retained (R341, R346). DELIVERY_READ_COMPLETE delivers
the items posted before the oldest zero-length read (R341). A doorbell, on the PCIe function of a device that presents one: of another
width than 32 bits, of a slot that is not valid, or with the mailboxes disabled, it is dropped with a notice; for the device's own slot,
OQ_TAIL within the queue advances the tail and reads the new descriptors, CQ_HEAD up to the tail and RING_HEAD up to the records written
advance the heads, and a value outside of that is dropped with a notice; for another slot it changes no queue or ring of this device
(R442, R443, R444). Without a PCIe function it does nothing. -/
def Obligations.MailboxQueues : Prop :=
  ((∀ (s : State) (c : Completion) (rest : List Completion), s.hostUp = true → s.flag (Reg.HI_PX_DEV_VALID s.ownSlot) = true →
     s.queueRoom = true → s.host.posted.length < 4096 → s.host.rewrite = [] → s.host.ready = c :: rest →
     ∃ t, exec .completionPost s = .next t ∧ t.host.ready = rest ∧ t.host.posted = s.host.posted ++ [.completion c] ∧
       Written s t s.queueSlot (c.bytes s.queuePhase) ∧
       (t.bell s.ownSlot).cqTail = ((s.bell s.ownSlot).cqTail + 1) % 2 ^ 32) ∧
   (∀ s : State, (s.queueRoom = false ∨ 4096 ≤ s.host.posted.length) → s.host.rewrite = [] → exec .completionPost s = .next s) ∧
   (∀ (s : State) (r : HostRead) (rest : List HostRead), s.dev ≠ .off → (s.hostRole = 1 ∨ s.hostRole = 2) → s.host.reads = r :: rest →
     s.host.resetAfter = none →
     ∃ t, exec .deliveryReadComplete s = .next t ∧ t.host.posted = s.host.posted.drop r.own ∧ t.host.reads = rest ∧
       .delivered (s.host.posted.take r.own).length ∈ t.out) ∧
   (∀ s : State, s.host.reads = [] → exec .deliveryReadComplete s = .next s)) ∧
  (∀ (s : State) (n : Fin 64) (v : Word) (c : BitVec 15) (w : Width),
    let quiet := fun t : State => t.host = s.host ∧ t.serve = s.serve
    let dropped := fun i => ∃ t, exec i s = .next t ∧ Noticed s t ∧ quiet t
    (s.pathOpen .pcie = false →
      exec (.oqTail n v w) s = .next s ∧ exec (.cqHead n v w) s = .next s ∧ exec (.ringHead n c v w) s = .next s) ∧
    (s.pathOpen .pcie = true →
      (w ≠ .w32 ∨ s.flag (Reg.HI_PX_DEV_VALID n.val) = false ∨ s.flag Reg.HI_MB_CTRL_EN = false →
        dropped (.oqTail n v w) ∧ dropped (.cqHead n v w) ∧ dropped (.ringHead n c v w)) ∧
      (s.flag (Reg.HI_PX_DEV_VALID n.val) = true → s.flag Reg.HI_MB_CTRL_EN = true →
        (n.val ≠ s.ownSlot →
          (∃ t, exec (.oqTail n v .w32) s = .next t ∧ quiet t) ∧ (∃ t, exec (.cqHead n v .w32) s = .next t ∧ quiet t) ∧
          (∃ t, exec (.ringHead n c v .w32) s = .next t ∧ quiet t)) ∧
        (n.val = s.ownSlot →
          (let b := s.bell n.val
           let posted := countDiff v.toNat b.oqHead
           let fresh := countDiff v.toNat b.oqTail
           if countDiff b.oqTail b.oqHead ≤ posted ∧ posted ≤ 2 ^ s.fget (Reg.HI_PX_CFG_OQLOG n.val) then
             ∃ t, exec (.oqTail n v .w32) s = .next t ∧ t.bell n.val = { b with oqTail := v.toNat } ∧ t.serve = s.serve ∧
               t.out = s.out ++ if fresh = 0 then [] else [.hostRead n.val b.oqTail fresh]
           else dropped (.oqTail n v .w32)) ∧
          (let b := s.bell n.val
           if countDiff v.toNat b.cqHead ≤ countDiff b.cqTail b.cqHead then
             ∃ t, exec (.cqHead n v .w32) s = .next t ∧ t.bell n.val = { b with cqHead := v.toNat } ∧ t.out = s.out ∧ t.serve = s.serve
           else dropped (.cqHead n v .w32)) ∧
          (let x := s.ctx c.toNat
           let head := x.head + countDiff v.toNat x.head
           if s.fget Reg.SV_CTRL_ROLE = 1 ∧ x.st ≠ .free ∧ s.fget Reg.SV_CTX_RANGE_LO ≤ c.toNat ∧
               c.toNat ≤ s.fget Reg.SV_CTX_RANGE_HI ∧ head ≤ x.wrote then
             ∃ t, exec (.ringHead n c v .w32) s = .next t ∧ t.ctx c.toNat = { x with head := head } ∧
               (∀ d, d ≠ c.toNat → t.ctx d = s.ctx d) ∧ t.host = s.host
           else dropped (.ringHead n c v .w32))))))

/-! ## Register accesses -/

/-- RC_READ and LOW_WORD_READ of a 32-bit aligned word over an open path. The lowest word of a quantity is returned, the latches of its
higher words on that path are loaded in the same read, and RC fields read 0 from then on; a higher word returns its latch (R12, R13). A
64-bit read returns both words as the first found them. A reserved offset, and a register of a slot that is not mapped, returns what it
shows and changes nothing; outside the log's windows a reserved offset reads 0 (R439). An access that R440 does not admit returns 0 with
a notice and clears nothing. In OFF a read over I3C returns 0; over another closed path nothing happens (R447, R338, R339). -/
def Obligations.RegisterReads : Prop :=
  ∀ (s : State) (p : Path) (w : Width) (off : Nat) (read : Width → Instr),
    (read = fun w => .rcRead p w off) ∨ (read = fun w => .lowWordRead p w off) →
    (s.pathOpen p = false →
      (s.dev = .off → p = .i3c → exec (read w) s = .next { s with out := s.out ++ [.readData p 0] }) ∧
      (s.dev ≠ .off ∨ p ≠ .i3c → exec (read w) s = .next s)) ∧
    (s.pathOpen p = true →
      (accessFits w off = false → ∃ t, exec (read w) s = .next t ∧ t.out = s.out ++ [.readData p 0] ∧ Noticed s t ∧
        t.latches = s.latches ∧ ∀ a, a ≠ Reg.FC_COUNT 0 → t.reg a = s.reg a) ∧
      (off % 4 = 0 →
        (rowOf off = none →
          (exec (read .w32) s = .next { s with out := s.out ++ [.readData p (BitVec.ofNat 64 (s.view off).toNat)] }) ∧
          (off < 0x1340000 ∨ 0x13C0000 ≤ off → s.view off = 0)) ∧
        (∀ r, rowOf off = some r →
          (s.hiddenSlot off = true → exec (read .w32) s = .next { s with out := s.out ++ [.readData p 0] }) ∧
          (s.hiddenSlot off = false →
            (∃ t, exec (read .w32) s = .next t ∧ t = { s with regs := t.regs, latches := t.latches, out := t.out } ∧
              t.out = s.out ++ [.readData p (BitVec.ofNat 64
                (if r.high = 0 then s.view off else mapGet latchReset s.latches (latchKey p off)).toNat)] ∧
              (r.high = 0 → ∀ k, 0 < k → k < r.words →
                mapGet latchReset t.latches (latchKey p (off + 4 * k)) = s.view (off + 4 * k)) ∧
              (∀ f ∈ r.fields, t.fget ⟨off, f.hi, f.lo⟩ = if f.acc = .rc then 0 else s.fget ⟨off, f.hi, f.lo⟩) ∧
              ∀ a, a ≠ off → t.reg a = s.reg a) ∧
            (∀ r', off % 8 = 0 → rowOf (off + 4) = some r' → s.hiddenSlot (off + 4) = false → r.high = 0 → 1 < r.words → r'.high = 1 →
              ∃ t, exec (read .w64) s = .next t ∧
                t.out = s.out ++ [.readData p (BitVec.ofNat 64 ((s.view off).toNat + 2 ^ 32 * (s.view (off + 4)).toNat))])))))

/-- REGISTER_WRITE of 32 bits to an aligned word over an open path, for every register but those whose write does something instead
(TB_STEP, TB_TRIG_STAT, PW_LIMIT, HI_MB_CTRL and LK_CTRL, which have statements of their own): an RW field takes its bits, a W1C field
loses the bits written 1, RO and RC fields stay; a field under a limit that is not met keeps its value with a notice (R13). Cores,
memories and the take stay. A reserved offset ignores the write (R439). A 64-bit write is two 32-bit writes, low word first; an access
that R440 does not admit is dropped with a notice, and over a closed path nothing happens (R338, R339). -/
def Obligations.RegisterWrites : Prop :=
  ∀ (s : State) (p : Path) (w : Width) (off : Nat) (v : DWord),
    (s.pathOpen p = false → exec (.registerWrite p w off v) s = .next s) ∧
    (s.pathOpen p = true →
      (accessFits w off = false → ∃ t, exec (.registerWrite p w off v) s = .next t ∧ Noticed s t ∧
        ∀ a, a ≠ Reg.FC_COUNT 0 → t.reg a = s.reg a) ∧
      (off % 8 = 0 → exec (.registerWrite p .w64 off v) s =
        .next ((s.write32 off (v.extractLsb' 0 32)).write32 (off + 4) (v.extractLsb' 32 32))) ∧
      (off % 4 = 0 →
        (rowOf off = none → exec (.registerWrite p .w32 off v) s = .next s) ∧
        (∀ r, rowOf off = some r → off ≠ Reg.TB_STEP → off ≠ Reg.TB_STEP + 4 → off ≠ Reg.TB_TRIG_STAT → off ≠ Reg.PW_LIMIT →
          off ≠ Reg.HI_MB_CTRL → ¬ (0xA00000 ≤ off ∧ off < 0xE00000 ∧ off % 0x10000 = 0) →
          ∃ t, exec (.registerWrite p .w32 off v) s = .next t ∧
            (∀ f ∈ r.fields, t.fget ⟨off, f.hi, f.lo⟩ =
              let old := s.fget ⟨off, f.hi, f.lo⟩
              let new := bitsOf f.hi f.lo v.toNat
              if s.mayWrite f then (if f.acc = .rw then new else if f.acc = .w1c then old - (old &&& new) else old) else old) ∧
            ((∃ f ∈ r.fields, f.acc ≠ .ro ∧ s.mayWrite f = false) → Noticed s t) ∧
            t.take = s.take ∧ t.cores = s.cores ∧ t.spad = s.spad ∧ t.hbm = s.hbm)))

/-- The register writes that do something. TB_STEP outside a take: its low word is held, and its high word (the command TB_STEP) steps
wall time by the signed value of both and clears UNALIGNED; in a take both are ignored with a notice (R76). HI_MB_CTRL.EN, set from 0
with nothing to write again, starts the doorbell counts anew; set again it changes nothing; written 0 it clears (R346, Table 16.2). CN_REC_HEAD takes its value
(R436). PW_LIMIT takes 1,200 to 2,400 W outside a take, and anything else leaves it, with a notice (R402). TB_TRIG_STAT outside a take:
each 1 clears its EDGE or OVF bit; in a take it is ignored with a notice (R75). After a write of TB_CTRL, SOURCE and HOLDOVER follow the
time signals (R67). Over a closed path nothing happens. -/
def Obligations.RegisterCommands : Prop :=
  ∀ (s : State) (p : Path) (v : DWord),
    let write := fun off => exec (.registerWrite p .w32 off v) s
    let low := v.extractLsb' 0 32
    (s.pathOpen p = false → exec (.tbStep p low) s = .next s ∧ exec (.hiMbCtrlEn p) s = .next s ∧ exec (.cnRecHead p low) s = .next s) ∧
    (s.pathOpen p = true →
      (s.dev.inTake = false →
        (∃ t, exec (.tbStep p low) s = .next t ∧ t.time.wall = s.time.wall + (low ++ s.time.stepLow) ∧
          t.flag Reg.TB_STATUS_UNALIGNED = false) ∧
        (∃ t, write Reg.TB_STEP = .next t ∧ t = { s with time.stepLow := low }) ∧
        (∃ t, write (Reg.TB_STEP + 4) = .next t ∧ t.time.wall = s.time.wall + (low ++ s.time.stepLow)) ∧
        (∃ t, write Reg.TB_TRIG_STAT = .next t ∧ ∀ n, n < 4 →
          bitOf (t.fget Reg.TB_TRIG_STAT_EDGE) n = (bitOf (s.fget Reg.TB_TRIG_STAT_EDGE) n && !bitOf v.toNat n) ∧
          bitOf (t.fget Reg.TB_TRIG_STAT_OVF) n = (bitOf (s.fget Reg.TB_TRIG_STAT_OVF) n && !bitOf v.toNat (4 + n))) ∧
        (1200 ≤ v.toNat % 4096 → v.toNat % 4096 ≤ 2400 → ∃ t, write Reg.PW_LIMIT = .next t ∧
          t.fget Reg.PW_LIMIT_WATTS = v.toNat % 4096)) ∧
      (s.dev.inTake = true →
        (∃ t, exec (.tbStep p low) s = .next t ∧ t.time = s.time ∧ Noticed s t) ∧
        ∀ off ∈ [Reg.TB_STEP, Reg.TB_STEP + 4, Reg.TB_TRIG_STAT, Reg.PW_LIMIT],
          ∃ t, write off = .next t ∧ t.time = s.time ∧ Noticed s t ∧ ∀ a, a ≠ Reg.FC_COUNT 0 → t.reg a = s.reg a) ∧
      (v.toNat % 4096 < 1200 ∨ 2400 < v.toNat % 4096 → ∃ t, write Reg.PW_LIMIT = .next t ∧ Noticed s t ∧
        t.fget Reg.PW_LIMIT_WATTS = s.fget Reg.PW_LIMIT_WATTS) ∧
      (∀ e, e = exec (.hiMbCtrlEn p) s ∨ (bitOf v.toNat 0 = true ∧ e = write Reg.HI_MB_CTRL) →
        (s.flag Reg.HI_MB_CTRL_EN = true → e = .next s) ∧
        (s.flag Reg.HI_MB_CTRL_EN = false → ∃ t, e = .next t ∧
          (s.host.rewrite = [] → t.flag Reg.HI_MB_CTRL_EN = true ∧ t.host = { s.host with bells := [] }))) ∧
      (bitOf v.toNat 0 = false → ∃ t, write Reg.HI_MB_CTRL = .next t ∧ t.flag Reg.HI_MB_CTRL_EN = false ∧ t.host = s.host) ∧
      (∃ t, exec (.cnRecHead p low) s = .next t ∧ t.reg Reg.CN_REC_HEAD = low ∧ t.log = s.log) ∧
      (∃ t, write Reg.TB_CTRL = .next t ∧ t.fget Reg.TB_STATUS_SOURCE = t.source ∧ t.holdover = decide (t.source = 0)))

/-- Requests over LK_CTRL, over an open path. EN: on a link that the armed reel uses it is ignored with a notice; else EN 0 disables the
link, and EN 1 brings a disabled one to DOWN and leaves the state of any other (R313, Table 10.12). RETRAIN: a FAILED link goes DOWN, an
open link that is not in use starts training and sends TRAIN; otherwise the bit stays set and the state stays. SLEEP: an UP link that is not in use, its
cabling a match, asks the partner; any other request is refused and its bit clears (R310, R320). WAKE: a sleeping link starts its fast
retrain and signals its partner; otherwise the bit stays set (R311, R13). A write of LK_CTRL sets LANEEN outside a take, and in a take
leaves it with a notice. Over a closed path nothing happens. -/
def Obligations.LinkRequests : Prop :=
  ∀ (s : State) (p : Path) (l : Fin 64),
    let status := fun (t : State) code => t.linkState l.val = code
    let same := fun (t : State) => t.linkState l.val = s.linkState l.val ∧ t.out = s.out
    (s.pathOpen p = false →
      (∀ en, exec (.lkCtrlEn p l en) s = .next s) ∧ exec (.retrain p l) s = .next s ∧ exec (.lkSleepRequest p l) s = .next s ∧
      exec (.wake p l) s = .next s) ∧
    (s.pathOpen p = true →
      (∀ en, s.linkUsed l.val = true → ∃ t, exec (.lkCtrlEn p l en) s = .next t ∧ same t ∧ Noticed s t ∧
        t.flag (Reg.LK_CTRL_EN l.val) = s.flag (Reg.LK_CTRL_EN l.val)) ∧
      (s.linkUsed l.val = false →
        (∃ t, exec (.lkCtrlEn p l false) s = .next t ∧ status t stateDisabled ∧ t.flag (Reg.LK_CTRL_EN l.val) = false) ∧
        (∃ t, exec (.lkCtrlEn p l true) s = .next t ∧ t.flag (Reg.LK_CTRL_EN l.val) = true ∧
          status t (if s.linkState l.val = stateDisabled then stateDown else s.linkState l.val))) ∧
      (∃ t, exec (.retrain p l) s = .next t ∧
        if s.linkState l.val = stateFailed then status t stateDown ∧ t.flag (Reg.LK_CTRL_RETRAIN l.val) = false
        else if s.linkOpen l.val = true ∧ s.linkUsed l.val = false then
          status t stateTrain ∧ (t.link l.val).trains = [] ∧ t.out = s.out ++ [.trainSet l.val (s.trainBody l.val)] ∧
          t.flag (Reg.LK_CTRL_RETRAIN l.val) = false
        else same t ∧ t.flag (Reg.LK_CTRL_RETRAIN l.val) = true) ∧
      (∃ t, exec (.lkSleepRequest p l) s = .next t ∧ status t (s.linkState l.val) ∧
        if s.linkState l.val = stateUp ∧ s.linkUsed l.val = false ∧ s.matched l.val = true then
          (t.link l.val).sleepAsked = true ∧ t.out = s.out ++ [.sleepSet l.val true false] ∧ t.flag (Reg.LK_CTRL_SLEEP l.val) = true
        else t.links = s.links ∧ t.out = s.out ∧ t.flag (Reg.LK_CTRL_SLEEP l.val) = false) ∧
      (∃ t, exec (.wake p l) s = .next t ∧
        if s.linkState l.val = stateSleep then
          status t stateWake ∧ t.out = s.out ++ [.wakeSignal l.val] ∧ t.flag (Reg.LK_CTRL_WAKE l.val) = false
        else same t ∧ t.flag (Reg.LK_CTRL_WAKE l.val) = true) ∧
      (∀ v : DWord, ∃ t, exec (.registerWrite p .w32 (Reg.LK_CTRL l.val) v) s = .next t ∧
        t.fget (Reg.LK_CTRL_LANEEN l.val) = (if s.dev.inTake then s.fget (Reg.LK_CTRL_LANEEN l.val) else bitsOf 11 8 v.toNat) ∧
        (s.dev.inTake = true → bitsOf 3 0 v.toNat = b2n (s.flag (Reg.LK_CTRL_EN l.val)) → Noticed s t)))

/-! ## Bundles: issue, results, control flow (R167 to R193) -/

/-- A slot of the current bundle takes one operation; an operation does not issue where the cluster runs no segment, where the slot is
taken, or where the cluster is halted or stopped by a WAIT or a stalled SIEVE. With `adv` = 1 the cluster first moves on: the next
bundle issues after the current one's issue cycles and the padding and waiting that follow them, at the address that follows, or where
the arm of a branch ends behind both arms, or as the segment's first; what has fallen due by then, if that is results of
registers, predicates and accumulator entries, is performed, and CL_SEQ_PC names the bundle. A reserved opcode (0x01) or else a reserved bit (0x03) in one of its slots halts the cluster. -/
def Obligations.IssueOfABundle : Prop :=
  ∀ (s : State) (i : Issue) (slot : Slot),
    let q := s.seq i.cl.val
    (s.canIssue i.cl.val = false → s.issue i slot = (s, false)) ∧
    (i.adv = 0 → q.fresh = true ∨ q.at_ ≠ q.now ∨ q.used.getLsbD slot.bit = true → s.issue i slot = (s, false)) ∧
    (i.adv ≠ 0 → s.halted i.cl.val = true ∨ q.wait ≠ none ∨ q.stalled ≠ [] → s.issue i slot = (s, false)) ∧
    (s.canIssue i.cl.val = true → i.adv = 0 → q.fresh = false → q.at_ = q.now → q.used.getLsbD slot.bit = false →
      ∃ u, s.issue i slot = (u, true) ∧ (u.seq i.cl.val).used.getLsbD slot.bit = true ∧ u = { s with seqs := u.seqs } ∧
        u.seq i.cl.val = { q with used := (u.seq i.cl.val).used }) ∧
    (∀ (b : BitVec 512) (a at_ : Nat), s.canIssue i.cl.val = true → i.adv = 1 → s.canAdvance i.cl.val = true → q.ended = false →
      (q.fresh = true ∧ q.stack = [] ∧ a = q.pc ∧ at_ = q.at_ + q.dur + q.idle ∨
        q.fresh = false ∧ q.jump = none ∧ at_ = q.at_ + q.dur + q.skip + q.idle ∧
          (q.stack = [] ∧ a = q.pc + 1 ∨ q.stack = [.arm (q.pc + 1) a])) →
      q.now ≤ at_ → a < 2 ^ 18 → s.bundle i.cl.val a = some b → s.bundleCheck i.cl.val a ≠ .uncorrectable → headBad b = false →
      (slotCauses b = [] →
        (∀ key ∈ s.coresOf i.cl.val, ∀ w ∈ (s.core key).pend, at_ < w.due ∨ (∃ r v, w.target = .sreg r v) ∨
          (∃ r v, w.target = .pred r v) ∨ (∃ r v, w.target = .vreg r v) ∨ ∃ n v p, w.target = .acc n v p) →
        ∃ u, s.issue i slot = (u, true) ∧ (u.seq i.cl.val).pc = a ∧ (u.seq i.cl.val).now = at_ ∧ (u.seq i.cl.val).at_ = at_ ∧
          (u.seq i.cl.val).dur = headCycles b ∧ (u.seq i.cl.val).stack = [] ∧ (u.seq i.cl.val).ended = headLast b ∧
          u.fget (Reg.CL_SEQ_PC_PC i.cl.val) = a ∧
          ∀ key ∈ s.coresOf i.cl.val, (u.core key).pend = (s.core key).pend.filter fun w => decide (at_ < w.due)) ∧
      (∀ (r : Nat) (rs : List Nat), slotCauses b = r :: rs → (∀ key ∈ s.coresOf i.cl.val, (s.core key).pend = []) →
        (s.issue i slot).1.halted i.cl.val = true ∧ (s.issue i slot).1.fget (Reg.CL_SEQ_HALT_REASON i.cl.val) = r))

/-- A result reaches its register, predicate, accumulator entry or scratchpad bytes when the cluster's local cycle count reaches its
due cycle, and not before (R173): for one result on one core, the core's other register files, registers and bytes stay. -/
def Obligations.ResultsReachTheirTargets : Prop :=
  ∀ (s : State) (cl key cycle : Nat) (w : PendWrite), key ∈ s.coresOf cl → (s.core key).pend = [w] →
    (∀ k ∈ s.coresOf cl, k ≠ key → (s.core k).pend = []) →
    let t := s.toCycle cl cycle
    let c := s.core key
    let d := t.core key
    (cycle < w.due → d.pend = [w] ∧ d.sregs = c.sregs ∧ d.preds = c.preds ∧ d.vregs = c.vregs ∧ d.acc = c.acc ∧ t.spad = s.spad) ∧
    (w.due ≤ cycle → d.pend = [] ∧
      (∀ r v, w.target = .sreg r v → t.spad = s.spad ∧ d.preds = c.preds ∧ d.vregs = c.vregs ∧ d.acc = c.acc ∧
        ∀ q, mapGet (fun _ => ⟨0, false⟩) d.sregs q = if q = r then v else mapGet (fun _ => ⟨0, false⟩) c.sregs q) ∧
      (∀ r v, w.target = .pred r v → t.spad = s.spad ∧ d.sregs = c.sregs ∧ d.vregs = c.vregs ∧ d.acc = c.acc ∧
        ∀ q, t.predicate key q = if q = r then v else s.predicate key q) ∧
      (∀ r v, w.target = .vreg r v → t.spad = s.spad ∧ d.sregs = c.sregs ∧ d.preds = c.preds ∧ d.acc = c.acc ∧
        ∀ q : BitVec 5, t.vval key q = if q.toNat = r then v else s.vval key q) ∧
      (∀ n v p, w.target = .acc n v p → t.spad = s.spad ∧ d.sregs = c.sregs ∧ d.preds = c.preds ∧ d.vregs = c.vregs ∧
        ∀ q, t.accEntry key q = if q = n then AccEntry.fresh v p else s.accEntry key q) ∧
      (∀ a bs, w.target = .bytes a bs [false] → bs ≠ [] → a % 8 + bs.length ≤ 8 → s.granMeta key (a / 8) = Meta.clean →
        d.sregs = c.sregs ∧ d.preds = c.preds ∧ d.vregs = c.vregs ∧ d.acc = c.acc ∧
        (∀ x, x < bs.length → memGet t.spad (spadAddr key a + x) = bs.getD x 0) ∧
        ∀ x, (x < spadAddr key a ∨ spadAddr key a + bs.length ≤ x) → memGet t.spad x = memGet s.spad x))

/-- The two-operand scalar operations (Table 06.6): SD gets SA op SB on 64-bit two's-complement values, wrapping, one cycle
after issue, MUL three; shifts count SB[5:0]; the result is poisoned if an operand is. Nothing else changes. ADDI, MOVI and
MOVHI write SD, CMP the predicate SD[2:0], one cycle after issue, with a signed 32-bit immediate (Table 06.6). Nothing else
changes. -/
def Obligations.ScalarOperations : Prop :=
  (∀ (s u : State) (i : Issue) (sd sa sb : BitVec 5), s.issue i .s = (u, true) → pgValid i.pg = true → readOnlyScalar sd = false →
     let a := fun key => (u.sval key sa).v
     let b := fun key => (u.sval key sb).v
     let r := fun (f : DWord → DWord → DWord) key =>
       Target.sreg sd.toNat ⟨f (a key) (b key), (u.sval key sa).p || (u.sval key sb).p⟩
     (Clear u i.cl.val 1 →
       Results (.add i sd sa sb) s u i 1 (r fun x y => x + y) ∧ Results (.sub i sd sa sb) s u i 1 (r fun x y => x - y) ∧
       Results (.and i sd sa sb) s u i 1 (r fun x y => x &&& y) ∧ Results (.or i sd sa sb) s u i 1 (r fun x y => x ||| y) ∧
       Results (.xor i sd sa sb) s u i 1 (r fun x y => x ^^^ y) ∧
       Results (.shl i sd sa sb) s u i 1 (r fun x y => x <<< (y.toNat % 64)) ∧
       Results (.shr i sd sa sb) s u i 1 (r fun x y => x >>> (y.toNat % 64)) ∧
       Results (.sar i sd sa sb) s u i 1 (r fun x y => x.sshiftRight (y.toNat % 64)) ∧
       Results (.min i sd sa sb) s u i 1 (r fun x y => if x.toInt < y.toInt then x else y) ∧
       Results (.max i sd sa sb) s u i 1 (r fun x y => if x.toInt < y.toInt then y else x)) ∧
     (Clear u i.cl.val 3 → Results (.mul i sd sa sb) s u i 3 (r fun x y => x * y))) ∧
  (∀ (s u : State) (i : Issue) (sd sa : BitVec 5) (imm : Word), s.issue i .s = (u, true) → pgValid i.pg = true →
     Clear u i.cl.val 1 →
     (readOnlyScalar sd = false →
       Results (.addi i sd sa imm) s u i 1
         (fun key => .sreg sd.toNat ⟨(u.sval key sa).v + BitVec.ofInt 64 imm.toInt, (u.sval key sa).p⟩) ∧
       Results (.movi i sd imm) s u i 1 (fun _ => .sreg sd.toNat ⟨BitVec.ofInt 64 imm.toInt, false⟩) ∧
       Results (.movhi i sd imm) s u i 1
         (fun key => .sreg sd.toNat ⟨imm ++ (u.sval key sd).v.extractLsb' 0 32, (u.sval key sd).p⟩)) ∧
     (∀ (cond : Nat) (sb : BitVec 5), sd.toNat < 8 → cond < 6 → imm = BitVec.ofNat 32 (sb.toNat * 256 + cond) →
       Results (.cmp i sd sa imm) s u i 1 (fun key =>
         let a := (u.sval key sa).v
         let b := (u.sval key sb).v
         .pred sd.toNat
           ⟨(cond == 0 && a == b) || (cond == 1 && a != b) || (cond == 2 && decide (a.toInt < b.toInt)) ||
              (cond == 3 && decide (b.toInt ≤ a.toInt)) || (cond == 4 && decide (a.toNat < b.toNat)) ||
              (cond == 5 && decide (b.toNat ≤ a.toNat)),
            (u.sval key sa).p || (u.sval key sb).p⟩)))

/-- LDS loads 2^IMM[31:30] bytes at SA + IMM[29:0] zero-extended into SD, six cycles after issue; STS writes the low bytes of SD
there, two cycles after issue, outside resident regions and committed halves (Table 06.6, R175, R150). The result of STS names the bytes
to be stored, at the address computed here; nothing but the results on their way differs at issue. A poisoned address or granule poisons
SD, a poisoned address or SD what is stored. -/
def Obligations.ScalarMemory : Prop :=
  ∀ (s u : State) (i : Issue) (sd sa : BitVec 5) (imm : Word), s.issue i .s = (u, true) → pgValid i.pg = true →
    BanksFree u i.cl.val →
    let n := 2 ^ (imm.toNat / 2 ^ 30)
    let a := fun key => ((u.sval key sa).v + BitVec.ofNat 64 (imm.toNat % 2 ^ 30)).toNat
    let runs := fun key => (u.guard key i.pg).isSome = true
    (∀ key ∈ u.coresOf i.cl.val, runs key → a key % n = 0 ∧ a key + n ≤ spadSize) →
    (readOnlyScalar sd = false → Clear u i.cl.val 6 → (∀ key ∈ u.coresOf i.cl.val, runs key → CleanGranules u key (a key / 8) 1) →
      Results (.lds i sd sa imm) s u i 6 (fun key =>
        .sreg sd.toNat ⟨BitVec.ofNat 64 (ofBytes (u.spadBytes key (a key) n)),
          (u.sval key sa).p || (u.granMeta key (a key / 8)).poison⟩)) ∧
    ((∀ key ∈ u.coresOf i.cl.val, runs key → u.writeBarred key (a key) n = false) →
      Results (.sts i sd sa imm) s u i 2 (fun key =>
        .bytes (a key) (toBytes n (u.sval key sd).v.toNat) [(u.sval key sa).p || (u.sval key sd).p]))

/-- BRB enters the arm that its condition selects, after 2 cycles of lull: the taken arm follows the branch, the other one follows
it, and control resumes behind both (R189). LOOP enters its body with iteration index 0 in SI; with a count of 0 or an empty body it is
passed, its MAX × BODY cycles being padding, and an empty body leaves the last index in SI (R190). At the end of a body control goes round with
the next index while iterations are left, and then on behind it, the remaining iterations of MAX being padding. A lull run lasts COUNT
cycles (R169). -/
def Obligations.ControlFlow : Prop :=
  ∀ (s u : State) (i : Issue),
    let q := u.seq i.cl.val
    (∀ (sc : BitVec 5) (cond : BitVec 3) (len : BitVec 20) (taken : Bool), s.issue i .s = (u, true) → pgValid i.pg = true →
      q.stack.length < 8 → cond.toNat < 4 → u.controlVals i.cl.val sc ≠ [] →
      (∀ x ∈ u.controlVals i.cl.val sc, x.p = false ∧
        taken = ((cond.toNat == 0 && x.v == 0) || (cond.toNat == 1 && x.v != 0) || (cond.toNat == 2 && decide (x.v.toInt < 0)) ||
          (cond.toNat == 3 && decide (0 ≤ x.v.toInt)))) →
      ∃ t, exec (.brb i sc cond len) s = .next t ∧ t = { u with seqs := t.seqs } ∧
        t.seq i.cl.val =
          (let a := if taken then q.pc + 1 else q.pc + 1 + len.toNat
           { q with dur := q.dur + 2, jump := some a, stack := .arm (a + len.toNat) (q.pc + 1 + 2 * len.toNat) :: q.stack })) ∧
    (∀ (sn si : BitVec 5) (body max : BitVec 20) (n : DWord), s.issue i .s = (u, true) → pgValid i.pg = true →
      q.stack.length < 8 → readOnlyScalar si = false → u.controlVals i.cl.val sn ≠ [] →
      (∀ x ∈ u.controlVals i.cl.val sn, x = ⟨n, false⟩) → n.toNat ≤ max.toNat → Clear u i.cl.val 1 →
      let passed := { q with skip := max.toNat * body.toNat, jump := some (q.pc + 1 + body.toNat) }
      (0 < n.toNat → ∃ t, exec (.loop i sn si body max) s = .next t ∧ t = { u with seqs := t.seqs, cores := t.cores } ∧
        t.seq i.cl.val = (if body = 0 then passed
          else { q with jump := some (q.pc + 1),
                        stack := .loop (q.pc + 1) body.toNat (n.toNat - 1) n.toNat max.toNat si.toNat :: q.stack }) ∧
        ∀ key ∈ u.coresOf i.cl.val, (t.core key).pend =
          queued u key 0 1 (.sreg si.toNat ⟨BitVec.ofNat 64 (if body = 0 then n.toNat - 1 else 0), false⟩)) ∧
      (n = 0 → ∃ t, exec (.loop i sn si body max) s = .next t ∧ t = { u with seqs := t.seqs } ∧ t.seq i.cl.val = passed)) ∧
    (∀ count : BitVec 24, s.issue i .head = (u, true) → count ≠ 0 →
      ∃ t, exec (.lullRun i count true) s = .next t ∧ t = { u with seqs := t.seqs } ∧
        t.seq i.cl.val = { q with dur := count.toNat, lull := true }) ∧
    (∀ start len count max si : Nat, 0 < len →
      (∀ left, 0 < left →
        flow 2 (start + len) [.loop start len left count max si] 0 =
          (start, [.loop start len (left - 1) count max si], 0, some (si, count - left))) ∧
      flow 2 (start + len) [.loop start len 0 count max si] 0 = (start + len, [], (max - count) * len, none))

/-- Encodings and operands that halt the cluster, with the reason that each latches: a bad lull run (0x02); a PG that is no code and a
condition that does not exist (0x03); a write to a read-only scalar (0x04); a reserved rounding mode (0x06); VSFU in pipe 1 or with a
mode other than RNE (0x07); nesting beyond 8 (0x08); a foreign counter in WAIT (0x0B); a misaligned load or store (0x22); a store into a
resident region or a committed half (0x23); a loop count above MAX (0x26); a poisoned or divided branch condition (0x27, 0x43); a pipe
given an operation too soon (0x48). -/
def Obligations.HaltReasons : Prop :=
  ∀ (s u : State) (i : Issue), u.halted i.cl.val = false →
    (s.issue i .head = (u, true) → u.headReported i.cl.val = false → ∀ (count : BitVec 24) (z : Bool), count = 0 ∨ z = false →
      HaltsWith (.lullRun i count z) s i.cl.val 0x02) ∧
    (s.issue i .s = (u, true) → ∀ (sd sa sb : BitVec 5) (imm : Word),
      let a := fun key => ((u.sval key sa).v + BitVec.ofNat 64 (imm.toNat % 2 ^ 30)).toNat
      let n := 2 ^ (imm.toNat / 2 ^ 30)
      (pgValid i.pg = false → HaltsWith (.add i sd sa sb) s i.cl.val 0x03 ∧ HaltsWith (.sts i sd sa imm) s i.cl.val 0x03) ∧
      (pgValid i.pg = true → readOnlyScalar sd = true →
        HaltsWith (.sub i sd sa sb) s i.cl.val 0x04 ∧ HaltsWith (.movi i sd imm) s i.cl.val 0x04) ∧
      (pgValid i.pg = true → 6 ≤ imm.toNat % 8 → HaltsWith (.cmp i sd sa imm) s i.cl.val 0x03) ∧
      (pgValid i.pg = true → 8 ≤ (u.seq i.cl.val).stack.length → ∀ len : BitVec 20,
        HaltsWith (.brb i sa 0 len) s i.cl.val 0x08) ∧
      (i.pg = 0 → u.coresOf i.cl.val ≠ [] → readOnlyScalar sd = false →
        (∀ key ∈ u.coresOf i.cl.val, a key % n ≠ 0 ∨ spadSize < a key + n) →
        HaltsWith (.lds i sd sa imm) s i.cl.val 0x22 ∧ HaltsWith (.sts i sd sa imm) s i.cl.val 0x22) ∧
      (i.pg = 0 → u.coresOf i.cl.val ≠ [] →
        (∀ key ∈ u.coresOf i.cl.val, a key % n = 0 ∧ a key + n ≤ spadSize ∧ u.writeBarred key (a key) n = true) →
        HaltsWith (.sts i sd sa imm) s i.cl.val 0x23) ∧
      (pgValid i.pg = true → (u.seq i.cl.val).stack.length < 8 → ∀ len : BitVec 20,
        ((∃ x ∈ u.controlVals i.cl.val sa, x.p = true) → HaltsWith (.brb i sa 0 len) s i.cl.val 0x27) ∧
        ((∀ x ∈ u.controlVals i.cl.val sa, x.p = false) → (∃ x ∈ u.controlVals i.cl.val sa, x.v = 0) →
          (∃ x ∈ u.controlVals i.cl.val sa, x.v ≠ 0) → HaltsWith (.brb i sa 0 len) s i.cl.val 0x43) ∧
        (∀ (body max : BitVec 20) (n : DWord), readOnlyScalar sb = false → u.controlVals i.cl.val sa ≠ [] →
          (∀ x ∈ u.controlVals i.cl.val sa, x = ⟨n, false⟩) → max.toNat < n.toNat →
          HaltsWith (.loop i sa sb body max) s i.cl.val 0x26))) ∧
    (∀ (p : Fin 2) (vd va vb : BitVec 5) (rnd : BitVec 3) (fmt : BitVec 4), s.issue i (pipeSlot p) = (u, true) → pgValid i.pg = true →
      (5 ≤ rnd.toNat → HaltsWith (.vadd i p vd va vb rnd) s i.cl.val 0x06) ∧
      (5 ≤ fmt.toNat → HaltsWith (.vcmp i p vd va vb fmt) s i.cl.val 0x03) ∧
      (fmt.toNat < 5 → rnd.toNat < 5 → p = 1 ∨ rnd ≠ 0 → HaltsWith (.vsfu i p vd va rnd fmt) s i.cl.val 0x07) ∧
      (rnd.toNat < 5 → (∃ key ∈ u.coresOf i.cl.val, (u.seq i.cl.val).now < (u.core key).pipeFree.getD p.val 0) →
        HaltsWith (.vadd i p vd va vb rnd) s i.cl.val 0x48)) ∧
    (∀ (ctr : BitVec 13) (st : BitVec 5) (tmo : BitVec 20) (tgt : BitVec 30), s.issue i .sy = (u, true) → i.pg = 0 → tmo ≠ 0 →
      ctr.toNat / 2048 ≠ i.cl.val → HaltsWith (.wait i ctr st tmo tgt) s i.cl.val 0x0B)

/-! ## Vector, matrix and transfers (R103 to R133, R154 to R165, R176 to R181) -/

/-- VADD, VSUB, VMUL and VFMA write VA op VB (VA × VB + VC, rounded once) in every lane under the rounding mode, VMIN and VMAX the
minimum and maximum, four cycles after issue (Tables 05.9 and 06.8); poison follows the 64-bit granules, with the rounding key's
under SR (R148, R463), and the lanes' flags stick (R101). Nothing else changes but the pipe's issue interval. -/
def Obligations.VectorArithmetic : Prop :=
  ∀ (s u : State) (i : Issue) (p : Fin 2) (vd va vb vc : BitVec 5), s.issue i (pipeSlot p) = (u, true) → pgValid i.pg = true →
    PipeReady u i.cl.val p → NoTraps u i.cl.val → Clear u i.cl.val 4 →
    let a := fun key => u.vval key va
    let b := fun key => u.vval key vb
    let c := fun key => u.vval key vc
    (∀ (rnd : BitVec 3) (r : Round), roundOf rnd = some r →
      let d := fun key k => if r = .sr then u.vdraw key k else 0
      let kp := fun key => u.keyPoison key r 64
      Lanes (.vadd i p vd va vb rnd) s u i 4 vd (fun key => (a key).p ||| (b key).p ||| kp key)
        (fun key k => addF32 r (d key k) ((a key).lane k) ((b key).lane k)) ∧
      Lanes (.vsub i p vd va vb rnd) s u i 4 vd (fun key => (a key).p ||| (b key).p ||| kp key)
        (fun key k => subF32 r (d key k) ((a key).lane k) ((b key).lane k)) ∧
      Lanes (.vmul i p vd va vb rnd) s u i 4 vd (fun key => (a key).p ||| (b key).p ||| kp key)
        (fun key k => mulF32 r (d key k) ((a key).lane k) ((b key).lane k)) ∧
      Lanes (.vfma i p vd va vb vc rnd) s u i 4 vd (fun key => (a key).p ||| (b key).p ||| (c key).p ||| kp key)
        (fun key k => fmaF32 r (d key k) ((a key).lane k) ((b key).lane k) ((c key).lane k))) ∧
    Lanes (.vmin i p vd va vb) s u i 4 vd (fun key => (a key).p ||| (b key).p)
      (fun key k => minF32 ((a key).lane k) ((b key).lane k)) ∧
    Lanes (.vmax i p vd va vb) s u i 4 vd (fun key => (a key).p ||| (b key).p)
      (fun key k => maxF32 ((a key).lane k) ((b key).lane k))

/-- VCMP writes 1.0 or +0 per lane, with NI for a NaN operand; VSEL selects VA where VC's lane is nonzero, else VB; VPSET sets a predicate
from any lane or, with FMT[3], from all lanes of VA being nonzero, two cycles after issue; VPERM moves lane VB[6:0] of VA, three cycles
after issue (Tables 05.9 and 06.8). A granule is poisoned by those of its sources; a predicate by any. -/
def Obligations.VectorSelection : Prop :=
  ∀ (s u : State) (i : Issue) (p : Fin 2) (vd va vb vc : BitVec 5), s.issue i (pipeSlot p) = (u, true) → pgValid i.pg = true →
    PipeReady u i.cl.val p →
    let a := fun key => u.vval key va
    let b := fun key => u.vval key vb
    let c := fun key => u.vval key vc
    let set := fun key k => !(f32 ((a key).lane k)).isZero
    let from_ := fun key k => (b key).lane k % 128
    (NoTraps u i.cl.val → Clear u i.cl.val 2 → ∀ fmt : BitVec 4, fmt.toNat < 5 →
      Lanes (.vcmp i p vd va vb fmt) s u i 2 vd (fun key => (a key).p ||| (b key).p) (fun key k =>
        let x := f32 ((a key).lane k)
        let y := f32 ((b key).lane k)
        (if (fmt == 0 && x.eq y) || (fmt == 1 && !x.eq y) || (fmt == 2 && x.lt y) || (fmt == 3 && (x.lt y || x.eq y)) ||
            (fmt == 4 && (x.isNaN || y.isNaN)) then 0x3F800000 else 0,
          flagIf (x.isNaN || y.isNaN) flagNI))) ∧
    (Clear u i.cl.val 2 →
      Results (.vsel i p vd va vb vc) s u i 2 (fun key => .vreg vd.toNat
        { v := BitVec.ofNat 4096 (joinLanes ((upFrom 0 128).map fun k =>
            if (f32 ((c key).lane k)).isZero then (b key).lane k else (a key).lane k)),
          p := (a key).p ||| (b key).p ||| (c key).p }) ∧
      ∀ fmt : BitVec 4, Results (.vpset i p vd va fmt) s u i 2 (fun key => .pred (vd.toNat % 8)
        ⟨if fmt.getLsbD 3 then (upFrom 0 128).all (set key) else (upFrom 0 128).any (set key), decide ((a key).p ≠ 0)⟩)) ∧
    (Clear u i.cl.val 3 →
      Results (.vperm i p vd va vb) s u i 3 (fun key => .vreg vd.toNat
        { v := BitVec.ofNat 4096 (joinLanes ((upFrom 0 128).map fun k => (a key).lane (from_ key k))),
          p := BitVec.ofNat 64 (joinBits ((upFrom 0 64).map fun g => (b key).p.getLsbD g ||
            (a key).lanePoison (from_ key (2 * g)) || (a key).lanePoison (from_ key (2 * g + 1)))) }))

/-- VCVT (four cycles) packs the values of VA, an F32 register or a packed image, into the format FMT; VRED (28 cycles) puts the reduction
tree's result into lane 0 and +0 into the others; VSFU (16 cycles, pipe 0 and RNE) evaluates a special function in every lane; VACC (eight
cycles) converts 128 accumulator entries without a parity error to F32 under RNE. Each writes VD and sets the flags of its conversions; a
granule of VCVT's image is poisoned by what feeds it, VRED's granule 0 by any of VA's, and each by a poisoned rounding key under SR
(R102, R148, R155, R463, R464, Tables 05.9 and 06.8). -/
def Obligations.VectorFunctions : Prop :=
  ∀ (s u : State) (i : Issue) (p : Fin 2) (vd va : BitVec 5), s.issue i (pipeSlot p) = (u, true) → pgValid i.pg = true →
    PipeReady u i.cl.val p → NoTraps u i.cl.val →
    let a := fun key => u.vval key va
    (∀ (vb : BitVec 5) (rnd : BitVec 3) (sat : BitVec 1) (fmt : BitVec 4) (r : Round) (f g : Format), Clear u i.cl.val 4 →
      vcvtDecode vb rnd fmt = [] → roundOf rnd = some r → formatOf fmt.toNat = some g →
      (if vb.getLsbD 4 then formatOf (vb.toNat % 16) = some f else f = .f32) →
      let xs := fun key => unpackImage f (a key).bytes (a key).p
      let out := fun key => packImage g r (sat == 1) (fun j => if r = .sr then u.vdraw key j else 0) ((xs key).map (·.1))
      ∃ (t : State) (v : Nat → VVal), exec (.vcvt i p vd va vb rnd sat fmt) s = .next t ∧
        GivesFlags t u i 4 (fun key => .vreg vd.toNat (v key)) (fun key => (out key).2) ∧ ∀ key,
        (v key).v = BitVec.ofNat 4096 (ofBytes ((out key).1 ++ List.replicate (512 - (out key).1.length) 0)) ∧
        ∀ h, h < 64 → ((v key).p.getLsbD h = true ↔
          (∃ b, 8 * h ≤ b ∧ b < 8 * h + 8 ∧ b < (out key).1.length ∧
            ∃ k ∈ imageFeeds g b, ((xs key).map (·.2)).getD k false = true) ∨
          (r = .sr ∧ (u.roundKey key).p = true ∧ 8 * h < (out key).1.length))) ∧
    (∀ (rnd : BitVec 3) (r : Round) (fmt : BitVec 4), Clear u i.cl.val 28 → (roundOf rnd).getD .rne = r →
      (fmt = 0 → roundOf rnd = some r) → fmt.toNat < 3 →
      let red := fun key =>
        reduceTree (fun t k => vredOp fmt.toNat r (if r = .sr then u.vdraw key (128 * t + k) else 0)) 7 0 (a key).lanes 0
      ∃ t : State, exec (.vred i p vd va rnd fmt) s = .next t ∧
        GivesFlags t u i 28 (fun key => .vreg vd.toNat
          { v := BitVec.ofNat 4096 (red key).1,
            p := (if (a key).p ≠ 0 then 1 else 0) ||| (if fmt = 0 then u.keyPoison key r 1 else 0) }) (fun key => (red key).2)) ∧
    (∀ fmt : BitVec 4, Clear u i.cl.val 16 → p = 0 → fmt.toNat < 5 →
      Lanes (.vsfu i p vd va 0 fmt) s u i 16 vd (fun key => (a key).p) (fun key k => sfuEval fmt.toNat (f32 ((a key).lane k)))) ∧
    (∀ imm : BitVec 20, Clear u i.cl.val 8 → u.checking i.cl.val = false →
      let e := fun key => ((u.sval key va).v + BitVec.ofNat 64 (imm.toNat % 2 ^ 18 * 128)).toNat
      let x := fun key k => u.accEntry key (imm.toNat / 2 ^ 18 * accEntries + e key + k)
      let lane := fun key k =>
        let y := fmtW40.decode (x key k).v.toNat
        let c := fmtF32.round .rne false 0 y
        (c.1, c.2 ||| flagIf y.isNaN flagNI)
      (∀ key ∈ u.coresOf i.cl.val, (u.guard key i.pg).isSome = true → e key + 128 ≤ accEntries ∧
        ∀ k, k < 128 → (x key k).parityBad = false) →
      ∃ t : State, exec (.vacc i p vd va imm) s = .next t ∧
        GivesFlags t u i 8 (fun key => .vreg vd.toNat
          { v := BitVec.ofNat 4096 (joinLanes ((upFrom 0 128).map fun k => (lane key k).1)),
            p := BitVec.ofNat 64 (joinBits ((upFrom 0 64).map fun g => (u.sval key va).p || (x key (2 * g)).poison ||
              (x key (2 * g + 1)).poison)) }) (fun key => flagsOf ((upFrom 0 128).map (lane key))))

/-- VLD reads 512 bytes at s[VA] + IMM × 512 into VD eight cycles after issue, poisoned granule by granule, and throughout by a poisoned
address; VST writes VD there one cycle after issue, outside resident regions and committed halves, on every core on which it executes
(Tables 05.9 and 06.8, R148, R150). Nothing but the results on their way differs at issue. -/
def Obligations.VectorMemory : Prop :=
  ∀ (s u : State) (i : Issue) (p : Fin 2) (vd va : BitVec 5) (imm : BitVec 20), s.issue i (pipeSlot p) = (u, true) →
    pgValid i.pg = true → PipeReady u i.cl.val p → BanksFree u i.cl.val →
    let a := fun key => ((u.sval key va).v + BitVec.ofNat 64 (imm.toNat * 512)).toNat
    let runs := fun key => (u.guard key i.pg).isSome = true
    (∀ key ∈ u.coresOf i.cl.val, runs key → a key % 512 = 0 ∧ a key + 512 ≤ spadSize) →
    (Clear u i.cl.val 8 → (∀ key ∈ u.coresOf i.cl.val, runs key → CleanGranules u key (a key / 8) 64) →
      Results (.vld i p vd va imm) s u i 8 (fun key => .vreg vd.toNat
        { v := BitVec.ofNat 4096 (ofBytes (u.spadBytes key (a key) 512)),
          p := if (u.sval key va).p then BitVec.allOnes 64 else BitVec.ofNat 64 (joinBits (granulePoison u key (a key / 8) 64)) })) ∧
    ((∀ key ∈ u.coresOf i.cl.val, runs key → u.writeBarred key (a key) 512 = false) →
      Results (.vst i p vd va imm) s u i 1 (fun key => .bytes (a key) (toBytes 512 (u.vval key vd).v.toNat)
        ((upFrom 0 64).map fun g => (u.sval key va).p || (u.vval key vd).p.getLsbD g)))

/-- An MMA that passes its checks enters the matrix slot of every core of the cluster. Where no operation runs and no fade-out is under
way it runs from now: A0's first pass after the weight load, or after 32 cycles of fade-in if that is longer and the arrays are cold, A1
to A3 staggered by 8 cycles, and the arrays are warm. During a fade-out it waits for its end. Behind a running operation it waits: for
the fade-out that the running one ends with, for 12 cycles after one of another FORM, and else each array takes it up in its turn (R108,
R110, R126, R128). While one waits, a further one halts with 0x44; reserved codes, pairs and combinations that are not permitted, and
operands out of place halt with 0x03 or 0x06, 0x21, 0x20, and 0x22 or 0x2A (R105, R178). -/
def Obligations.MatrixIssue : Prop :=
  ∀ (s u : State) (i : Issue) (b : MmaBits), s.issue i .m = (u, true) → pgValid i.pg = true →
    let now := (u.seq i.cl.val).now
    let runs := fun key => (u.guard key i.pg).isSome = true
    let bad := fun key => b.scalarErrors (u.sval key b.sa).v.toNat (u.sval key b.sb).v.toNat (u.sval key b.so).v.toNat
    let cold := fun first start (c : Bool) => first = start + max b.geo.load (if c then 32 else 0)
    (b.decodeErrors = [] → b.paramErrors = [] → (∀ key ∈ u.coresOf i.cl.val, runs key → bad key = []) →
      ((∀ key ∈ u.coresOf i.cl.val, (u.core key).waiting = none) → BanksFree u i.cl.val →
        ∃ t, exec (.mma i b) s = .next t ∧ t = { u with cores := t.cores } ∧
          (∀ key, key ∉ u.coresOf i.cl.val → t.core key = u.core key) ∧
          ∀ key ∈ u.coresOf i.cl.val, ∃ r : MmaRun, r.bits = b ∧ r.next = [0, 0, 0, 0] ∧ r.aAddr = (u.sval key b.sa).v.toNat ∧
            r.bAddr = (u.sval key b.sb).v.toNat ∧ r.outAddr = (u.sval key b.so).v.toNat ∧ r.off = (u.guard key i.pg).isNone ∧
            let kept := { u.core key with tags := (t.core key).tags, arrayUses := (t.core key).arrayUses }
            let first := r.slotAt.getD 0 0
            (∀ j, j < 4 → ((u.core key).runningAt now = none ∨ ∃ run, (u.core key).running = some run ∧
                (run.bits.fade = 1 ∨ run.bits.form ≠ b.form)) → r.slotAt.getD j 0 = first + 8 * j ∧ r.endAt = first + b.runLength) ∧
            ((u.core key).runningAt now = none → (u.core key).fadeEnd now = none →
              t.core key = { kept with running := some r, warm := 0xF, fadeUntil := none, holdFaded := 0 } ∧ r.start = now ∧
              cold first now (u.core key).isCold) ∧
            (∀ x, (u.core key).runningAt now = none → (u.core key).fadeEnd now = some x →
              t.core key = { kept with running := none, waiting := some r } ∧ r.start = x ∧ cold first x true) ∧
            (∀ run, (u.core key).runningAt now = some run →
              t.core key = { kept with waiting := some r } ∧
              (run.bits.fade = 1 → r.start = run.endAt + 32 ∧ cold first r.start true) ∧
              (run.bits.fade = 0 → run.bits.form ≠ b.form → r.start = run.endAt + 12 ∧ cold first r.start false) ∧
              (run.bits.fade = 0 → run.bits.form = b.form → ∀ j, j < 4 → r.slotAt.getD j 0 =
                if now ≤ run.lastStart 0 then run.slotAfter j else max (now + b.geo.load + 8 * j) (run.slotAfter j)))) ∧
      (u.halted i.cl.val = false → (∃ key ∈ u.coresOf i.cl.val, (u.core key).waiting ≠ none) → HaltsWith (.mma i b) s i.cl.val 0x44)) ∧
    (u.halted i.cl.val = false →
      (∀ e es, b.decodeErrors = e :: es → HaltsWith (.mma i b) s i.cl.val e) ∧
      (∀ e es, b.decodeErrors = [] → b.paramErrors = e :: es → HaltsWith (.mma i b) s i.cl.val e) ∧
      (b.decodeErrors = [] → b.paramErrors = [] → ∀ e, u.coresOf i.cl.val ≠ [] → (∀ key ∈ u.coresOf i.cl.val, runs key ∧ bad key = [e]) →
        HaltsWith (.mma i b) s i.cl.val e))

/-- PASS_START of a due pass starts it on its array and queues every output of the pass at the cycle that its row is written, and 24
cycles later every converted row that goes to the scratchpad (R107, R108), no byte of memory changing and, where no other engine's access
is scheduled, no other core; where no pass is due it only lets the cycles pass. MMA_COMPLETE of an operation that is over frees the
slot and starts the fade-out that FADE asks for, and during a hold that of arrays left warm and idle; PENDING_TAKEUP moves the pending
operation up; FADE_OUT_END leaves the arrays cold; FADE_IN warms an array that a hold faded out, once the ramp would reach the hold's end
(R110, R126 to R129). -/
def Obligations.MatrixProgress : Prop :=
  ∀ (s : State) (c : CoreId) (adv : Nat),
    let u := s.addCycles c.cl.val adv
    let now := (u.seq c.cl.val).now
    let only := fun (t v : State) => t = { v with cores := t.cores } ∧ ∀ k, k ≠ c.key → t.core k = v.core k
    (∀ j : Fin 4, u.duePass c.key j.val = none → exec (.passStart c adv j) s = .next u) ∧
    (∀ (j : Fin 4) (r : MmaRun) (p : PassId), u.duePass c.key j.val = some (r, p) → u.passChecks c.key r p = [] →
      ∃ t, exec (.passStart c adv j) s = .next t ∧ (t.core c.key).running = some (r.started j.val) ∧ t.spad = u.spad ∧ t.hbm = u.hbm ∧
        ((u.core c.key).uses = [] → (u.seq c.cl.val).sieve = none → ∀ k, k ≠ c.key → t.core k = u.core k) ∧
        (r.off = false → 4 * p.rd + p.arr < r.bits.slices →
          (∀ o ∈ u.passOutputs c.key r p, ∃ w ∈ (t.core c.key).pend, w.due = r.bits.rowDue p.at_ o.row ∧
            ∃ q, w.target = .acc o.index (BitVec.ofNat 40 o.res.code) q ∧ (o.res.poison = true → q = true)) ∧
          ((u.core c.key).uses = [] → (u.seq c.cl.val).sieve = none → ∀ o ∈ u.passRows c.key r p (u.passOutputs c.key r p),
            u.writeBarred c.key o.addr o.bytes.length = false → ∃ w ∈ (t.core c.key).pend, w.due = o.due ∧
            ∃ ps, w.target = .bytes o.addr o.bytes ps))) ∧
    (∀ r, (u.core c.key).running = some r → r.allStarted = true → r.endAt ≤ now →
      let fade := if r.bits.fade = 1 then some (r.endAt + 32) else (u.core c.key).fadeUntil
      ∃ t, exec (.mmaComplete c adv) s = .next t ∧ only t u ∧
        t.core c.key = (if u.time.hold ≠ none ∧ (u.core c.key).waiting = none ∧ fade = none ∧ (u.core c.key).warm ≠ 0 then
            { u.core c.key with running := none, fadeUntil := some (now + 32),
                                holdFaded := (u.core c.key).holdFaded ||| (u.core c.key).warm }
          else { u.core c.key with running := none, fadeUntil := fade })) ∧
    (∀ w, (u.core c.key).waiting = some w → w.start ≤ now → (∀ r, (u.core c.key).running = some r → r.allStarted = true) →
      u.arraysRun c.cl.val = true →
      ∃ t, exec (.pendingTakeup c adv) s = .next t ∧ only t u ∧
        t.core c.key =
          { u.core c.key with running := some w, waiting := none, warm := 0xF, fadeUntil := none, holdFaded := 0 }) ∧
    (∀ x, (u.core c.key).fadeUntil = some x → x ≤ now →
      ∃ t, exec (.fadeOutEnd c adv) s = .next t ∧ only t u ∧
        t.core c.key = { u.core c.key with warm := 0, fadeUntil := none }) ∧
    (∀ (j : Fin 4) (h : HoldState), s.time.hold = some h → (s.core c.key).holdFaded.getLsbD j.val = true →
      (h.wallAt + 512 * h.frames ≤ s.wallNow + s.rampTicks →
        ∃ t, exec (.fadeIn c j) s = .next t ∧ only t s ∧
          (t.core c.key).warm.getLsbD j.val = true ∧ (t.core c.key).holdFaded.getLsbD j.val = false ∧
          ∀ k, k < 4 → k ≠ j.val → (t.core c.key).warm.getLsbD k = (s.core c.key).warm.getLsbD k) ∧
      (s.wallNow + s.rampTicks < h.wallAt + 512 * h.frames → exec (.fadeIn c j) s = .next s))

/-- XFER of the kinds that move plain rows, with the addresses SA + SADDR and DA + DADDR and the plan tick cue + LANDOFS + TREG + TIMM
(R157, R158, R180): KIND 0 from HBM and KIND 2 from the scratchpad put a transfer on its way to a core's landing stage, KIND 1 to an HBM
controller, with the bytes and the poison of the rows read, all poisoned where PG or an offset is; a core guarded off sends a void one
(R181). No byte of memory changes. An XFER of another slot's kind halts with 0x0C, one whose addresses do not fit with 0x29.

XFER of the other kinds, on a cluster of one core that executes it. By an index list (KIND 5, 6), one row per entry lands: the page's
or the gathered bytes of HBM at their address, zeros for a null entry, a row poisoned throughout for a poisoned entry, an unmapped page or
an address beyond HBM (R163, R164, R212, R243). By coded blocks (KIND 4) one row per block lands: the first block's decoded bytes, or a row
poisoned throughout where it does not decode (R267 to R269). KIND 3 queues packets with every byte of the rows on VC2 of the link that its
label names, to start at P − LEAD; KIND 7 to this device queues the rows' bytes at the destination core's drizzle port, and to another
device queues packets with them on VC0 of its path (R161, R162, R325). A label that names no path sends nothing and logs a notice (R324).
No byte of memory changes. -/
def Obligations.Transfers : Prop :=
  (∀ (s u : State) (i : Issue) (ld : Bool) (desc : BitVec 12) (sadr dadr treg : BitVec 5) (timm : Word),
     s.issue i (if ld then .ld else .st) = (u, true) → pgValid i.pg = true →
     let run := exec (.xfer i ld desc sadr dadr treg timm) s
     let d := fun key => u.desc key desc.toNat
     let x := fun key => u.xferArgs key desc sadr dadr treg timm ((u.guard key i.pg).getD false)
     let p : Nat → Int := fun key => (u.seq i.cl.val).cueTick + (d key).landofs + (u.sval key treg).v.toInt + timm.toNat
     let src := fun key n => ((u.sval key sadr).v.toNat + (d key).saddr) % 2 ^ 64 + 64 * (d key).sstride * n
     let dst := fun key n => ((u.sval key dadr).v.toNat + (d key).daddr) % 2 ^ 64 + 64 * (d key).dstride * n
     let bad := fun key => (u.guard key i.pg).getD false || (u.sval key sadr).p || (u.sval key dadr).p || (u.sval key treg).p
     let sent := fun key (l : Landing) (bs : Nat → List Byte) (ps : Nat → List Bool) =>
       l.p = p key ∧ l.kind = (d key).kind ∧ l.flag = (d key).flag ∧ l.sync = (d key).sync ∧ l.srcDev = u.deviceId ∧
       l.srcCore = u.dcoreOf key ∧ (u.guard key i.pg = none → l.rows = []) ∧
       ((u.guard key i.pg).isSome = true → l.rows.length = (d key).rows ∧ ∀ n, n < (d key).rows →
         l.rows[n]? = some (dst key n, bs n, (ps n).map fun q => q || bad key))
     let fromSpad := fun key l => sent key l (fun n => u.spadBytes key (src key n) (d key).len)
       (fun n => granulePoison u key (src key n / 8) (granCount (src key n) (d key).len))
     (BanksFree u i.cl.val → (∀ key ∈ u.coresOf i.cl.val, (u.guard key i.pg).isSome = true → (x key).fits = true) →
       (ld = false → (∀ key ∈ u.coresOf i.cl.val, (d key).kind = 2 ∧ (u.coreOfDcore (d key).dcore).isSome = true) →
         (∀ key g, (u.granMeta key g).check = .clean) →
         ∃ t, run = .next t ∧ t = { u with cores := t.cores } ∧
           (∀ key, KeepsCore (t.core key) (u.core key) ∧ (t.core key).pend = (u.core key).pend) ∧
           ∀ key ∈ u.coresOf i.cl.val, ∀ k, u.coreOfDcore (d key).dcore = some k → ∃ l ∈ (t.core k).inflight, fromSpad key l) ∧
       (ld = false → (∀ key ∈ u.coresOf i.cl.val, (d key).kind = 1) → (∀ key g, (u.granMeta key g).check = .clean) →
         ∃ t, run = .next t ∧ t.hbm = u.hbm ∧ t.spad = u.spad ∧
           (∀ key, KeepsCore (t.core key) (u.core key) ∧ (t.core key).pend = (u.core key).pend) ∧
           ∀ key ∈ u.coresOf i.cl.val, ∃ l ∈ (t.stack (stackOf (x key).da)).landing, fromSpad key l) ∧
       (ld = true → (∀ key ∈ u.coresOf i.cl.val, (d key).kind = 0 ∧ (d key).len % 32 = 0) → CleanUnits u →
         ∃ t, run = .next t ∧ t.hbm = u.hbm ∧ t.spad = u.spad ∧
           (∀ key, KeepsCore (t.core key) (u.core key) ∧ (t.core key).pend = (u.core key).pend) ∧
           ∀ key ∈ u.coresOf i.cl.val, ∃ l ∈ (t.core key).inflight,
             sent key l (fun n => memRead u.hbm (src key n) (d key).len) (fun n => unitPoison u (src key n) (d key).len))) ∧
     (ld = false → (∀ key ∈ u.coresOf i.cl.val, (d key).kind = 7 ∧ u.guard key i.pg = none) → run = .next u) ∧
     (u.halted i.cl.val = false → u.coresOf i.cl.val ≠ [] →
       ((∀ key ∈ u.coresOf i.cl.val, (if ld then loadKind (d key).kind else storeKind (d key).kind) = false) →
         HaltsWith (.xfer i ld desc sadr dadr treg timm) s i.cl.val 0x0C) ∧
       ((∀ key ∈ u.coresOf i.cl.val, (if ld then loadKind (d key).kind else storeKind (d key).kind) = true ∧
           (u.guard key i.pg).isSome = true ∧ (x key).fits = false) →
         HaltsWith (.xfer i ld desc sadr dadr treg timm) s i.cl.val 0x29))) ∧
  (∀ (s u : State) (i : Issue) (ld : Bool) (desc : BitVec 12) (sadr dadr treg : BitVec 5) (timm : Word) (key : Nat),
     s.issue i (if ld then .ld else .st) = (u, true) → i.pg = 0 → u.coresOf i.cl.val = [key] → BanksFree u i.cl.val →
     (∀ k g, (u.granMeta k g).check = .clean) → CleanUnits u →
     let run := exec (.xfer i ld desc sadr dadr treg timm) s
     let d := u.desc key desc.toNat
     let x := u.xferArgs key desc sadr dadr treg timm false
     let dest := fun n => x.da + 64 * d.dstride * n
     let from_ := fun n => x.sa + 64 * d.sstride * n
     let row := fun n => u.spadBytes key (from_ n) d.len
     let poisoned := fun (r : Nat × List Byte × List Bool) n => r.1 = dest n ∧ r.2.1.length = d.len ∧ r.2.2 = List.replicate (d.len / 8) true
     let landed := fun (t : State) (f : Nat → Nat × List Byte × List Bool → Prop) =>
       t.hbm = u.hbm ∧ t.spad = u.spad ∧ ∃ l, (t.core key).inflight = (u.core key).inflight ++ [l] ∧
         l.p = x.p ∧ l.flag = d.flag ∧ l.sync = d.sync ∧ l.rows.length = d.rows ∧ ∀ n r, l.rows[n]? = some r → f n r
     let carries := fun (ps : List TxPacket) => ∀ n k, n < d.rows → k < d.len → ∃ q ∈ ps, ∃ m, q.pkt.daddr + m = dest n + k ∧
       q.pkt.data[m]? = (row n)[k]?
     x.fits = true →
     (ld = true → d.kind = 5 ∨ d.kind = 6 → d.len % 32 = 0 →
       ∃ t, run = .next t ∧ landed t fun n r =>
         let e := ofBytes (u.spadBytes key (64 * d.sstride + 8 * n) 8)
         let hbm := fun a => if hbmSize < a + d.len then poisoned r n
           else r = (dest n, memRead u.hbm a d.len, (unitPoison u a d.len).map fun q => q || x.poison)
         let pte := u.fget Reg.SV_AREA_BASE + 0x10000000 + bitsOf 46 32 e * 32768 + 4 * bitsOf 31 0 e
         let w := ofBytes (memRead u.hbm pte 4)
         if (u.granMeta key (8 * d.sstride + n)).poison then poisoned r n
         else if bitOf e 63 then r = (dest n, List.replicate d.len 0, List.replicate (d.len / 8) x.poison)
         else if d.kind = 6 then bitsOf 39 0 e % 32 = 0 → hbm (x.sa + bitsOf 39 0 e)
         else if 8192 ≤ bitsOf 31 0 e ∨ hbmSize < pte + 4 ∨ (u.unitMeta (pte / 32)).poison ∨ bitOf w 31 = false then poisoned r n
         else pte % 4 = 0 → (u.fget Reg.SV_POOL_BASE_BASE) % 32 = 0 →
           hbm (u.fget Reg.SV_POOL_BASE_BASE + bitsOf 23 0 w * u.fget Reg.SV_POOL_STRIDE_STRIDE * 32 + x.sa)) ∧
     (ld = true → d.kind = 4 →
       ∃ t, run = .next t ∧ landed t fun n r => n = 0 →
         let h := memRead u.hbm x.sa 64
         let clen := ofBytes ((h.drop 8).take 4)
         let ok := x.sa + 64 ≤ hbmSize ∧ clen % 32 = 0 ∧ 64 ≤ clen ∧ x.sa + clen ≤ hbmSize
         let bytes := decodeBlock u.tables h (memRead u.hbm (x.sa + 64) (clen - 64)) d.len
         (∀ out, ok → bytes = some out → r = (dest 0, out, List.replicate (d.len / 8) ((unitPoison u x.sa clen).any id || x.poison))) ∧
         ((¬ ok ∨ bytes = none) → poisoned r 0)) ∧
     (ld = false → d.kind = 3 → 0 < d.len →
       let e := u.label none d.route
       (d.route ≠ 0xFF → labelSends e = true →
         ∃ t ps, run = .next t ∧ t.spad = u.spad ∧ t.hbm = u.hbm ∧ (t.link (labelOut e)).vc2 = (u.link (labelOut e)).vc2 ++ ps ∧
           ps ≠ [] ∧ carries ps ∧ ∀ q ∈ ps, q.launch = x.p - labelLead e ∧ q.pkt.vc = 2 ∧ q.pkt.pkind = 0 ∧ q.pkt.ddev = d.ddev ∧
             q.pkt.dcore = d.dcore ∧ q.pkt.pland = unsignedOf 32 x.p ∧ q.pkt.route = labelNext e ∧ q.pkt.remt = labelRemt e ∧
             q.pkt.flag = d.flag ∧ q.pkt.sync = d.sync) ∧
       ((d.route = 0xFF ∨ labelSends e = false) →
         ∃ t, run = .next t ∧ Noticed u t ∧ t.links = u.links ∧ t.spad = u.spad ∧ t.hbm = u.hbm)) ∧
     (ld = false → d.kind = 7 → 0 < d.len →
       (∀ dst, d.ddev = u.deviceId → u.coreOfDcore d.dcore = some dst →
         ∃ t rs, run = .next t ∧ t.spad = u.spad ∧ t.hbm = u.hbm ∧ (t.core dst).drizzle = (u.core dst).drizzle ++ rs ∧
           (rs.flatMap fun r => writeData r.op) = (upFrom 0 d.rows).flatMap row) ∧
       (∀ path, d.ddev ≠ u.deviceId → u.lowPath d.route = some path → u.mustHold d.ddev (path.1 * 256 + path.2.1) = false →
         0 < u.lowData d.route →
         ∃ t ps, run = .next t ∧ t.spad = u.spad ∧ t.hbm = u.hbm ∧ (t.link path.1).vc0 = (u.link path.1).vc0 ++ ps ∧ ps ≠ [] ∧
           carries ps ∧ ∀ q ∈ ps, q.pkt.vc = 0 ∧ q.pkt.pkind = 2 ∧ q.pkt.ddev = d.ddev ∧ q.pkt.dcore = d.dcore ∧ q.pkt.route = path.2.1) ∧
       (d.ddev ≠ u.deviceId → u.lowPath d.route = none →
         ∃ t, run = .next t ∧ Noticed u t ∧ t.links = u.links ∧ t.spad = u.spad ∧ t.hbm = u.hbm)))

/-! ## Counters, reductions, the sieve and cues (R42 to R45, R182 to R188, R192, R201 to R217) -/

/-- SIG schedules an increment by AMT times the number of executing cores at cue + TIMM, SETC a value there; nothing else changes.
When they are due, SIG_DUE and SETC_DUE apply them modulo 2^32, a SETC before an increment of its tick; no other counter moves, and a WAIT
that the new value satisfies keeps its tick, or that of the WAIT's issue if that is later (R182 to R184). -/
def Obligations.CountersScheduled : Prop :=
  (∀ (s u : State) (i : Issue) (ctr : BitVec 13) (timm : Word), s.issue i .sy = (u, true) →
    (∀ amt : BitVec 16, pgValid i.pg = true → amt ≠ 0 →
      exec (.sig i ctr amt timm) s = .next { u with take.sched := u.take.sched ++
        [{ ctr := ctr.toNat, set := false,
           val := BitVec.ofNat 32 (amt.toNat * ((u.coresOf i.cl.val).filter fun key => (u.guard key i.pg).isSome).length),
           due := (u.seq i.cl.val).cueTick + timm.toNat }] }) ∧
    (∀ (val : Word) (t18 : BitVec 18), i.pg = 0 →
      exec (.setc i ctr val t18) s = .next { u with take.sched := u.take.sched ++
        [{ ctr := ctr.toNat, set := true, val := val, due := (u.seq i.cl.val).cueTick + t18.toNat }] })) ∧
  (∀ (s : State) (ctr : BitVec 13),
    let mine := s.take.sched.filter fun e => decide (e.ctr = ctr.toNat)
    let rest := s.take.sched.filter fun e => !decide (e.ctr = ctr.toNat)
    let cl := ctr.toNat / 2048
    let moved := fun (t : State) (n : Nat) (due : Int) =>
      t = { s with regs := t.regs, seqs := t.seqs, take.sched := rest } ∧ t.counter ctr.toNat = n % 2 ^ 32 ∧
      (∀ c, c < 8192 → c ≠ ctr.toNat → t.counter c = s.counter c) ∧ (∀ k, k ≠ cl → t.seq k = s.seq k) ∧
      ((s.seq cl).wait = none → t.seq cl = s.seq cl) ∧
      ∀ w, (s.seq cl).wait = some w → w.ctr = ctr.toNat → w.met = none → w.target.toNat ≤ n % 2 ^ 32 →
        t.seq cl = { s.seq cl with wait := some { w with met := some (max due w.since) } }
    (∀ e, mine = [e] → e.set = false → e.due ≤ s.planNow →
      ∃ t, exec (.sigDue ctr) s = .next t ∧ moved t (s.counter ctr.toNat + e.val.toNat) e.due) ∧
    (∀ e, mine = [e] → e.set = true → e.due ≤ s.planNow →
      ∃ t, exec (.setcDue ctr) s = .next t ∧ moved t e.val.toNat e.due) ∧
    (∀ e f, (mine = [e, f] ∨ mine = [f, e]) → e.set = true → f.set = false → e.due = f.due → e.due ≤ s.planNow →
      ∃ t, exec (.sigDue ctr) s = .next t ∧ t.counter ctr.toNat = (e.val.toNat + f.val.toNat) % 2 ^ 32 ∧
        (∀ c, c < 8192 → c ≠ ctr.toNat → t.counter c = s.counter c)) ∧
    ((∀ e ∈ mine, s.planNow < e.due) → exec (.sigDue ctr) s = .next s ∧ exec (.setcDue ctr) s = .next s))

/-- WAIT stops its cluster's issue, with the target (s[STGT] + TGT) mod 2^32, noting at once where its counter has already reached it;
nothing else changes. WAIT_SATISFIED lets issue go on where the counter reached the target, compared unsigned, within TMO plan ticks;
WAIT_TIMEOUT halts with 0x42 where TMO ticks have passed first; either applies first what is due (R184). -/
def Obligations.WaitStopsIssue : Prop :=
  (∀ (s u : State) (i : Issue) (ctr : BitVec 13) (st : BitVec 5) (tmo : BitVec 20) (tgt : BitVec 30) (v : DWord),
    s.issue i .sy = (u, true) → i.pg = 0 → tmo ≠ 0 → ctr.toNat / 2048 = i.cl.val → u.controlVals i.cl.val st ≠ [] →
    (∀ x ∈ u.controlVals i.cl.val st, x.v = v) →
    let target := BitVec.ofNat 32 ((v.toNat + tgt.toNat) % 2 ^ 32)
    ∃ t, exec (.wait i ctr st tmo tgt) s = .next t ∧ t = { u with seqs := t.seqs } ∧ (∀ k, k ≠ i.cl.val → t.seq k = u.seq k) ∧
      t.seq i.cl.val = { u.seq i.cl.val with
        wait := some { ctr := ctr.toNat, target := target, tmo := tmo.toNat, since := u.planNow,
                       met := if target.toNat ≤ u.counter ctr.toNat then some u.planNow else none },
        waited := (u.seq i.cl.val).waited ++ [ctr.toNat] } ∧
      ∀ (j : Issue) (slot : Slot), j.cl = i.cl → 0 < j.adv → (t.issue j slot).2 = false) ∧
  (∀ (s : State) (cl : Fin 4) (w : WaitState),
    let u := s.settleDue s.planNow
    (u.seq cl.val).wait = some w →
    (∀ x, w.met = some x → x ≤ w.since + w.tmo →
      (∃ t, exec (.waitSatisfied cl) s = .next t ∧ (t.seq cl.val).wait = none ∧ (t.seq cl.val).pc = (u.seq cl.val).pc ∧
        t.regs = u.regs ∧ t.cores = u.cores ∧ ∀ k, k ≠ cl.val → t.seq k = u.seq k) ∧
      exec (.waitTimeout cl) s = .next u) ∧
    ((w.met = none ∨ ∃ x, w.met = some x ∧ w.since + w.tmo < x) →
      exec (.waitSatisfied cl) s = .next u ∧
      (u.planNow < w.since + w.tmo → exec (.waitTimeout cl) s = .next u) ∧
      (w.since + w.tmo ≤ u.planNow → u.halted cl.val = false → HaltsWith (.waitTimeout cl) s cl.val 0x42)))

/-- REDC folds SA over the cluster's cores in ascending virtual core and writes the result, 16 cycles after issue, on every core, with its
flags (R185). A fold is, by ROP, the sum modulo 2^64, the signed minimum or maximum, the bitwise AND or OR, or in order the F32 sum, minimum
or maximum with their flags; a poisoned contribution poisons the result. REDX in a group of this device's clusters, its plan tick
cue + TIMM not past, contributes the cluster's fold to every member and awaits the result at that tick; REDX_RESULT then writes the fold
of all members' contributions, by ascending rank, to SD on every core and sets its flags with those of the cluster's own fold, or halts with
0x47 where one is missing; a cluster outside the group halts with 0x2B (R186). -/
def Obligations.Reductions : Prop :=
  ((∀ (s u : State) (i : Issue) (sd sa : BitVec 5) (rop : BitVec 3), s.issue i .sy = (u, true) → i.pg = 0 →
     readOnlyScalar sd = false → Clear u i.cl.val 16 →
     let r := foldAll rop.toNat (u.controlVals i.cl.val sa)
     let now := (u.seq i.cl.val).now
     ∃ t, exec (.redc i sd sa rop) s = .next t ∧ OnlyResults t u i.cl.val ∧
       ∀ key ∈ u.coresOf i.cl.val, (t.core key).pend = (u.core key).pend ++
         [{ due := now + 16, issued := now, tag := (u.core key).tags, target := .sreg sd.toNat r.1 },
          { due := now + 16, issued := now, tag := (u.core key).tags, target := .flags r.2 }]) ∧
   (∀ (u : State) (cl : Nat) (sa : BitVec 5), u.controlVals cl sa = (u.coresOf cl).map fun key => u.sval key sa) ∧
   (∀ v vs, (foldAll 0 (v :: vs)).1.v = ((v :: vs).map (·.v)).foldl (fun a b => a + b) 0 ∧
     (foldAll 1 (v :: vs)).1.v.toInt = (vs.map (·.v.toInt)).foldl min v.v.toInt ∧
     (foldAll 2 (v :: vs)).1.v.toInt = (vs.map (·.v.toInt)).foldl max v.v.toInt ∧
     (foldAll 3 (v :: vs)).1.v = (vs.map (·.v)).foldl (fun a b => a &&& b) v.v ∧
     (foldAll 4 (v :: vs)).1.v = ((v :: vs).map (·.v)).foldl (fun a b => a ||| b) 0 ∧
     (∀ w, foldAll 5 [v, w] = (⟨BitVec.ofNat 64 (addF32 .rne 0 (v.v.toNat % 2 ^ 32) (w.v.toNat % 2 ^ 32)).1, v.p || w.p⟩,
         (addF32 .rne 0 (v.v.toNat % 2 ^ 32) (w.v.toNat % 2 ^ 32)).2) ∧
       foldAll 6 [v, w] = (⟨BitVec.ofNat 64 (minF32 (v.v.toNat % 2 ^ 32) (w.v.toNat % 2 ^ 32)).1, v.p || w.p⟩,
         (minF32 (v.v.toNat % 2 ^ 32) (w.v.toNat % 2 ^ 32)).2) ∧
       foldAll 7 [v, w] = (⟨BitVec.ofNat 64 (maxF32 (v.v.toNat % 2 ^ 32) (w.v.toNat % 2 ^ 32)).1, v.p || w.p⟩,
         (maxF32 (v.v.toNat % 2 ^ 32) (w.v.toNat % 2 ^ 32)).2)) ∧
     ∀ rop, (foldAll rop (v :: vs)).1.p = (v :: vs).any (·.p) ∧ (rop < 5 → (foldAll rop (v :: vs)).2 = 0) ∧
       ∀ w, (foldAll rop (v :: vs ++ [w])).1.v = (foldStep rop (foldAll rop (v :: vs)).1.v w.v).1 ∧
         (foldAll rop (v :: vs ++ [w])).2 = (foldAll rop (v :: vs)).2 ||| (foldStep rop (foldAll rop (v :: vs)).1.v w.v).2)) ∧
  ((∀ (s u : State) (i : Issue) (sd sa : BitVec 5) (rop : BitVec 3) (grp : BitVec 8) (timm : Word), s.issue i .sy = (u, true) →
     i.pg = 0 → readOnlyScalar sd = false →
     let p := (u.seq i.cl.val).cueTick + (timm.toNat : Int)
     let r := foldAll rop.toNat (u.controlVals i.cl.val sa)
     (∀ g rank, u.group grp.toNat = some g → u.rankIn g i.cl.val = some rank → (∀ m ∈ g.members, m.1 = u.deviceId) → u.planNow ≤ p →
       ∃ t, exec (.redx i sd sa rop grp timm) s = .next t ∧ t = { u with seqs := t.seqs } ∧
         (∃ x ∈ (t.seq i.cl.val).redx, x.grp = grp.toNat ∧ x.p = p ∧ x.sd = sd.toNat ∧ x.issued = true ∧ x.flags = r.2 ∧
           (rank, r.1) ∈ x.parts) ∧
         ∀ m ∈ g.members, ∃ x ∈ (t.seq m.2).redx, x.grp = grp.toNat ∧ x.p = p ∧ (rank, r.1) ∈ x.parts) ∧
     (u.halted i.cl.val = false → (∀ g, u.group grp.toNat = some g → u.rankIn g i.cl.val = none) →
       HaltsWith (.redx i sd sa rop grp timm) s i.cl.val 0x2B)) ∧
   (∀ (s : State) (cl : Fin 4) (r : RedxState) (g : RedGroup), (s.seq cl.val).redx = [r] → r.issued = true → r.p ≤ s.planNow →
     s.group r.grp = some g →
     (∀ vs, partsInOrder r.parts 0 g.members.length = some vs → NoTraps s cl.val →
       ∃ t, exec (.redxResult cl) s = .next t ∧ t = { s with seqs := t.seqs, cores := t.cores, regs := t.regs } ∧
         (t.seq cl.val).redx = [] ∧
         (∀ key ∈ s.coresOf cl.val, (∀ q, mapGet (fun _ => ⟨0, false⟩) (t.core key).sregs q =
             if q = r.sd then (foldAll g.rop vs).1 else mapGet (fun _ => ⟨0, false⟩) (s.core key).sregs q) ∧
           stickyFlags t key = stickyFlags s key ||| (foldAll g.rop vs).2 ||| r.flags)) ∧
     (s.halted cl.val = false → (∃ k, k < g.members.length ∧ ∀ x ∈ r.parts, x.1 ≠ k) →
       HaltsWith (.redxResult cl) s cl.val 0x47)))

/-- TRIG writes the visible latch of the input to every core: EDGE, OVF, HOLDOVER and the capture's plan tick, 0 where no edge is visible,
and with CLR asks for the latch's clearing at the next gate (R187); its latency is a free value (log 42). SSEL of a shape that the reel has
shows it in CL_SEQ_SSEL; on W0 it stands for the next cut message, or for the following one where it comes at or after the tick of that
message; SSEL halts with 0x28 beyond the reel's shapes (R192). -/
def Obligations.TriggerAndShape : Prop :=
  ∀ (s u : State) (i : Issue), s.issue i .sy = (u, true) → i.pg = 0 →
    (∀ (sd : BitVec 5) (inp : Fin 4) (clr : BitVec 1), readOnlyScalar sd = false → (∀ lat, 0 < lat → Clear u i.cl.val lat) →
      ∃ t lat v, exec (.trig i sd inp clr) s = .next t ∧ 0 < lat ∧ t = { u with cores := t.cores, time := t.time } ∧
        (∀ key ∈ u.coresOf i.cl.val, (t.core key).pend = queued u key 0 lat (.sreg sd.toNat ⟨v, false⟩)) ∧
        (∀ key, KeepsCore (t.core key) (u.core key)) ∧
        ((u.trig inp.val).vis = none → v = 0) ∧
        (∀ l, (u.trig inp.val).vis = some l → v.getLsbD 63 = l.edge ∧ v.getLsbD 62 = l.ovf ∧ v.getLsbD 61 = l.holdover ∧
          v.toNat % 2 ^ 61 = (l.cap % 2 ^ 48).toNat) ∧
        (clr = 1 → t.trig inp.val = { u.trig inp.val with clear := some ((u.planNow / 4096 + 1) * 4096) } ∧
          ∀ k, k ≠ inp.val → t.trig k = u.trig k) ∧
        (clr = 0 → t.time = u.time)) ∧
    (∀ (sa : BitVec 5) (n : DWord), u.controlVals i.cl.val sa ≠ [] → (∀ x ∈ u.controlVals i.cl.val sa, x = ⟨n, false⟩) →
      (n.toNat < u.nshape → n.toNat < 64 →
        ∃ t, exec (.ssel i sa) s = .next t ∧ t.fget (Reg.CL_SEQ_SSEL_INDEX i.cl.val) = n.toNat ∧
          t.flag (Reg.CL_SEQ_SSEL_VALID i.cl.val) = true ∧ (∀ off, off ≠ Reg.CL_SEQ_SSEL i.cl.val → t.reg off = u.reg off) ∧
          t = { u with
            regs := t.regs,
            take := if i.cl.val ≠ 0 then u.take
              else if u.take.msgSent = false ∧ u.take.lastCut + u.stepTicks 0 - 4096 * u.fget Reg.SV_TIMING_READY ≤ u.planNow then
                { u.take with sselLate := some n.toNat }
              else { u.take with ssel := some n.toNat } }) ∧
      (u.halted i.cl.val = false → u.nshape ≤ n.toNat → HaltsWith (.ssel i sa) s i.cl.val 0x28))

/-- The four functions of SIEVE on a free sieve: the results of every core, as its function computes them from its scratchpad, are written
at the last cycle of the latency of Table 07.4, and the sieve runs until then; on a running sieve the operation stalls the cluster's issue;
SIEVE_FREE frees the sieve once its latency has passed, and a stalled operation starts then (R201, R203). What the functions choose:
TOPK the K best scores of a row in descending order, equal ones by ascending expert, NaN below −∞ and zeros equal (R204); SEND fills no
exchange slot beyond X rows (R206); DISPATCH places no more rows than the experts' capacities and the pool (R209); PAGES selects
min(n, BUDGET) pages, the leading and trailing ones always where BUDGET holds them, in ascending order and below n (R214). -/
def Obligations.SieveOperations : Prop :=
  (∀ (s u : State) (i : Issue) (entry : BitVec 8) (sa : BitVec 5), s.issue i .sy = (u, true) → i.pg = 0 →
     let e := u.sieveEntry i.cl.val entry.toNat
     let now := (u.seq i.cl.val).now
     let runs := fun (c : Instr) (f : SieveFunc) (lat : Nat) => ∀ ts : Nat → List Target,
       (∀ key ∈ u.coresOf i.cl.val, u.sieveCore key f e sa = .ok (ts key, u)) →
       (∀ key ∈ u.coresOf i.cl.val, ∀ x ∈ ts key, u.targetBarred key x = false) →
       ∃ t v, exec c s = .next t ∧ OnlyResults { t with seqs := u.seqs } u i.cl.val ∧
         t.seq i.cl.val = { u.seq i.cl.val with sieve := some v } ∧ v.from_ = now ∧ v.until_ = now + lat ∧
         ∀ key ∈ u.coresOf i.cl.val, (t.core key).pend = (u.core key).pend ++ (ts key).map fun x =>
           { due := now + lat, issued := now, tag := (u.core key).tags, target := x }
     let stalls := fun c : Instr =>
       ∃ t, exec c s = .next t ∧ t = { u with seqs := t.seqs } ∧ t.seq i.cl.val = { u.seq i.cl.val with stalled := [c] } ∧
         t.canAdvance i.cl.val = false
     (BanksFree u i.cl.val → (∀ key ∈ u.coresOf i.cl.val, ∀ g, (u.granMeta key g).check = .clean) →
       runs (.topk i entry sa) .topk (24 + e.t * ceilDiv e.e 64) ∧
       runs (.send i entry sa) .send (24 + ceilDiv (e.t * e.k) 8 + ceilDiv (e.nsrc * e.x) 64) ∧
       runs (.dispatch i entry sa) .dispatch (24 + ceilDiv (e.nsrc * e.x) 16) ∧
       runs (.pages i entry sa) .pages (24 + e.t * ceilDiv e.npg 64)) ∧
     (∀ v, (u.seq i.cl.val).sieve = some v → now < v.until_ →
       stalls (.topk i entry sa) ∧ stalls (.send i entry sa) ∧ stalls (.dispatch i entry sa) ∧ stalls (.pages i entry sa)) ∧
     (∀ v adv op f ent a, (s.seq i.cl.val).sieve = some v → (s.seq i.cl.val).stalled = [op] → stalledSieve [op] = some (f, ent, a) →
       v.until_ ≤ (s.seq i.cl.val).now + adv →
       ∃ t w, exec (.sieveFree i.cl adv) s = .next t ∧ (t.seq i.cl.val).sieve = some w ∧ (t.seq i.cl.val).stalled = [] ∧
         w.func = f.code ∧ w.from_ = max (s.seq i.cl.val).now v.until_ ∧ w.until_ = w.from_ + (s.sieveEntry i.cl.val ent).latency f ∧
         (t.seq i.cl.val).now = w.from_) ∧
     (∀ v adv, (s.seq i.cl.val).sieve = some v → (s.seq i.cl.val).stalled = [] → v.until_ ≤ (s.seq i.cl.val).now + adv →
       ∃ t, exec (.sieveFree i.cl adv) s = .next t ∧ (t.seq i.cl.val).sieve = none ∧
         (t.seq i.cl.val).now = (s.seq i.cl.val).now + adv)) ∧
  ((∀ (k : Nat) (xs : List Score), xs.Pairwise (fun a b => a.1 < b.1) → (∀ x ∈ xs, x.2.2 = false ∧ x.2.1 < 2 ^ 32) →
     ∃ ys : List Score, ys.length = min k xs.length ∧ (∀ y ∈ ys, y ∈ xs) ∧
       topkRow k xs = ys.map (fun y => (y.1 * 2 ^ 32 + y.2.1, false)) ∧
       ys.Pairwise (fun a b => scoreRank b < scoreRank a ∨ scoreRank a = scoreRank b ∧ a.1 < b.1) ∧
       ∀ x ∈ xs, x ∉ ys → ∀ y ∈ ys, scoreRank x < scoreRank y ∨ scoreRank x = scoreRank y ∧ y.1 < x.1) ∧
   (∀ a b : Score, a.2.2 = false → b.2.2 = false → a.2.1 < 2 ^ 32 → b.2.1 < 2 ^ 32 → (f32 b.2.1).isNaN = false →
     ((f32 a.2.1).isNaN = true → scoreRank a < scoreRank b) ∧
     ((f32 a.2.1).isNaN = false → (scoreRank a < scoreRank b ↔ (f32 a.2.1).lt (f32 b.2.1) = true))) ∧
   (∀ (e : SieveEntry) (map : List Nat) (base n : Nat) (cs : List (Nat × Bool)) (x : SendState), (∀ u ∈ x.used, u ≤ e.x) →
     ∀ u ∈ (SendState.choices e map base n cs x).used, u ≤ e.x) ∧
   (∀ (e : SieveEntry) (map full : List Nat) (n : Nat) (ts : List (Nat × Bool)) (x : DispState),
     x.pool ≤ e.o → (∀ ex, mapGet (fun _ => 0) x.cnt ex ≤ e.c) →
     let y := DispState.tags e map full n ts x
     y.pool ≤ e.o ∧ ∀ ex, mapGet (fun _ => 0) y.cnt ex ≤ e.c) ∧
   (∀ (e : SieveEntry) (n : Nat) (xs : List Score), xs.map (·.1) = upFrom 0 n → 0 < e.budget → (fixedPages e n).length ≤ e.budget →
     (selectPages e n xs).length = min n e.budget ∧ (selectPages e n xs).Pairwise (fun a b => a < b) ∧
     (∀ p ∈ selectPages e n xs, p < n) ∧ ∀ p, p < n → p < e.sink ∨ n ≤ p + e.recent → p ∈ selectPages e n xs))

/-- CUE: at the plan tick of the cluster's next cue table entry, while plan time runs in RUNNING or DRAINING and no pending gate at or before
that tick waits for its hold, the segment launches with its first bundle fresh; an awaited counter below its target halts with 0x40, a
segment that still executes with 0x41 (R42 to R45, R63); bundles that hold nothing to issue, and that no command stands for, pass before it
(the model's way, log 102). Otherwise nothing changes. A CHECKPOINT that every region executing the segment meets in time changes nothing; one
that a region would finish after the next cue, with the gate at or before it, requests a hold there with reason 0x2, long enough for that
region (R46). The remaining cycles, and the segment's latest start, are counted as the model counts them (logs 31 to 33). -/
def Obligations.CuesAndCheckpoints : Prop :=
  (∀ (s : State) (cl : Fin 4) (e : CueEntry),
     let idx := if (s.seq cl.val).running then (s.seq cl.val).cueIdx + 1 else 0
     let tick := s.take.lastCut + e.tick
     let u := s.beforeCue cl.val tick
     s.cueEntry cl.val idx = some e →
     (s.dev = .running ∨ s.dev = .draining → s.planRuns = true → tick ≤ s.planNow →
       (∀ g ∈ s.time.gates, tick < 4096 * g.gate) → u.halted cl.val = false →
       ((∀ a ∈ e.awaits, a.2 ≤ u.counter a.1) → ((u.seq cl.val).running = true → (u.seq cl.val).ended = true) →
         u.checking cl.val = false → (∀ r ∈ u.regionsOf cl.val, u.stretching r = false) →
         ∃ t, exec (.cue cl) s = .next t ∧ (t.seq cl.val).running = true ∧ (t.seq cl.val).fresh = true ∧
           (t.seq cl.val).ended = false ∧ (t.seq cl.val).pc = e.addr ∧ (t.seq cl.val).cueTick = tick ∧ (t.seq cl.val).cueIdx = idx ∧
           (t.seq cl.val).stack = [] ∧ (t.seq cl.val).wait = none ∧ (∀ k, k ≠ cl.val → t.seq k = u.seq k) ∧
           t.regs = u.regs ∧ t.cores = u.cores ∧ t.spad = u.spad ∧ t.hbm = u.hbm) ∧
       ((∃ a ∈ e.awaits, u.counter a.1 < a.2) → HaltsWith (.cue cl) s cl.val 0x40) ∧
       ((∀ a ∈ e.awaits, a.2 ≤ u.counter a.1) → (u.seq cl.val).running = true → (u.seq cl.val).ended = false →
         HaltsWith (.cue cl) s cl.val 0x41)) ∧
     ((s.dev ≠ .running ∧ s.dev ≠ .draining) ∨ s.planRuns = false ∨ s.planNow < tick ∨ (∃ g ∈ s.time.gates, 4096 * g.gate ≤ tick) →
       exec (.cue cl) s = .next s)) ∧
  (∀ (s u : State) (i : Issue), s.issue i .head = (u, true) → (∀ r ∈ u.regionsOf i.cl.val, u.stretching r = false) →
     let cl := i.cl.val
     let finish := fun r => u.finishTick r (u.segmentBundles cl - (u.seq cl).begun) 0
     ((∀ r ∈ u.regionsOf cl, finish r ≤ u.nextCueTick cl) → exec (.checkpoint i) s = .next u) ∧
     (∀ r ∈ u.regionsOf cl, u.nextCueTick cl < finish r → u.dev.inTake = true → u.stopped = false →
       u.planNow < u.eligibleGate → u.eligibleGate ≤ u.nextCueTick cl →
       (∀ x ∈ u.regionsOf cl, finish x ≤ u.nextCueTick cl + 512 * 255) →
       u.time.gates.length < 4 → u.faults.queue.length + 12 ≤ 64 →
       ∃ t g, exec (.checkpoint i) s = .next t ∧ g ∈ t.time.gates ∧ 4096 * g.gate = u.eligibleGate ∧
         g.reasons.getLsbD 2 = true ∧ finish r ≤ u.nextCueTick cl + 512 * g.frames ∧ t.dev = u.dev))

/-! ## Landings, write-backs and the drizzle port -/

/-- A transfer that reaches a core's landing stage with room, or an HBM controller, waits there, and memory is unchanged; a full stage
discards its data (R159). Before its P nothing happens. Found by its P still on its way, or in the stage with data missing, or, sent by
another device, with nothing of it in the stage, it halts the cluster with 0x47 (R47, R48). At P the data of a store of one row, the only one of
its P, is written to HBM with its poison, and a flagged one increments its counter (R48, R183, R262); a store that has not arrived halts the
cluster that sent it with 0x47 (the model's reading, log 30). -/
def Obligations.ArrivalAndLateness : Prop :=
  ∀ (s : State) (l : Landing),
    (∀ (c : CoreId) (n : Nat),
      let rel := fun m e => Instr.landingRelease (some c) { index := m, expect := e }
      ((s.core c.key).inflight[n]? = some l →
        (∃ t, exec (.landingArrival (some c) n) s = .next t ∧ t = { s with cores := t.cores, regs := t.regs } ∧
          (t.core c.key).landing = (s.core c.key).landing ++ [if stageRoom (s.core c.key).landing l.bytes then
            { l with arrived := true, got := l.need } else { l with rows := [], arrived := false }] ∧
          (t.core c.key).inflight = dropIndex (s.core c.key).inflight n) ∧
        (s.planNow < l.p → exec (rel ((s.core c.key).landing.length + n) none) s = .next s) ∧
        (l.p ≤ s.planNow → s.halted c.cl.val = false → HaltsWith (rel ((s.core c.key).landing.length + n) none) s c.cl.val 0x47)) ∧
      ((s.core c.key).landing[n]? = some l → l.released = false →
        (s.planNow < l.p → exec (rel n none) s = .next s) ∧
        (l.p ≤ s.planNow → l.arrived = false → s.halted c.cl.val = false → HaltsWith (rel n none) s c.cl.val 0x47) ∧
        (∀ e, l.p ≤ s.planNow → e.names l = true → l.got < e.bytes → s.halted c.cl.val = false →
          HaltsWith (rel n (some e)) s c.cl.val 0x47)) ∧
      (∀ e, (s.planNow < e.p → exec (rel n (some e)) s = .next s) ∧
        (e.p ≤ s.planNow → (∀ m ∈ (s.core c.key).landing, e.names m = false) → s.halted c.cl.val = false →
          HaltsWith (rel n (some e)) s c.cl.val 0x47))) ∧
    (∀ i n : Nat, n < 65536 → (s.stack i).landing[n]? = some l →
      let rel := Instr.landingRelease none { index := i * 65536 + n, expect := none }
      (∃ t, exec (.landingArrival none (i * 65536 + n)) s = .next t ∧ t = { s with hbmStacks := t.hbmStacks } ∧
        (t.stack i).landing[n]? = some { l with arrived := true, got := l.need }) ∧
      (s.planNow < l.p → exec rel s = .next s) ∧
      (l.p ≤ s.planNow → (∀ m ∈ (s.stack i).landing, m.p = l.p → m = l) →
        (l.arrived = false → s.halted (l.srcCore / 16) = false → l.srcCore < 64 → HaltsWith rel s (l.srcCore / 16) 0x47) ∧
        (∀ a bs ps, l.arrived = true → l.rows = [(a, bs, ps)] → a % 32 = 0 → bs.length % 32 = 0 →
          s.inWeights a bs.length = false → s.isRetired a bs.length = false →
          (∀ e ∈ s.take.sched, e.ctr = l.sync → l.p < e.due) →
          ∃ t, exec rel s = .next t ∧ memRead t.hbm a bs.length = bs ∧
            (∀ b, (b < a ∨ a + bs.length ≤ b) → memGet t.hbm b = memGet s.hbm b) ∧
            (∀ k, k < bs.length / 32 → t.unitMeta (a / 32 + k) = { poison := ((ps.drop (4 * k)).take 4).any id, check := .clean }) ∧
            t.spad = s.spad ∧ t.counter l.sync = if l.flag then (s.counter l.sync + 1) % 2 ^ 32 else s.counter l.sync)))

/-- At P a transfer of one row in a core's landing stage becomes visible: its bytes are in the scratchpad with its poison, no other byte
changes, a flagged one increments its counter, and its granules wait for their write-back (R48, R159, R183); so does a transfer of another
device whose bytes are all there. Of two transfers of equal P the one of higher order prevails: a granule that it has landed on keeps its
bytes (R160). The write-back of a granule takes it from the stage and changes no byte; it waits while a scheduled access takes its bank
(R139). -/
def Obligations.LandingVisibleAtItsTick : Prop :=
  (∀ (s : State) (c : CoreId) (n : Nat) (l : Landing) (a : Nat) (bs : List Byte) (ps : List Bool) (expect : Option Expect),
     (s.core c.key).landing[n]? = some l → l.rows = [(a, bs, ps)] → l.arrived = true → l.released = false → l.p ≤ s.planNow →
     (∀ e, expect = some e → e.names l = true ∧ e.bytes ≤ l.got) → s.checking c.cl.val = false → l.decodeErr = false →
     a % 8 = 0 → bs.length % 8 = 0 → 0 < bs.length → a + bs.length ≤ spadSize → s.writeBarred c.key a bs.length = false →
     (∀ e ∈ s.take.sched, e.ctr = l.sync → l.p < e.due) →
     ∃ t, exec (.landingRelease (some c) { index := n, expect := expect }) s = .next t ∧ t.hbm = s.hbm ∧
       (t.core c.key).landing[n]? = some { l with released := true, left := upFrom (a / 8) (bs.length / 8) } ∧
       (∀ b, (b < spadAddr c.key a ∨ spadAddr c.key a + bs.length ≤ b) → memGet t.spad b = memGet s.spad b) ∧
       (∀ k, k < bs.length / 8 →
         let g := a / 8 + k
         if ∃ m ∈ (s.core c.key).landing, m.released = true ∧ m.prevails l = true ∧ g ∈ m.left then
           memRead t.spad (spadAddr c.key (8 * g)) 8 = memRead s.spad (spadAddr c.key (8 * g)) 8 ∧
           t.granMeta c.key g = s.granMeta c.key g
         else memRead t.spad (spadAddr c.key (8 * g)) 8 = (bs.drop (8 * k)).take 8 ∧
           t.granMeta c.key g = { poison := ps.getD k false, check := .clean }) ∧
       t.counter l.sync = (if l.flag then (s.counter l.sync + 1) % 2 ^ 32 else s.counter l.sync)) ∧
  (∀ (s : State) (c : CoreId) (g : Nat),
     (s.bankTaken c.key (bankOf (8 * g)) 1 = true → exec (.landingWriteback c g) s = .next s) ∧
     (s.bankTaken c.key (bankOf (8 * g)) 1 = false →
       ∃ t, exec (.landingWriteback c g) s = .next t ∧ t = { s with cores := t.cores } ∧
         (∀ m ∈ (t.core c.key).landing, g ∉ m.left) ∧
         (∀ x, x ≠ g → ∀ m ∈ (s.core c.key).landing, m.released = false ∨ x ∈ m.left →
           ∃ m' ∈ (t.core c.key).landing, m' = { m with left := m.left.filter (· ≠ g) })))

/-- A drizzle request within the scratchpad queues behind the others (R141). An access of the head request is made where no scheduled access
takes its banks, no write-back wants them and no scrub runs, and waits otherwise (R139, R153): outside ARMED, RUNNING and HOLDING, or in a
mailbox window, an access of a write, wide, narrow or partial, stores its bytes into granules without poison or error and no others (R142,
R147, Table 05.3); in those states a write outside the mailbox windows is refused and changes no byte (R142). The last access of a read of
one granule sends what was read to its host address. A request older than WDOG frames sets STARVED once (R144). The oldest ECC write-back
leaves its granule fresh check bits, with its poison, changing no byte, or waits for its bank (R139, R146). -/
def Obligations.DrizzlePort : Prop :=
  ∀ (s : State) (c : CoreId),
    (∀ op : DrizzleOp, op.addr + op.size ≤ spadSize → 0 < op.size → op.size ≤ 4096 →
      ∃ t r, exec (.drizzleRequest c op) s = .next t ∧ t = { s with cores := t.cores } ∧
        (t.core c.key).drizzle = (s.core c.key).drizzle ++ [r] ∧ r.op = op ∧ r.done = 0) ∧
    (s.scrubbing c.key = true ∨ s.drizzleWaits c.key = true → exec (.drizzleAccess c) s = .next s) ∧
    (∀ (r : DrizzleReq) (rest : List DrizzleReq), (s.core c.key).drizzle = r :: rest →
      let a := r.op.addr + r.done
      let m := accessSize a (r.op.size - r.done)
      (s.drizzleWaits c.key = true ↔ ∃ b ∈ banksOf a m, s.bankTaken c.key b (if m < 8 then 2 else 1) = true ∨
        (∃ l ∈ (s.core c.key).landing, ∃ g ∈ l.left, bankOf (8 * g) = b) ∨ ∃ w ∈ (s.core c.key).eccq, bankOf (8 * w.granule) = b) ∧
      (s.scrubbing c.key = false → s.drizzleWaits c.key = false → r.done < r.op.size → r.op.addr + r.op.size ≤ spadSize →
        (∀ at_ bs ps sync, r.op = .write at_ bs ps sync →
          (s.dev.intake = false ∨ s.inWindow c.key a m = true →
            (∀ g, 8 * g < a + m → a < 8 * g + 8 → s.granMeta c.key g = .clean) →
            ∃ t, exec (.drizzleAccess c) s = .next t ∧ memRead t.spad (spadAddr c.key a) m = (bs.drop r.done).take m ∧
              (∀ b, (b < spadAddr c.key a ∨ spadAddr c.key a + m ≤ b) → memGet t.spad b = memGet s.spad b) ∧ t.hbm = s.hbm) ∧
          (s.dev.intake = true → s.inWindow c.key a m = false → ∃ t, exec (.drizzleAccess c) s = .next t ∧ t.spad = s.spad ∧
            t.hbm = s.hbm ∧ (t.core c.key).drizzle.length = rest.length)) ∧
        (∀ at_ host, r.op = .read at_ 8 host → at_ % 8 = 0 → r.done = 0 → r.got = [] → s.granMeta c.key (at_ / 8) = .clean →
          ∃ t, exec (.drizzleAccess c) s = .next t ∧ Written s t host (s.spadBytes c.key at_ 8) ∧ t.spad = s.spad)) ∧
      (s.scrubbing c.key = false → s.fget (Reg.CL_DRZ_CFG_WDOG c.cl.val c.slot.val) ≠ 0 →
        (r.reported = true → exec (.drizzleWatchdog c) s = .next s) ∧
        (r.reported = false → r.since + s.fget (Reg.CL_DRZ_CFG_WDOG c.cl.val c.slot.val) ≤ s.wallNow / 512 →
          ∃ t, exec (.drizzleWatchdog c) s = .next t ∧ t.flag (Reg.CL_DRZ_STAT_STARVED c.cl.val c.slot.val) = true ∧
            (t.core c.key).drizzle = { r with reported := true } :: rest))) ∧
    (∀ w ws, (s.core c.key).eccq = w :: ws →
      let b := bankOf (8 * w.granule)
      let waits := s.bankTaken c.key b 1 = true ∨ ∃ l ∈ (s.core c.key).landing, ∃ g ∈ l.left, bankOf (8 * g) = b
      (waits → exec (.eccWriteback c) s = .next s) ∧
      (¬ waits → ∃ t, exec (.eccWriteback c) s = .next t ∧ t = { s with cores := t.cores, spadMeta := t.spadMeta } ∧
        (t.core c.key).eccq = ws ∧ t.granMeta c.key w.granule = { poison := w.poison, check := .clean } ∧
        ∀ k g, granKey k g ≠ granKey c.key w.granule → t.granMeta k g = s.granMeta k g))

/-! ## Gates, holds, replay -/

/-- At the earliest pending gate plan time stops at the gate's tick and the device holds for the merged length, RUNNING entering HOLDING
(R61), where no alternate waits for that hold; where the length would exceed STEPMAX, and at a gate with an open-ended request, the gate is a
replay stop: nothing waits in the landing stages or for the links, and resumption is fixed at a multiple of 65,536 wall ticks at least
RPAUSE frames after the gate (R65, R66, R372, R373), but on a device in its first step after joining. Before a gate nothing happens. When the
length has passed, and not before, the plan offset grows by it and plan time runs on, HOLDING returning to RUNNING (R61). -/
def Obligations.HoldsAtGates : Prop :=
  (∀ (s : State) (g : PendGate) (rest : List PendGate), s.planRuns = true → (s.dev = .armed ∨ s.dev = .running ∨ s.dev = .draining) →
    s.time.gates = g :: rest →
    (s.planNow < 4096 * g.gate → exec .gate s = .next s ∧ exec .replayStop s = .next s) ∧
    (4096 * g.gate ≤ s.planNow → s.take.altPending = [] → s.take.joined = false ∨ s.take.firstDone = true →
      let stops := fun (t : State) => ∃ st, t.time.stop = some st ∧ st.tick = 4096 * g.gate ∧ t.planNow = st.tick ∧
        st.wallAt = (s.time.offset + BitVec.ofInt 64 (4096 * g.gate)).toNat ∧ st.wr % 65536 = 0 ∧
        st.wallAt + 512 * s.fget Reg.FC_CFG_RPAUSE ≤ st.wr ∧ t.time.gates = [] ∧ t.time.hold = none ∧
        (∀ key, (t.core key).landing = [] ∧ (t.core key).inflight = []) ∧ (∀ i, (t.stack i).landing = []) ∧
        (∀ l, (t.link l).vc2 = []) ∧ t.spad = s.spad ∧ t.hbm = s.hbm
      (g.open_ = false → exec .replayStop s = .next s ∧
        (s.time.held + g.frames ≤ s.fget Reg.TB_HOLD_LIMIT_STEPMAX →
          ∃ t h, exec .gate s = .next t ∧ t.planNow = 4096 * g.gate ∧ t.time.gates = rest ∧ t.time.hold = some h ∧
            h.tick = 4096 * g.gate ∧ h.frames = g.frames ∧ h.pause = false ∧
            h.wallAt = (s.time.offset + BitVec.ofInt 64 (4096 * g.gate)).toNat ∧ t.time.held = s.time.held + g.frames ∧
            t.dev = (if s.dev = .running then .holding else s.dev) ∧
            t.fget Reg.TB_HOLD_STAT_LASTLEN = g.frames % 256 ∧ t.fget Reg.TB_HOLD_STAT_LASTGATE = (g.gate % 2 ^ 20).toNat ∧
            t.spad = s.spad ∧ t.hbm = s.hbm ∧ t.seqs = s.seqs) ∧
        (s.fget Reg.TB_HOLD_LIMIT_STEPMAX < s.time.held + g.frames → ∃ t, exec .gate s = .next t ∧ stops t)) ∧
      (g.open_ = true → exec .gate s = .next s ∧
        ∃ t, exec .replayStop s = .next t ∧ stops t ∧ t.dev = (if s.dev = .running then .holding else s.dev)))) ∧
  (∀ (s : State) (h : HoldState), s.time.hold = some h → h.pause = false →
    (s.wallNow < h.wallAt + 512 * h.frames → exec .holdEnd s = .next s) ∧
    (h.wallAt + 512 * h.frames ≤ s.wallNow → s.flag Reg.PW_STATUS_BRAKE = false →
      ∃ t, exec .holdEnd s = .next t ∧ t.time.offset = s.time.offset + BitVec.ofNat 64 (512 * h.frames) ∧ t.time.frozen = none ∧
        t.time.hold = none ∧ t.dev = (if s.dev = .holding then .running else s.dev) ∧ t.spad = s.spad ∧ t.hbm = s.hbm))

/-- In a replay stop of a take the lead sends the replay order once, at least 4,096 ticks after the stop, as three copies on each link of the
take (R305, R374). At its wall tick, and not before, a device that holds the order of its own last cut starts the step again from the cut: plan
time is the cut's, the shape is the step's, nothing is under way, the scratchpads and HBM are as they stand (R374, R377, R378); any other
device sets LEADLOST and, in a take with room in its fault queue, is FENCED (source 0x30). In FENCED a granted RESUME starts it likewise
(R383). At the first cue, and not before, an ARMED device is RUNNING (R349). -/
def Obligations.ReplayAndStart : Prop :=
  (∀ (s : State) (st : StopState), s.time.stop = some st →
    (let goes := s.isLead = true ∧ st.sent = false ∧ (s.dev = .holding ∨ s.dev = .draining) ∧ st.wallAt + 4096 ≤ s.wallNow ∧
       s.fget Reg.FC_STATUS_REPLAYS ≤ s.fget Reg.FC_CFG_REPLAYMAX
     (goes → ∃ t, exec .replayOrderSend s = .next t ∧ t = { s with out := t.out, time := t.time } ∧
        t.time = { s.time with stop := some { st with sent := true, order := some s.cutOrder } } ∧
        ∀ l ∈ s.takeLinks, ∀ c, c < 3 → .cutMsg l s.takeTag s.cutOrder.1 s.take.shape s.stepDigest 0 c ∈ t.out) ∧
     (¬ goes → exec .replayOrderSend s = .next s)) ∧
    (s.wallNow < st.wr → exec .resumeTick s = .next s) ∧
    (st.wr ≤ s.wallNow → s.flag Reg.PW_STATUS_BRAKE = false → (s.dev = .fenced ∨ st.order = some s.cutOrder) →
      ∃ t, exec .resumeTick s = .next t ∧ t.time.offset = BitVec.ofNat 64 st.wr - BitVec.ofInt 64 s.take.lastCut ∧
        t.time.frozen = none ∧ t.time.stop = none ∧ t.time.gates = [] ∧ t.time.hold = none ∧
        t.dev = (if s.dev = .draining then .draining else .running) ∧
        t.take.shape = s.take.shape ∧ t.take.lastCut = s.take.lastCut ∧ t.take.sched = [] ∧ t.faults.queue = [] ∧
        (∀ key, (t.core key).pend = [] ∧ (t.core key).running = none ∧ (t.core key).waiting = none ∧ (t.core key).landing = []) ∧
        (∀ cl, cl < 4 → t.halted cl = false ∧ (t.seq cl).running = false) ∧ t.spad = s.spad ∧ t.hbm = s.hbm) ∧
    (st.wr ≤ s.wallNow → s.dev ≠ .fenced → st.order ≠ some s.cutOrder →
      ∃ t, exec .resumeTick s = .next t ∧ t.flag Reg.FC_STATUS_LEADLOST = true ∧
        (s.dev.inTake = true → s.faults.queue.length < 64 → t.dev = .fenced))) ∧
  (∀ s : State,
    (s.dev = .armed → s.take.lastCut ≤ s.planNow → s.flag Reg.PW_STATUS_BRAKE = false →
      ∃ t, exec .takeStart s = .next t ∧ t.dev = .running ∧ t.spad = s.spad ∧ t.hbm = s.hbm) ∧
    (s.dev ≠ .armed ∨ s.planNow < s.take.lastCut → exec .takeStart s = .next s))

/-- A pulse shorter than DEGLITCH is ignored; on the first qualifying edge after its latch was cleared a trigger input records the wall tick
in TB_TRIGn_TS and the plan tick, sets EDGE and records HOLDOVER; a further edge while EDGE is set sets OVF and keeps the rest (R74). The
captured edge is shown to the plan from the first gate at least 4,096 ticks after the capture, and not before, where no stream is replayed;
a clear that the plan asked for applies at its gate (R75, R187). The device's time signals: the frame pulse goes out at wall ticks that are
multiples of 2^20, and at no other; an incoming pulse that disciplines the device ends holdover; an error within the guard leaves wall time
to be slewed, a larger one steps it outside a take, and within one leaves the device UNALIGNED (R69, R454). Loss of the reference sets LOR
(R33); losing the holdover oscillator as well ends in FAILED (R33, R367). -/
def Obligations.TriggersAndTimeSignals : Prop :=
  (∀ (s : State) (n : Fin 4),
     (∀ rising width, (s.edgeQualifies n.val rising width = true ↔
        bitOf (s.fget Reg.TB_TRIG_CFG_IN / 2 ^ (4 * n.val)) 3 = true ∧
        bitOf (s.fget Reg.TB_TRIG_CFG_IN / 2 ^ (4 * n.val)) (if rising then 1 else 2) = true ∧
        s.fget Reg.TB_TRIG_CFG_DEGLITCH ≤ width) ∧
      (s.dev = .off ∨ s.edgeQualifies n.val rising width = false → exec (.triggerEdge n rising width) s = .next s) ∧
      (s.dev ≠ .off → s.edgeQualifies n.val rising width = true → (∀ x, (s.trig n.val).clear = some x → s.planNow < x) →
        (s.latch n.val = none →
          ∃ t, exec (.triggerEdge n rising width) s = .next t ∧ t.latch n.val = some
            { edge := true, ovf := bitOf (s.fget Reg.TB_TRIG_STAT_OVF) n.val, holdover := s.holdover, cap := s.planNow, ts := s.wallNow } ∧
            t.fget (Reg.TB_TRIG_TS_TS n.val) = s.wallNow ∧ ∀ k, k < 4 → k ≠ n.val → t.latch k = s.latch k) ∧
        (∀ l, s.latch n.val = some l →
          ∃ t, exec (.triggerEdge n rising width) s = .next t ∧ t.latch n.val = some { l with ovf := true } ∧
            t.fget (Reg.TB_TRIG_TS_TS n.val) = s.fget (Reg.TB_TRIG_TS_TS n.val) ∧
            ∀ k, k < 4 → k ≠ n.val → t.latch k = s.latch k))) ∧
     (s.dev.inTake = true → s.recState < 2 →
       (∀ l, (∀ x, (s.trig n.val).clear = some x → s.planNow < x) → s.latch n.val = some l → (s.trig n.val).vis = none →
         ∃ t, exec (.triggerVisible n) s = .next t ∧ t.latch n.val = some l ∧
           (t.trig n.val).vis = if ceilMul (l.cap + 4096) 4096 ≤ s.planNow then some l else none) ∧
       (∀ x, (s.trig n.val).clear = some x → x ≤ s.planNow →
         ∃ t, exec (.triggerVisible n) s = .next t ∧ t.latch n.val = none ∧ (t.trig n.val).vis = none ∧ (t.trig n.val).clear = none))) ∧
  (∀ s : State, s.dev ≠ .off →
     (s.dev ≠ .boot → s.flag Reg.TB_PULSE_CFG_OUTEN = true → s.wallNow % 2 ^ 20 = 0 →
       exec .framePulseOut s = .next { s with out := s.out ++ [.pulse s.wallNow] }) ∧
     (s.dev = .boot ∨ s.flag Reg.TB_PULSE_CFG_OUTEN = false ∨ s.wallNow % 2 ^ 20 ≠ 0 → exec .framePulseOut s = .next s) ∧
     (s.flag Reg.TB_PULSE_CFG_INEN = true → s.fget Reg.TB_CTRL_ROOTSRC = 2 → s.hasParent = false →
       let e := pulseError s.wallNow (signedOf 16 (s.fget Reg.TB_PULSE_CFG_INCOMP))
       ∃ t, exec .framePulseIn s = .next t ∧ t.fget Reg.TB_STATUS_SOURCE = 3 ∧ t.holdover = false ∧
         (e.natAbs ≤ s.fget Reg.TB_SLATE_CFG_GUARD → t.time.wall = s.time.wall) ∧
         (s.fget Reg.TB_SLATE_CFG_GUARD < e.natAbs →
           (s.dev.inTake = false → t.time.wall = s.time.wall - BitVec.ofInt 64 e) ∧
           (s.dev.inTake = true → s.stopped = false → t.time.wall = s.time.wall ∧ t.flag Reg.TB_STATUS_UNALIGNED = true))) ∧
     (s.flag Reg.TB_PULSE_CFG_INEN = false ∨ s.fget Reg.TB_CTRL_ROOTSRC ≠ 2 → exec .framePulseIn s = .next s) ∧
     (∃ t, exec .lossOfReference s = .next t ∧ t.time.refLost = true ∧ t.flag Reg.TB_STATUS_LOR = true) ∧
     (s.time.refLost = true → ∃ t, exec .holdoverOscillatorFailure s = .next t ∧ t.dev = .failed) ∧
     (s.time.refLost = false → exec .holdoverOscillatorFailure s = .next s))

/-! ## Cuts and serving -/

/-- The lead's cut message goes out once, as three copies on every link of the take, and stands for the lead too; nominations since the last
one count no more, but for one made at or after its tick (R192, R227, R305). A device that hears the next cut's message keeps it and
forwards it as three copies on every other link of the take (R227, R305). In a replay stop the first set that is not the faulted step's own is
the replay order, and is forwarded (R374, R375); while the step runs the order of the last cut sets LEADLOST and, with room in the fault
queue, fences the device. A further copy of a set changes nothing but what the link noted of it, and a set of another take is discarded with a
notice. -/
def Obligations.CutMessages : Prop :=
  (∀ s : State,
    let goes := s.isLead = true ∧ s.stepRuns = true ∧ s.take.msgSent = false ∧
      s.cutTick - 4096 * s.fget Reg.SV_TIMING_READY ≤ s.planNow
    (∀ m : CutMsg, goes → s.ownMessage = some m →
      ∃ t, exec .cutMessageSend s = .next t ∧ t = { s with out := t.out, take := t.take, regs := t.regs } ∧
        t.take = { s.take with cutMsg := some m, msgSent := true, ssel := s.take.sselLate, sselLate := none } ∧
        (∀ cl, cl < 4 → (cl ≠ 0 ∨ s.take.sselLate = none) → t.flag (Reg.CL_SEQ_SSEL_VALID cl) = false) ∧
        ∀ l ∈ s.takeLinks, ∀ c, c < 3 → .cutMsg l s.takeTag (m.gate % 2 ^ 20) m.shape m.digest m.adopt c ∈ t.out) ∧
    (¬ goes ∨ s.ownMessage = none → exec .cutMessageSend s = .next s)) ∧
  (∀ (s : State) (r : SetRx) (take gate shape adopt : Nat) (digest : DWord),
    let l := r.link.val
    let content := [4, take, gate, shape, digest.toNat, adopt]
    let u := s.receiveSet l r.copy content
    let run := exec (.cutMessageReceive r take gate shape digest adopt) s
    (¬ Hears s l → run = .next s) ∧
    (Hears s l → (s.link l).further r.copy content = true → run = .next u) ∧
    (Hears s l → (s.link l).further r.copy content = false →
      (s.dev.inTake = false ∨ take ≠ s.takeTag → ∃ t, run = .next t ∧ Noticed s t ∧ t.take = s.take ∧ t.time = s.time) ∧
      (take = s.takeTag → (s.dev = .running ∨ s.dev = .holding ∨ s.dev = .draining) →
        (s.time.stop = none →
          (gate = s.cutGate % 2 ^ 20 → gate ≠ s.cutOrder.1 → s.take.cutMsg = none →
            ∃ t, run = .next t ∧ t.take.cutMsg = some { gate := gate, shape := shape, digest := digest, adopt := adopt } ∧
              t.time = s.time ∧ ∀ k ∈ s.takeLinks, k ≠ l → ∀ c, c < 3 → .cutMsg k take gate shape digest adopt c ∈ t.out) ∧
          (gate = s.cutOrder.1 → ∃ t, run = .next t ∧ t.flag Reg.FC_STATUS_LEADLOST = true ∧
            (s.faults.queue.length < 64 → t.dev = .fenced)) ∧
          (gate ≠ s.cutOrder.1 → gate ≠ s.cutGate % 2 ^ 20 ∨ s.take.cutMsg ≠ none → run = .next u)) ∧
        (∀ st, s.time.stop = some st →
          (st.order = none → gate < 2 ^ 20 → (gate ≠ s.cutGate % 2 ^ 20 ∨ gate = s.cutOrder.1) →
            ∃ t, run = .next t ∧ t.time = { s.time with stop := some { st with order := some (gate, shape, digest) } } ∧
              t.take = s.take ∧ ∀ k ∈ s.takeLinks, k ≠ l → ∀ c, c < 3 → .cutMsg k take gate shape digest 0 c ∈ t.out) ∧
          (st.order ≠ none ∨ (gate = s.cutGate % 2 ^ 20 ∧ gate ≠ s.cutOrder.1) → run = .next u)))))

/-- The settle of the lead writes the next step's table image, headed by take tag, shape and cut index, into the next buffer, where no weight
region or retired row meets it, and takes its digest (R223 to R226, R234, R265); PREPARE keeps the commits that the image in the next buffer
calls for, and commits nothing (R228). A cut without a message commits nothing and sets NOMSG, and one whose message carries another digest
than the device's own sets DIGERR (R229); a cut of a PLAN take with its message, with no exchange or drain due, starts the message's shape at
the cut's tick, one cut further, with the counters at the reel's initial values, 0 where it gives none (R21, R183, R192, R230), HBM and a
scratchpad without carried halves as they were. At T_J, and not before, the pause of an exchange ends and plan time runs on (R361). -/
def Obligations.SettleAndCut : Prop :=
  (∀ s : State, s.stepRuns = true → s.shapesServed = true →
    (s.fget Reg.SV_CTRL_ROLE = 1 → s.settleTick ≤ s.planNow → s.serve.pend = none → s.take.msgSent = false →
      ∃ t p img, exec .settle s = .next t ∧ t.serve.pend = some p ∧ p.digest = crc64 img ∧ t.fget Reg.SV_STATUS_PHASE = 2 ∧
        img.take 2 = toBytes 2 s.takeTag ∧ img[2]? = some (BitVec.ofNat 8 p.shape) ∧
        (img.drop 8).take 8 = toBytes 8 (s.fget Reg.SV_CUTS_CUTS + 1) ∧
        (s.isRetired (s.imageAddr s.nextBuffer / 32 * 32) (img.length + 64) = false →
          s.inWeights (s.imageAddr s.nextBuffer) img.length = false →
          memRead t.hbm (s.imageAddr s.nextBuffer) img.length = img) ∧ t.take.lastCut = s.take.lastCut) ∧
    (s.fget Reg.SV_CTRL_ROLE ≠ 0 → s.serve.prepared = none → s.imageCurrent s.nextImage = true → NoStoreDue s →
      ∃ t p, exec .prepare s = .next t ∧ t.serve = { s.serve with prepared := some p } ∧ p.commits = imageCommits s.nextImage ∧
        t.fget Reg.SV_STATUS_PHASE = 3 ∧ t.hbm = s.hbm ∧ t.take = s.take)) ∧
  (∀ s u : State, s.stepRuns = true → s.cutTick ≤ s.planNow → (∀ g ∈ s.time.gates, s.cutTick < 4096 * g.gate) → u = s.beforeCut →
    (u.take.cutMsg = none →
      ∃ t, exec .cut s = .next t ∧ t.flag Reg.SV_STATUS_NOMSG = true ∧ t.take.lastCut = u.take.lastCut ∧
        t.take.shape = u.take.shape ∧ t.fget Reg.SV_CUTS_CUTS = u.fget Reg.SV_CUTS_CUTS) ∧
    (∀ m, u.take.cutMsg = some m → u.shapesServed = false → m.digest ≠ 0 →
      ∃ t, exec .cut s = .next t ∧ t.flag Reg.SV_STATUS_DIGERR = true ∧ t.take.lastCut = u.take.lastCut ∧
        t.take.shape = u.take.shape ∧ t.fget Reg.SV_CUTS_CUTS = u.fget Reg.SV_CUTS_CUTS) ∧
    (∀ (r : Reel) (m : CutMsg), u.take.active = some r → r.shapePlan = true → u.take.cutMsg = some m →
      m.digest = 0 → m.adopt = 0 → u.serve.prepared = none → u.serve.pend = none → u.take.exchange = none → u.take.drainAt = none →
      u.recState ≠ 2 →
      ∃ t, exec .cut s = .next t ∧ t.take.lastCut = u.cutTick ∧ t.take.shape = m.shape ∧ t.take.cutMsg = none ∧
        t.take.msgSent = false ∧ t.fget Reg.SV_CUTS_CUTS = (u.fget Reg.SV_CUTS_CUTS + 1) % 2 ^ 64 ∧
        ((r.counters.map (·.1)).Nodup → (∀ e ∈ r.counters, e.1 < 8192) →
          (∀ e ∈ r.counters, t.counter e.1 = e.2.toNat) ∧
          ∀ ctr, ctr < 8192 → (∀ e ∈ r.counters, e.1 ≠ ctr) → t.counter ctr = 0) ∧ t.hbm = u.hbm ∧
        ((∀ key ∈ u.mappedCores, ∀ k, k < 16 → u.fget (Reg.CL_REGION_KIND (key / 16) (key % 16) k) ≠ 2) → t.spad = u.spad))) ∧
  (∀ (s : State) (h : HoldState) (tj : Nat), s.time.hold = some h → s.take.pauseTo = some tj → h.pause = true →
    (s.wallNow < tj → exec .exchangePauseEnd s = .next s) ∧
    (tj ≤ s.wallNow → s.flag Reg.PW_STATUS_BRAKE = false →
      ∃ t, exec .exchangePauseEnd s = .next t ∧ t.time.offset = s.time.offset + BitVec.ofNat 64 (512 * h.frames) ∧
        t.time.frozen = none ∧ t.time.hold = none ∧ t.take.pauseTo = none))

/-- While the host's slot works, the record released first of those with room in their rings is written there, retained until it is
delivered, and leaves its context (R246, R247, R341); its tail and its interrupt follow, each when its ticks have passed and not before
(R247). The oldest cut that waits for the stand-in is sent once the one before is acknowledged, as packets of kind 0x3 on VC0 of the
default route, and an acknowledgement releases it (R249, R250). -/
def Obligations.RingsAndMirror : Prop :=
  (∀ (s : State) (c : BitVec 15),
    let x := s.ctx c.toNat
    (s.hostUp = false → exec (.ringRecordWrite c) s = .next s ∧ exec (.tailWrite c) s = .next s) ∧
    (s.hostUp = true →
      (s.host.rewrite = [] →
        (∀ r rs, x.ready = r :: rs → s.nextRecord = some c.toNat →
          ∃ t, exec (.ringRecordWrite c) s = .next t ∧ Written s t r.addr (r.bytes r.phase) ∧ (t.ctx c.toNat).ready = rs ∧
            t.host.posted = s.host.posted ++ [.record r] ∧ t.serve.meters = s.serve.meters ∧
            ∀ k, k ≠ c.toNat → t.ctx k = s.ctx k) ∧
        (s.nextRecord ≠ some c.toNat → exec (.ringRecordWrite c) s = .next s)) ∧
      (∀ k, s.nextRecord = some k → s.host.posted.length < 4096 ∧ ∃ y ∈ s.serve.ctxs, y.1 = k ∧ ∃ r, y.2.ready.head? = some r ∧
        (r.fresh = false ∨ r.seq < y.2.head + 2 ^ r.log) ∧ ∀ z ∈ s.serve.ctxs, ∀ q, z.2.ready.head? = some q →
          (q.fresh = false ∨ q.seq < z.2.head + 2 ^ q.log) → r.stamp ≤ q.stamp) ∧
      (x.tailDirty = true → (x.lastTail = 0 ∨ x.lastTail + x.tailco ≤ s.wallNow) →
        ∃ t, exec (.tailWrite c) s = .next t ∧ (t.ctx c.toNat).tailDirty = false ∧
          Written s t (x.ringBase + BitVec.ofNat 64 (2 ^ x.ringLog * 64)) (toBytes 4 x.wrote)) ∧
      (x.irqDirty = true → (x.lastIrq = 0 ∨ x.lastIrq + x.irqco ≤ s.wallNow) →
        ∃ t, exec (.tailWrite c) s = .next t ∧ (t.ctx c.toNat).irqDirty = false ∧ Interrupted s t x.vector) ∧
      (x.tailDirty = false ∨ (x.lastTail ≠ 0 ∧ s.wallNow < x.lastTail + x.tailco) →
        x.irqDirty = false ∨ (x.lastIrq ≠ 0 ∧ s.wallNow < x.lastIrq + x.irqco) → exec (.tailWrite c) s = .next s))) ∧
  (∀ s : State,
    (∀ (j : MirrorJob) (rest : List MirrorJob), s.serve.mirrorQueue = j :: rest → s.serve.unacked = [] → s.dev ≠ .off → s.dev ≠ .failed →
      let dev := s.fget Reg.SV_MIRROR_STANDIN
      ∃ t, exec .mirrorSend s = .next t ∧ t.serve = { s.serve with mirrorQueue := rest, unacked := [j.cut] } ∧
        .mirrorSent j.cut dev j.commits j.ctxs j.meters ∈ t.out ∧
        ∀ l, s.defaultLink = some l → s.mustHold dev (l * 256 + 0xFF) = false → 0 < s.lowData 0xFF →
          ∃ ps, (t.link l).vc0 = (s.link l).vc0 ++ ps ∧ ps ≠ [] ∧ ∀ q ∈ ps, q.pkt.vc = 0 ∧ q.pkt.pkind = 3 ∧ q.pkt.ddev = dev) ∧
    (s.serve.mirrorQueue = [] ∨ s.serve.unacked ≠ [] ∨ s.dev = .off ∨ s.dev = .failed → exec .mirrorSend s = .next s)) ∧
  (∀ (s : State) (l : Fin 64) (rx : Rx) (p : Packet) (cut : Nat), Whole s l.val rx p → s.fate l.val p = .route .deliver →
    ∃ t, exec (.mirrorAcknowledgement l rx p cut) s = .next t ∧ t.spad = s.spad ∧ t.hbm = s.hbm ∧
      t.serve = { s.serve with unacked := s.serve.unacked.filter (· ≠ cut) })

/-! ## Packets on links -/

/-- A packet that its channel may start now goes out with the link's next SEQ, leaves its queue, joins the replay buffer and debits its flits,
a stomped one marked so (R291, R293, R295, R298): on PACKET_SEND that of VC2 before VC1 before VC0, and, for VC2 at its launch tick, on
VC2_LAUNCH (R325). The first packet waiting on VC0 or VC1, and one alone on VC2 that is forwarded or whose launch tick has come, may start
where its size, the credits and the replay buffer allow it. A rewound packet goes out first, with the SEQ that it had. Nothing goes out on a
link that does not carry packets, nor where none may start. -/
def Obligations.PacketsLeave : Prop :=
  ∀ (s : State) (l : Fin 64),
    let k := s.link l.val
    let sent := fun (t : State) (q : TxPacket) (seq : Nat) =>
      (if q.bad then Out.stomp l.val seq q.pkt else .packet l.val seq q.pkt) ∈ t.out ∧
      (t.link l.val).replay = k.replay ++ [{ q with seq := some seq }] ∧
      (t.link l.val).sent.getD q.pkt.vc 0 = (k.sent.getD q.pkt.vc 0 + q.pkt.flits) % 2 ^ 32
    (s.carries l.val = false → exec (.packetSend l) s = .next s ∧ exec (.vc2Launch l) s = .next s) ∧
    (s.carries l.val = true →
      (∀ vc q rest, vc < 3 → q.pkt.vc = vc → k.toSend = [] → k.slept = false → s.ready l.val vc = some (q, rest) → k.sent.length = 3 →
        let left : State → Prop := fun t => (t.link l.val).queueOf vc = rest ∧ (t.link l.val).txSeq = (k.txSeq + 1) % 4096 ∧ sent t q k.txSeq
        ((∀ v, vc < v → v < 3 → s.ready l.val v = none) → ∃ t, exec (.packetSend l) s = .next t ∧ left t) ∧
        (vc = 2 → ∃ t, exec (.vc2Launch l) s = .next t ∧ left t)) ∧
      (∀ q rest, k.toSend = q :: rest → q.pkt.vc < 3 → k.sent.length = 3 → (q.pkt.vc ≠ 2 ∨ s.linkState l.val = stateUp) →
        q.pkt.flits ≤ k.credits q.pkt.vc →
        ∃ t, exec (.packetSend l) s = .next t ∧ (t.link l.val).toSend = rest ∧ sent t q (q.seq.getD 0)) ∧
      (k.toSend = [] → (k.slept = true ∨ ∀ vc, vc < 3 → s.ready l.val vc = none) → exec (.packetSend l) s = .next s) ∧
      ((k.toSend ≠ [] ∨ k.slept = true ∨ s.ready l.val 2 = none) → exec (.vc2Launch l) s = .next s)) ∧
    (∀ vc q rest, vc < 3 → s.vcOpen l.val vc = true → q.pkt.data.length ≤ s.maxData l.val q.pkt.vc → q.pkt.flits ≤ k.credits vc →
      txFlits k.replay + q.pkt.flits ≤ 1024 → k.replay.length < 2048 →
      (vc < 2 → k.queueOf vc = q :: rest → s.ready l.val vc = some (q, rest)) ∧
      (vc = 2 → k.vc2 = [q] → (q.entry = none ∨ q.launch ≤ s.planNow) → s.ready l.val 2 = some (q, [])))

/-- On a link that carries packets, ACK retires the packets up to the one it names and returns credits (R293, R295); NAK does so and sends
every packet after it again, but those rewound MAXREPLAY times, for which DISCARD goes out, and counts a replay; the replay timer, once RTO
has passed, does the same without an acknowledgement (R295, R296, R299). DISCARD of the SEQ expected next is stepped past (R299). A CREDIT
exchange, every 4,096 frames, sends SENT and FREED; one received sets the credit, and a mismatch is counted and answered (R294). Held VC0
packets go out on their paths once the old path of their destination has drained, and not before (R328). -/
def Obligations.AcknowledgeAndReplay : Prop :=
  (∀ (s : State) (l : Fin 64),
    let k := s.link l.val
    let again := fun (ts : List TxPacket) => (ts.filter fun x => decide (x.rewinds < s.fget (Reg.LK_CFG_MAXREPLAY l.val))).map
      fun x => { x with rewinds := x.rewinds + 1 }
    let replayed := fun (t : State) (ts : List TxPacket) => (t.link l.val).replay = [] ∧ (t.link l.val).toSend = again ts ++ k.toSend ∧
      t.fget (Reg.LK_REPLAY_COUNT l.val) = min (s.fget (Reg.LK_REPLAY_COUNT l.val) + 1) (2 ^ 32 - 1) ∧
      ∀ x ∈ ts, s.fget (Reg.LK_CFG_MAXREPLAY l.val) ≤ x.rewinds → .discardSet l.val (x.seq.getD 0) ∈ t.out
    let due := k.replay ≠ [] ∧ k.rtoTick + 64 * s.fget (Reg.LK_CFG_RTO l.val) ≤ s.wallNow
    (s.carries l.val = false → (∀ seq vc credits, exec (.ack l seq vc credits) s = .next s ∧ exec (.nak l seq vc credits) s = .next s) ∧
      exec (.replayTimeout l) s = .next s ∧ (∀ seq, exec (.discard l seq) s = .next s) ∧ exec (.creditExchange l) s = .next s ∧
      ∀ sent freed, exec (.credit l sent freed) s = .next s) ∧
    (s.carries l.val = true →
      (∀ seq vc credits,
        (∀ done rest, k.toSend = [] → splitAck seq k.replay = some (done, rest) →
          (∃ t, exec (.ack l seq vc credits) s = .next t ∧ (t.link l.val).replay = rest ∧ (t.link l.val).toSend = []) ∧
          (∃ t, exec (.nak l seq vc credits) s = .next t ∧ replayed t rest)) ∧
        (splitAck seq (k.replay ++ k.toSend) = none →
          (∃ t, exec (.ack l seq vc credits) s = .next t ∧ (t.link l.val).replay = k.replay ∧ (t.link l.val).toSend = k.toSend) ∧
          (∃ t, exec (.nak l seq vc credits) s = .next t ∧ replayed t k.replay)) ∧
        (vc < 3 → k.partnerFreed.length = 3 → ∃ t, exec (.ack l seq vc credits) s = .next t ∧
          (t.link l.val).partnerFreed.getD vc 0 = (k.partnerFreed.getD vc 0 + credits) % 2 ^ 32)) ∧
      (due → ∃ t, exec (.replayTimeout l) s = .next t ∧ replayed t k.replay) ∧ (¬ due → exec (.replayTimeout l) s = .next s) ∧
      (∀ seq, ∃ t, exec (.discard l seq) s = .next t ∧
        (t.link l.val).rxSeq = if seq = k.rxSeq then (seq + 1) % 4096 else k.rxSeq) ∧
      (k.creditTick + 4096 * 512 ≤ s.wallNow → ∃ t, exec (.creditExchange l) s = .next t ∧
        t.out = s.out ++ [.creditSet l.val k.sent k.freed] ∧ (t.link l.val).creditTick = s.wallNow) ∧
      (s.wallNow < k.creditTick + 4096 * 512 → exec (.creditExchange l) s = .next s) ∧
      (∀ sent freed : List Word, sent.length = 3 → freed.length = 3 → ∃ t, exec (.credit l sent freed) s = .next t ∧
        (t.link l.val).accepted = sent.map (·.toNat) ∧ (t.link l.val).partnerFreed = freed.map (·.toNat) ∧
        let exceeds := ∃ vc, vc < 3 ∧ overCredit (k.sent.getD vc 0) ((freed.map (·.toNat)).getD vc 0) = true
        (sent.map (·.toNat) ≠ k.accepted ∨ exceeds →
          t.fget (Reg.LK_CREDMIS_COUNT l.val) = min (s.fget (Reg.LK_CREDMIS_COUNT l.val) + 1) (2 ^ 32 - 1) ∧
          .creditSet l.val k.sent k.freed ∈ t.out) ∧
        (sent.map (·.toNat) = k.accepted → ¬ exceeds → t.regs = s.regs ∧ t.out = s.out)))) ∧
  (∀ (s : State) (dest : Nat),
    (∀ path t0, mapFind s.take.vc0Last dest = some (path, t0) → s.wallNow < t0 + s.udrain → exec (.udrainExpiry dest) s = .next s) ∧
    ((∀ path t0, mapFind s.take.vc0Last dest = some (path, t0) → t0 + s.udrain ≤ s.wallNow) →
      ∃ t, exec (.udrainExpiry dest) s = .next t ∧ t.take.vc0Held = s.take.vc0Held.filter (fun h => decide (h.1 ≠ dest)) ∧
        (∀ h ∈ s.take.vc0Held, h.1 = dest → h.2.vc = 0 → ∀ path, s.lowPath h.2.route = some path →
          TxPacket.fresh { h.2 with route := path.2.1, remt := path.2.2 } 0 s.planNow ∈ (t.link path.1).vc0)))

/-- A packet in sequence with good checks is acknowledged, with its credits where its receive buffer is free, and delivered by its kind:
scheduled data join a landing of the destination core, a new one or that of their transfer, while their tick is not past, and halt its
cluster with 0x47 after it (R47, R158, R290); unscheduled data join its drizzle queue (R141, R162), a contribution in time its group's reduction
(R186), a mirror write its context, which an END frees, and the last write of a cut is acknowledged (R249, R250); at a gateway a write inside the slot's
window reaches the host and one outside is counted, a read and an interrupt go out, and at a proxied device a response delivers its oldest
item (R340). A packet to forward waits on its outgoing link (R324); a malformed one is counted (R287). One that is not the next of its SEQ is
answered by one NAK and delivers nothing (R295); on a link that carries no packets nothing happens. -/
def Obligations.PacketsArrive : Prop :=
  ∀ (s : State) (l : Fin 64) (rx : Rx) (p : Packet),
    let k := s.link l.val
    let acked : State → Prop := fun t => (t.link l.val).rxSeq = (k.rxSeq + 1) % 4096 ∧
      (if s.buffered l.val rx p then .ackSent l.val false rx.seq 3 0 else .ackSent l.val false rx.seq p.vc p.flits) ∈ t.out
    let tick := s.extendTick p.pland
    let x : Landing := { p := tick, kind := 3, flag := p.flag, sync := p.sync, srcDev := p.sdev, srcCore := p.score,
                         seq := 0, base := p.daddr, rows := if p.data = [] then [] else [(p.daddr, p.data, p.poison)],
                         need := p.data.length, got := p.data.length, arrived := true, released := false, left := [],
                         decodeErr := false, awaited := [] }
    (s.carries l.val = false → exec (.scheduledSendPacket l rx p) s = .next s ∧ exec (.unscheduledSend l rx p) s = .next s ∧
      exec (.proxiedResponse l rx p) s = .next s) ∧
    (s.carries l.val = true → rx.seq ≠ k.rxSeq → ∃ t, exec (.unscheduledSend l rx p) s = .next t ∧ t.cores = s.cores ∧
      (t.link l.val).rxSeq = k.rxSeq ∧ (k.nakSent = false → .ackSent l.val true k.lastAcc 3 0 ∈ t.out ∧ (t.link l.val).nakSent = true) ∧
      (k.nakSent = true → ∀ seq vc n, .ackSent l.val true seq vc n ∈ t.out → .ackSent l.val true seq vc n ∈ s.out)) ∧
    (Whole s l.val rx p → s.fate l.val p = .malformed → ∃ t, exec (.unscheduledSend l rx p) s = .next t ∧ acked t ∧ t.cores = s.cores ∧
      t.fget (Reg.LK_MALFORMED_COUNT l.val) = min (s.fget (Reg.LK_MALFORMED_COUNT l.val) + 1) (2 ^ 32 - 1)) ∧
    (∀ out next remt, Whole s l.val rx p → s.fate l.val p = .route (.forward out next remt) →
      ∃ t q, exec (.unscheduledSend l rx p) s = .next t ∧ acked t ∧ t.cores = s.cores ∧ q.pkt = { p with route := next, remt := remt } ∧
        q.inLink = some (l.val, p.flits) ∧ (t.link out).queueOf p.vc = (s.link out).queueOf p.vc ++ [q]) ∧
    (Whole s l.val rx p → s.fate l.val p = .route .deliver →
      (∀ key, s.coreOfDcore p.dcore = some key →
        (s.planNow ≤ tick → stageRoom (s.core key).landing p.data.length = true → p.daddr + p.data.length ≤ spadSize →
          (∀ y ∈ (s.core key).landing, p.landsIn tick y = false) →
          ∃ t n, exec (.scheduledSendPacket l rx p) s = .next t ∧ acked t ∧
            (t.core key).landing = (s.core key).landing ++ [{ x with seq := n }] ∧ t.spad = s.spad) ∧
        (∀ y, s.planNow ≤ tick → (s.core key).landing = [y] → p.landsIn tick y = true → y.awaited = [] → p.data ≠ [] →
          p.data.length + y.got ≤ 2 ^ 21 → p.daddr + p.data.length ≤ spadSize →
          ∃ t, exec (.scheduledSendPacket l rx p) s = .next t ∧ acked t ∧ t.spad = s.spad ∧ (t.core key).landing =
            [{ y with rows := y.rows ++ x.rows, need := y.need + p.data.length, got := y.got + p.data.length, arrived := true }]) ∧
        (tick < s.planNow → s.halted (key / 16) = false → HaltsWith (.scheduledSendPacket l rx p) s (key / 16) 0x47) ∧
        (p.data ≠ [] → p.daddr + p.data.length ≤ spadSize →
          ∃ t r, exec (.unscheduledSend l rx p) s = .next t ∧ acked t ∧ (t.core key).drizzle = (s.core key).drizzle ++ [r] ∧
            r.op = .write p.daddr p.data p.poison (if p.flag then some p.sync else none) ∧ t.spad = s.spad)) ∧
      (∀ grp rank value poison, ∃ t, exec (.redxContribution l rx p grp rank value poison) s = .next t ∧ acked t ∧ t.cores = s.cores ∧
        (tick < s.planNow → t.seqs = s.seqs) ∧
        (s.planNow ≤ tick → (t.seq (p.dcore / 16)).redx =
          addPart (s.seq (p.dcore / 16)).redx grp tick rank { v := value, p := poison })) ∧
      (∀ (cut : Nat) (r : MirrorCtx) (ms : List (Nat × Nat × Nat)),
        (∃ t, exec (.mirrorWrite l rx p cut r ms false true) s = .next t ∧ acked t ∧ (t.ctx r.ctx).mirror = true ∧
          (t.ctx r.ctx).commit = r.commit ∧ (t.ctx r.ctx).st = .held ∧ t.fget Reg.SV_MIRROR_CUT_CUT = cut % 2 ^ 64 ∧
          .mirrorAck p.sdev cut ∈ t.out) ∧
        (∃ t, exec (.mirrorWrite l rx p cut r ms false false) s = .next t ∧ acked t ∧ (t.ctx r.ctx).commit = r.commit ∧
          t.serve.kept = s.serve.kept) ∧
        (∃ t, exec (.mirrorWrite l rx p cut r ms true false) s = .next t ∧ acked t ∧ (t.ctx r.ctx).st = .free)) ∧
      (let n := p.sdev % 64
       s.hostRole = 2 → s.flag (Reg.HI_PX_DEV_VALID n) = true → s.fget (Reg.HI_PX_DEV_DEVICE n) = p.sdev → ∀ addr : DWord,
        let inside := s.fget (Reg.HI_PX_WINLO_ADDR n) ≤ addr.toNat ∧ addr.toNat + p.data.length ≤ s.fget (Reg.HI_PX_WINHI_ADDR n) + 1
        (inside → ∃ t, exec (.proxiedRequest l rx p .write addr) s = .next t ∧ acked t ∧ .hostWrite addr p.data ∈ t.out) ∧
        (¬ inside → ∃ t, exec (.proxiedRequest l rx p .write addr) s = .next t ∧ acked t ∧
          t.fget Reg.HI_WINDROP_COUNT = min (s.fget Reg.HI_WINDROP_COUNT + 1) (2 ^ 32 - 1)) ∧
        (∃ t, exec (.proxiedRequest l rx p .read addr) s = .next t ∧ acked t ∧ .hostRead n addr.toNat 64 ∈ t.out) ∧
        (∃ t, exec (.proxiedRequest l rx p .irq addr) s = .next t ∧ acked t ∧ .msix addr.toNat ∈ t.out)) ∧
      (∀ i rest, s.hostRole = 3 → p.sdev = s.gateway → s.host.posted = i :: rest → s.host.resetAfter = none →
        ∃ t, exec (.proxiedResponse l rx p) s = .next t ∧ acked t ∧ t.host.posted = rest ∧ .delivered 1 ∈ t.out))

/-! ## Links -/

/-- The states of Table 10.6: signal on two enabled lanes of a DOWN link starts training, TRAIN sets are kept and answered, two equal ones and
lock on two enabled lanes complete it in ALIGNCHK, with SEQ and credits anew, the partner's identity shown and the cabling checked but in the
bench position (R293, R309, R319), and 50 ms without end it in DOWN; no codeword for 16,384 ticks, or no acknowledgement for 65,536 while
packets are unacknowledged, or loss of signal on every lane, fails an open link (R300), which is DOWN after 10 ms. Otherwise each changes
nothing. -/
def Obligations.LinkTraining : Prop :=
  ∀ (s : State) (l : Fin 64),
    let k := s.link l.val
    let st := s.linkState l.val
    (∀ mask, let goes := s.listens = true ∧ st = stateDown ∧ 2 ≤ laneCount (mask &&& s.laneEnable l.val)
      (goes → ∃ t, exec (.signalDetect l mask) s = .next t ∧ t.linkState l.val = stateTrain ∧ (t.link l.val).trains = [] ∧
        .trainSet l.val (s.trainBody l.val) ∈ t.out) ∧
      (¬ goes → exec (.signalDetect l mask) s = .next s)) ∧
    (∀ b, (s.listens = true → st = stateTrain →
        ∃ t, exec (.train l b) s = .next t ∧ (t.link l.val).trains = keepLast 2 (k.trains ++ [b]) ∧ t.linkState l.val = stateTrain ∧
          t.out = s.out ++ [.trainSet l.val (s.trainBody l.val)]) ∧
      (s.listens = false ∨ st ≠ stateTrain → exec (.train l b) s = .next s)) ∧
    (∀ mask b, let goes := s.listens = true ∧ st = stateTrain ∧ 2 ≤ laneCount (mask &&& s.laneEnable l.val)
      (k.trains = [b, b] → goes →
        ∃ t, exec (.trainingComplete l mask) s = .next t ∧ t.linkState l.val = stateAlign ∧ (t.link l.val).txSeq = 0 ∧
          (t.link l.val).rxSeq = 0 ∧ (t.link l.val).replay = [] ∧ (t.link l.val).sent = [0, 0, 0] ∧
          (t.link l.val).partnerFreed = [0, 0, 0] ∧ (t.link l.val).txMask = mask &&& s.laneEnable l.val ∧
          (t.link l.val).rxMask = mask &&& s.laneEnable l.val ∧
          t.fget (Reg.LK_PARTNER_ID_DEVICE l.val) = b.device % 2 ^ 18 ∧ t.fget (Reg.LK_PARTNER_ID_LINK l.val) = b.link % 64 ∧
          t.flag (Reg.LK_STATUS_PARTNER l.val) = true ∧
          (s.manage.straps.role ≠ 2 → t.fget (Reg.LK_CABLE_RESULT l.val) = s.cablingResult l.val b)) ∧
      (¬ goes ∨ (∀ a, k.trains ≠ [a, a]) → exec (.trainingComplete l mask) s = .next s)) ∧
    (st = stateTrain → k.stateTick + 50000000 ≤ s.wallNow →
      ∃ t, exec (.trainingTimeout l) s = .next t ∧ t.linkState l.val = stateDown) ∧
    (st ≠ stateTrain ∨ s.wallNow < k.stateTick + 50000000 → exec (.trainingTimeout l) s = .next s) ∧
    (s.linkOpen l.val = true →
      let dead := k.codeTick + 16384 ≤ s.wallNow ∨ ((k.replay ≠ [] ∨ k.toSend ≠ []) ∧ k.ackTick + 65536 ≤ s.wallNow)
      (dead → ∃ t, exec (.linkDead l) s = .next t ∧ t.linkState l.val = stateFailed) ∧ (¬ dead → exec (.linkDead l) s = .next s) ∧
      (∃ t, exec (.lossOfSignal l) s = .next t ∧ t.linkState l.val = stateFailed)) ∧
    (s.linkOpen l.val = false → exec (.linkDead l) s = .next s ∧ exec (.lossOfSignal l) s = .next s) ∧
    (st = stateFailed → k.stateTick + 10000000 ≤ s.wallNow →
      ∃ t, exec (.failedTimeout l) s = .next t ∧ t.linkState l.val = stateDown) ∧
    (st ≠ stateFailed ∨ s.wallNow < k.stateTick + 10000000 → exec (.failedTimeout l) s = .next s)

/-- Lanes of an open link: a bad lane leaves the receive mask, and the partner is asked for the rest where the cabling check admits it; with
fewer than two the link fails (R306, R307, R320); the partner's request takes effect at the next ALIGN slot, and not before (R283, R306).
A link not in use, its cabling a match, asks for sleep when idle for IDLETO, sleeps when the partner grants it and answers a request so; one in
use refuses (R310). It wakes by signal, within 20 µs into ALIGNCHK on every enabled lane or else DOWN (R311). Otherwise each changes
nothing. -/
def Obligations.LanesAndSleep : Prop :=
  ∀ (s : State) (l : Fin 64),
    let k := s.link l.val
    let st := s.linkState l.val
    (∀ lane : Fin 4,
      let m := k.rxMask &&& ~~~(BitVec.ofNat 4 (2 ^ lane.val))
      let declared : Instr → Prop := fun c =>
        (2 ≤ laneCount m → ∃ t, exec c s = .next t ∧ (t.link l.val).rxMask = m ∧ (s.matched l.val = true → .lanesSet l.val m ∈ t.out)) ∧
        (laneCount m < 2 → ∃ t, exec c s = .next t ∧ t.linkState l.val = stateFailed)
      (s.linkOpen l.val = true → k.rxMask.getLsbD lane.val = true →
        declared (.laneLockLoss l lane) ∧ ∀ n, s.fget (Reg.LK_LANEMAX_LIMIT l.val) < n → declared (.laneErrorLimit l lane n)) ∧
      (s.linkOpen l.val = false ∨ k.rxMask.getLsbD lane.val = false →
        exec (.laneLockLoss l lane) s = .next s ∧ ∀ n, exec (.laneErrorLimit l lane n) s = .next s) ∧
      (∀ n, n ≤ s.fget (Reg.LK_LANEMAX_LIMIT l.val) → exec (.laneErrorLimit l lane n) s = .next s)) ∧
    (∀ mask,
      let goes := s.listens = true ∧ s.linkOpen l.val = true ∧ s.matched l.val = true ∧ 2 ≤ laneCount (k.txMask &&& mask) ∧
        k.txMask &&& mask ≠ k.txMask
      (goes → ∃ t, exec (.lanes l mask) s = .next t ∧ (t.link l.val).newMask = some (k.txMask &&& mask) ∧
        (t.link l.val).maskDue = (k.slot s.wallNow (s.fget (Reg.LK_STATUS_LANES l.val)) / 256 + 1) * 256 ∧
        (t.link l.val).txMask = k.txMask) ∧
      (¬ goes → exec (.lanes l mask) s = .next s)) ∧
    (∀ m, k.newMask = some m →
      (k.maskDue ≤ k.slot s.wallNow (s.fget (Reg.LK_STATUS_LANES l.val)) →
        ∃ t, exec (.laneMaskSwitch l) s = .next t ∧ (t.link l.val).txMask = m ∧ (t.link l.val).newMask = none ∧
          t.fget (Reg.LK_STATUS_LANES l.val) = laneCount m ∧ .laneSwitch l.val m ∈ t.out) ∧
      (k.slot s.wallNow (s.fget (Reg.LK_STATUS_LANES l.val)) < k.maskDue → exec (.laneMaskSwitch l) s = .next s)) ∧
    (k.newMask = none → exec (.laneMaskSwitch l) s = .next s) ∧
    (let idle := s.listens = true ∧ s.fget (Reg.LK_CFG_IDLETO l.val) ≠ 0 ∧ st = stateUp ∧
       k.packetTick + s.fget (Reg.LK_CFG_IDLETO l.val) * 1024 * 512 ≤ s.wallNow
     (idle → s.linkUsed l.val = false → s.matched l.val = true →
       ∃ t, exec (.idleTimeout l) s = .next t ∧ (t.link l.val).sleepAsked = true ∧ t.flag (Reg.LK_CTRL_SLEEP l.val) = true ∧
         .sleepSet l.val true false ∈ t.out ∧ t.linkState l.val = stateUp) ∧
     (idle → s.linkUsed l.val = true ∨ s.matched l.val = false →
       ∃ t, exec (.idleTimeout l) s = .next t ∧ t.links = s.links ∧ t.flag (Reg.LK_CTRL_SLEEP l.val) = false ∧ t.out = s.out) ∧
     (¬ idle → exec (.idleTimeout l) s = .next s)) ∧
    (s.listens = true → st = stateUp → s.matched l.val = true →
      (s.linkUsed l.val = false → k.replay = [] → k.toSend = [] →
        (∀ g, ∃ t, exec (.sleep l true g) s = .next t ∧ t.linkState l.val = stateSleep ∧ .sleepSet l.val false true ∈ t.out) ∧
        (k.sleepAsked = true → ∃ t, exec (.sleep l false true) s = .next t ∧ t.linkState l.val = stateSleep)) ∧
      (s.linkUsed l.val = true → ∀ g, ∃ t, exec (.sleep l true g) s = .next t ∧ t.linkState l.val = stateUp ∧
        .sleepSet l.val false false ∈ t.out) ∧
      (k.sleepAsked = true → ∃ t, exec (.sleep l false false) s = .next t ∧ t.linkState l.val = stateUp ∧
        (t.link l.val).sleepAsked = false ∧ t.flag (Reg.LK_CTRL_SLEEP l.val) = false)) ∧
    (s.listens = false ∨ st ≠ stateUp ∨ s.matched l.val = false → ∀ r g, exec (.sleep l r g) s = .next s) ∧
    (s.listens = true → st = stateSleep → ∃ t, exec (.partnerWakeSignal l) s = .next t ∧ t.linkState l.val = stateWake) ∧
    (s.listens = false ∨ st ≠ stateSleep → exec (.partnerWakeSignal l) s = .next s) ∧
    (∀ offset, (st = stateWake → s.wallNow ≤ k.stateTick + 20000 → ∃ t, exec (.wakeComplete l offset) s = .next t ∧
        t.linkState l.val = stateAlign ∧ (t.link l.val).txMask = s.laneEnable l.val ∧ (t.link l.val).rxMask = s.laneEnable l.val ∧
        (t.link l.val).slept = false) ∧
      (st ≠ stateWake ∨ k.stateTick + 20000 < s.wallNow → exec (.wakeComplete l offset) s = .next s)) ∧
    (st = stateWake → k.stateTick + 20000 ≤ s.wallNow → ∃ t, exec (.wakeTimeout l) s = .next t ∧ t.linkState l.val = stateDown) ∧
    (st ≠ stateWake ∨ s.wallNow < k.stateTick + 20000 → exec (.wakeTimeout l) s = .next s)

/-- Slates go out INTERVAL frames after the last one, 0 taken as 1, and not before (R37); one received keeps its timestamps and, with an echo,
measures the link: within the guard a link in ALIGNCHK that is not the parent's is UP (R37, Table 10.6). The first copy of a hold marker of the
take joins the pending gates and is forwarded as three copies on every other link of the take, and one that asks for no more than is
pending changes nothing more; one of another take, with a reserved reason, or without length changes no gate and sends nothing, but is
noticed (R57, R58, R305). A codeword that the FEC cannot correct, or of the reserved TYPE, is discarded and counted (R281, R304); one that it
corrects is counted as corrected (R281), and an ordered set of a reserved type in it as malformed (R302). -/
def Obligations.SlatesAndMarkers : Prop :=
  ∀ (s : State) (l : Fin 64),
    let k := s.link l.val
    (let due := s.listens = true ∧ s.linkOpen l.val = true ∧ k.slateTick + 512 * max 1 (s.fget Reg.TB_SLATE_CFG_INTERVAL) ≤ s.wallNow
     (due → ∃ t, exec (.slateSend l) s = .next t ∧ (t.link l.val).slateTick = s.wallNow ∧
       (t.link l.val).slateCount = (k.slateCount + 1) % 65536 ∧
       t.out = s.out ++ [.slate l.val (BitVec.ofNat 64 s.wallNow) k.lastTsend k.lastTrecv s.deviceId
         s.holdover (s.flag Reg.TB_STATUS_UNALIGNED) k.slateCount]) ∧
     (¬ due → exec (.slateSend l) s = .next s)) ∧
    (∀ (tsend techo trecv : DWord) (dev : Nat) (h u : Bool),
      let now := BitVec.ofNat 64 s.wallNow
      let r := slateResult techo trecv tsend now
      (s.listens = false ∨ s.linkOpen l.val = false → exec (.slate l tsend techo trecv dev h u) s = .next s) ∧
      (s.listens = true → s.linkOpen l.val = true →
        (techo = 0 → ∃ t, exec (.slate l tsend techo trecv dev h u) s = .next t ∧ t = { s with links := t.links } ∧
          (t.link l.val).lastTsend = tsend ∧ (t.link l.val).lastTrecv = now) ∧
        (techo ≠ 0 → ∃ t, exec (.slate l tsend techo trecv dev h u) s = .next t ∧ (t.link l.val).delay = r.1.toNat ∧
          (t.link l.val).lastTsend = tsend ∧ (t.link l.val).lastTrecv = now ∧
          (s.linkState l.val = stateAlign → s.hasParent = false → r.2.natAbs ≤ s.fget Reg.TB_SLATE_CFG_GUARD →
            t.linkState l.val = stateUp)))) ∧
    (∀ (c take gate frames reason origin : Nat),
      let run := exec (.holdMarker { link := l, copy := c } take gate frames reason origin) s
      let content := [3, take, gate, frames, reason, origin]
      let v := s.receiveSet l.val c content
      let g := resolveGate s.planNow gate
      let hears := s.listens = true ∧ s.linkOpen l.val = true ∧ s.matched l.val = true
      (¬ hears → run = .next s) ∧
      (hears → (k.further c content = true ∨ s.stopped = true → run = .next v)) ∧
      (hears → k.further c content = false → s.stopped = false →
        (s.dev.inTake = false ∨ take ≠ s.takeTag ∨ reason = 0 ∨ 7 ≤ reason ∨ (frames = 0 ∧ reason ≠ 6) →
          ∃ t, run = .next t ∧ t.time = s.time ∧ t.out = s.out ∧ Noticed s t) ∧
        (s.dev.inTake = true → take = s.takeTag → 1 ≤ reason → reason ≤ 6 → (1 ≤ frames ∨ reason = 6) → s.planNow < 4096 * g →
          (∀ q, s.time.gates.find? (fun x => decide (x.gate = g)) = some q →
            (frames ≤ q.frames → bitOf q.reasons.toNat reason = true → run = .next v) ∧
            (q.frames < frames ∨ bitOf q.reasons.toNat reason = false →
              ∃ t, run = .next t ∧ t.time.gates = (s.time.gates.map fun x => if x.gate = g then
                  { x with frames := max x.frames frames, reasons := x.reasons ||| BitVec.ofNat 7 (2 ^ reason) } else x) ∧
                ∀ j ∈ s.takeLinks, j ≠ l.val → ∀ n, n < 3 → .hold j take (g % 2 ^ 20).toNat frames reason origin n ∈ t.out)) ∧
          (s.time.gates = [] → ∃ t, run = .next t ∧
            t.time.gates = [{ gate := g, frames := frames, reasons := BitVec.ofNat 7 (2 ^ reason) }] ∧
            ∀ j ∈ s.takeLinks, j ≠ l.val → ∀ n, n < 3 → .hold j take (g % 2 ^ 20).toNat frames reason origin n ∈ t.out)))) ∧
    (∀ c : BadCodeword,
      let up := fun (t : State) (f : Fld) => t.fget f = min (s.fget f + 1) (2 ^ 32 - 1)
      (s.listens = false → exec (.uncorrectableCodeword l c) s = .next s) ∧
      (s.listens = true →
        ((rsCorrect c.symbols = none ∨ ∃ w places, rsCorrect c.symbols = some (w, places) ∧ (codewordOf w).type = 3) →
          ∃ t, exec (.uncorrectableCodeword l c) s = .next t ∧ up t (Reg.LK_FEC_UNC_COUNT l.val) ∧
            (c.slateLost = true → up t (Reg.LK_SLATELOST_COUNT l.val))) ∧
        (∀ w places, rsCorrect c.symbols = some (w, places) → (codewordOf w).type ≠ 3 →
          ∃ t, exec (.uncorrectableCodeword l c) s = .next t ∧ (places ≠ [] → up t (Reg.LK_FEC_CORR_COUNT l.val)) ∧
            ((codewordOf w).type = 1 → reservedSet (codewordOf w).osType = true → up t (Reg.LK_MALFORMED_COUNT l.val)))))

/-! ## HBM maintenance, clocks and power -/

/-- Scrubs and the patrol. A scrub that ends leaves its unit's storage zero, without poison or bit errors, with DONE set; the last one ends an
UNLOAD (R153, R266). The patrol, performing what is due first, writes back what its last read left, goes one unit on and leaves what it
finds bad for the next write-back (R263); a queued poison write-back leaves poison with fresh check bits (R261). A refresh window opens
every 3,904 ticks, or every 1,952 with DOUBLE, and changes no content (R257); a temperature shows: DOUBLE from above 85 °C down to 83 °C,
OVERTEMP from 95 °C (R258). Otherwise each changes nothing. -/
def Obligations.MemoryUpkeep : Prop :=
  ∀ (s : State) (i : Fin 8),
    let ends : State → Prop := fun t => (s.running? 0x02 = none → t.dev = s.dev) ∧
      ((s.running? 0x02).isSome = true → t.allScrubbed = true → t.dev = .ready ∧ t.take.active = none)
    (∀ c : CoreId, (s.scrubbing c.key = true → ∃ t, exec (.scrubComplete (some c) i) s = .next t ∧
        (∀ a, a < spadSize → memGet t.spad (spadAddr c.key a) = 0) ∧ (∀ g, g < spadSize / 8 → t.granMeta c.key g = Meta.clean) ∧
        t.flag (Reg.CL_SCRUB_DONE c.cl.val c.slot.val) = true ∧ t.scrubbing c.key = false ∧ t.hbm = s.hbm ∧ ends t) ∧
      (s.scrubbing c.key = false → s.running? 0x02 = none → exec (.scrubComplete (some c) i) s = .next s)) ∧
    (s.flag (Reg.HM_SCRUB_BUSY i.val) = true → ∃ t, exec (.scrubComplete none i) s = .next t ∧
      (∀ a, a < 2 ^ 36 → memGet t.hbm (i.val * 2 ^ 36 + a) = 0) ∧ (∀ u, u < 2 ^ 31 → t.unitMeta (i.val * 2 ^ 31 + u) = Meta.clean) ∧
      t.flag (Reg.HM_SCRUB_DONE i.val) = true ∧ t.flag (Reg.HM_SCRUB_BUSY i.val) = false ∧ t.spad = s.spad ∧ ends t) ∧
    (s.flag (Reg.HM_SCRUB_BUSY i.val) = false → s.running? 0x02 = none → exec (.scrubComplete none i) s = .next s) ∧
    (let k := s.stack i.val
     let u := i.val * 2 ^ 31 + k.patrol
     (s.patrols i.val = false → exec (.patrolRead i) s = .next s) ∧
     (s.patrols i.val = true → NoStoreDue s → ∃ t, exec (.patrolRead i) s = .next t ∧ t.hbm = s.hbm ∧
       (k.patrol + 1 < 2 ^ 31 → (t.stack i.val).patrol = k.patrol + 1) ∧
       (2 ^ 31 ≤ k.patrol + 1 → (t.stack i.val).patrol = 0 ∧
         t.fget (Reg.HM_PATROL_PASSES i.val) = min (s.fget (Reg.HM_PATROL_PASSES i.val) + 1) (2 ^ 16 - 1)) ∧
       (∀ v p, k.found = some (v, p) → t.unitMeta v = { poison := (s.unitMeta v).poison || p, check := .clean }) ∧
       (k.found = none → t.hbmMeta = s.hbmMeta ∧
         (s.isRetired (32 * u) 32 = true ∨ (s.unitMeta u).check = .clean → (t.stack i.val).found = none) ∧
         (s.isRetired (32 * u) 32 = false → (s.unitMeta u).check = .correctable → (t.stack i.val).found = some (u, false)) ∧
         (s.isRetired (32 * u) 32 = false → (s.unitMeta u).check = .uncorrectable → (t.stack i.val).found = some (u, true))))) ∧
    (∀ u us, s.dev ≠ .off → NoStoreDue s → (s.stack i.val).pwb = u :: us → ∃ t, exec (.poisonWriteback i) s = .next t ∧
      t.unitMeta u = { poison := true, check := .clean } ∧ t.hbm = s.hbm) ∧
    (s.dev = .off ∨ (NoStoreDue s ∧ (s.stack i.val).pwb = []) → exec (.poisonWriteback i) s = .next s) ∧
    (∀ ch : Fin 32,
      let last := mapGet (fun _ => 0) (s.stack i.val).windows ch.val
      let opens := s.dev ≠ .off ∧
        (last = 0 ∨ last - 1 + (if s.flag (Reg.HM_STATUS_DOUBLE i.val) then 1952 else 3904) ≤ s.wallNow)
      (opens → ∃ t, exec (.refreshWindow i ch) s = .next t ∧ t = { s with hbmStacks := t.hbmStacks } ∧
        mapGet (fun _ => 0) (t.stack i.val).windows ch.val = s.wallNow + 1) ∧
      (¬ opens → exec (.refreshWindow i ch) s = .next s)) ∧
    (∀ c : Nat,
      (s.dev = .off → exec (.temperatureSample i c) s = .next s) ∧
      (s.dev ≠ .off → ∃ t, exec (.temperatureSample i c) s = .next t ∧ t.fget (Reg.HM_STATUS_TEMP i.val) = min c 255 ∧
        t.flag (Reg.HM_STATUS_OVERTEMP i.val) = decide (95 ≤ c) ∧ t.hbm = s.hbm ∧
        t.flag (Reg.HM_STATUS_DOUBLE i.val) = (decide (85 < c) || (decide (83 < c) && s.flag (Reg.HM_STATUS_DOUBLE i.val)))))

/-- Clocks and the brake. A region that is present and ample raises its clock one step, up to 5/4 of plan frequency; a narrow one falls to plan
frequency; an exhausted one counts stretched cycles at plan frequency, and from above falls to it first (R31, R32; the model's choice,
log 70). The brake engages on an average input power above PW_LIMIT × (1 + MARGIN / 256), on a rail trip, a junction at 105 °C or a stack at
95 °C, and releases once none has been present for 1,024 ticks, and not before (R405); a junction at 115 °C or a stack at 105 °C trips the
device into FAILED, once (R407). A frame dropped by the front end counts; a port's link shows (R276).
PTP (R276, R277; the messages follow IEEE 1588-2019, log 74): a message of another domain, over another
transport or at a port that is not enabled and up changes nothing. The first foreign master heard becomes the time transmitter. A complete Sync
of the transmitter is answered by a Delay_Req and, once the path delay is known, measures the offset, FE_PTP_OFS; within the guard
it leaves wall time unstepped. The Delay_Resp to that Delay_Req gives the path delay, half of the round trip. -/
def Obligations.ClocksAndPower : Prop :=
  ∀ s : State,
    (∀ r : Fin 57,
      let band := Reg.PW_BARO_BAND r.val
      let ratio := Reg.PW_BARO_RATIO r.val
      let here := s.dev ≠ .off ∧ s.regionPresent r.val = true
      (here → s.fget band = 0 → s.fget ratio < 320 →
        ∃ t, exec (.clockRaise r) s = .next t ∧ t = { s with regs := t.regs } ∧ t.fget ratio = s.fget ratio + 1) ∧
      (¬ here ∨ s.fget band ≠ 0 ∨ 320 ≤ s.fget ratio → exec (.clockRaise r) s = .next s) ∧
      (¬ here → ∀ b, exec (.barometerBand r b) s = .next s) ∧
      (here →
        (∃ t, exec (.barometerBand r .ample) s = .next t ∧ t.fget band = 0 ∧ t.fget ratio = s.fget ratio) ∧
        (∃ t, exec (.barometerBand r .narrow) s = .next t ∧ t.fget band = 1 ∧ t.fget ratio = 256) ∧
        (∃ t, exec (.barometerBand r .exhausted) s = .next t ∧ t.fget band = 2 ∧ t.fget ratio = 256 ∧
          (s.fget ratio = 256 → s.fget (Reg.PW_BARO_STRETCH r.val) < 2 ^ 21 - 1 →
            s.fget (Reg.PW_BARO_STRETCH r.val) < t.fget (Reg.PW_BARO_STRETCH r.val))))) ∧
    (let engaged : State → Fld → Prop := fun t f =>
       t.flag Reg.PW_STATUS_BRAKE = true ∧ t.flag f = true ∧ t.manage.overTicks = s.wallNow
     (s.dev = .off → ∀ c watts, exec (.brakeEngage c watts) s = .next s) ∧
     (s.dev ≠ .off → ∀ watts,
       let above := s.fget Reg.PW_LIMIT_WATTS * (256 + s.fget Reg.PW_BRAKE_CFG_MARGIN) < 256 * watts
       (∃ t, exec (.brakeEngage .power watts) s = .next t ∧ t.fget Reg.PW_INPUT_NOW = min watts 0xFFFF ∧
         (above → engaged t Reg.PW_STATUS_OVERCUR) ∧
         (¬ above → t.flag Reg.PW_STATUS_BRAKE = s.flag Reg.PW_STATUS_BRAKE ∧ t.manage = s.manage)) ∧
       (∃ t, exec (.brakeEngage .rail watts) s = .next t ∧ engaged t Reg.PW_STATUS_OVERCUR) ∧
       (∃ t, exec (.brakeEngage .thermal watts) s = .next t ∧ engaged t Reg.PW_STATUS_THERM)) ∧
     (s.hotStack = false → s.manage.overTicks + 1024 ≤ s.wallNow →
       ∃ t, exec .brakeRelease s = .next t ∧ t.flag Reg.PW_STATUS_BRAKE = false ∧ t = { s with regs := t.regs }) ∧
     (s.hotStack = true ∨ s.wallNow < s.manage.overTicks + 1024 → exec .brakeRelease s = .next s) ∧
     (s.dev = .off → ∀ w e k, exec (.thermalTrip w e k) s = .next s) ∧
     (s.dev ≠ .off → ∀ w e k, ∃ t, exec (.thermalTrip w e k) s = .next t ∧
       (max w e < 105 → k < 95 → t.manage = s.manage ∧ t.dev = s.dev ∧ t.flag Reg.PW_STATUS_BRAKE = s.flag Reg.PW_STATUS_BRAKE) ∧
       (max w e < 115 → k < 105 → (105 ≤ max w e ∨ 95 ≤ k) → engaged t Reg.PW_STATUS_THERM) ∧
       ((115 ≤ max w e ∨ 105 ≤ k) → t.flag Reg.PW_STATUS_TRIP = true ∧
         t.dev = (if s.flag Reg.PW_STATUS_TRIP then s.dev else .failed))) ∧
     (s.dev ≠ .off → ∀ (i : Fin 8) (c : Nat), 95 ≤ c → ∃ t, exec (.temperatureSample i c) s = .next t ∧
       (c < 105 → engaged t Reg.PW_STATUS_THERM) ∧
       (105 ≤ c → t.dev = (if s.flag Reg.PW_STATUS_TRIP then s.dev else .failed)))) ∧
    (∀ p : Fin 2,
      (s.dev = .off → exec (.frontEndFrameDrop p) s = .next s ∧ ∀ up fast, exec (.frontEndLinkChange p up fast) s = .next s) ∧
      (s.dev ≠ .off →
        (∃ t, exec (.frontEndFrameDrop p) s = .next t ∧ t.fget Reg.FE_DROP_COUNT = min (s.fget Reg.FE_DROP_COUNT + 1) (2 ^ 32 - 1)) ∧
        ∀ up fast, ∃ t, exec (.frontEndLinkChange p up fast) s = .next t ∧ t.portUp p.val = up)) ∧
    (let ptp := s.time.ptp
     (∀ m, s.dev = .off → exec (.ptpMessage m) s = .next s) ∧
     ∀ (h : PtpHead),
       (s.ptpTakes h = false → ∀ o origin c, exec (.ptpMessage (.sync h o)) s = .next s ∧
         exec (.ptpMessage (.followUp h origin)) s = .next s ∧ exec (.ptpMessage (.delayResp h origin)) s = .next s ∧
         exec (.ptpMessage (.announce h c)) s = .next s) ∧
       (s.dev ≠ .off →
         (s.ptpTakes h = true → ptp.masters = [] → ptp.chosen = none → ∀ c : PtpClock, c.steps < 255 →
           ∃ t, exec (.ptpMessage (.announce h c)) s = .next t ∧ t.time.ptp.chosen = some (h.port, h.sender) ∧
             t.fget Reg.FE_PTP_STAT_STATE = 2 ∧ t.fget Reg.FE_PTP_GM_CLOCKID = c.gm.toNat) ∧
         (s.ptpChosen h = true →
           let synced : Int → Int → State → Prop := fun origin at_ t => .delayReq h.port h.domain h.transport (ptp.asks % 65536) ∈ t.out ∧
             ∀ d, ptp.delay = some d →
               let e := at_ - origin - d
               (e.natAbs < 2 ^ 31 → t.fget Reg.FE_PTP_OFS_OFS = unsignedOf 32 e) ∧
               (s.fget Reg.FE_PTP_STAT_STATE = 3 → s.hasParent = false → s.fget Reg.TB_CTRL_ROOTSRC = 1 →
                 e.natAbs ≤ s.fget Reg.TB_SLATE_CFG_GUARD → t.fget Reg.TB_STATUS_SOURCE = 2 ∧ t.time.wall = s.time.wall)
           (∀ origin, ∃ t, exec (.ptpMessage (.sync h (some origin))) s = .next t ∧ synced origin s.wallNow t) ∧
           (∃ t, exec (.ptpMessage (.sync h none)) s = .next t ∧ t.time.ptp.pair = some (h.seq, (s.wallNow : Int))) ∧
           (∀ origin at_, ptp.pair = some (h.seq, at_) →
             ∃ t, exec (.ptpMessage (.followUp h origin)) s = .next t ∧ synced origin at_ t) ∧
           (∀ arrival sent origin at_, ptp.ask = some (h.seq, sent) → ptp.last = some (origin, at_) →
             ∃ t, exec (.ptpMessage (.delayResp h arrival)) s = .next t ∧
               t.time.ptp.delay = some ((at_ - sent + (arrival - origin)) / 2) ∧ t.time.ptp.ask = none))))

/-! ## Management, power and boot -/

/-- The management processors. A period with time for telemetry keeps its rate or, the 16th in a row, doubles it back; one without halves it,
down to 1/256, and counts the loss (R395). A heartbeat with an agreeing sample settles the election on the director that the strap selects,
out of ISOLATED at the tenth in a row; samples that differ, or DIRMAP 0b11, are CONTRA: an in-band interrupt, and a device that is ARMED,
RUNNING or HOLDING fences; the third heartbeat missed in a row isolates a settled processor; a strap shows as sampled (R398 to R401). In OFF
none of them acts. -/
def Obligations.ProcessorsElect : Prop :=
  ∀ (s : State) (d : Fin 2),
    (s.dev = .off → ∀ w b, exec (.managementPeriod d w) s = .next s ∧ exec (.heartbeat d b) s = .next s ∧
      exec (.heartbeatMissed d) s = .next s ∧ exec (.strapSample d b) s = .next s) ∧
    (s.dev ≠ .off →
      let p := s.proc d.val
      let contra : State → Prop := fun t => (t.proc d.val).estate = .contra ∧ t.flag Reg.DD_STATUS_CONTRA = true ∧ .ibi d.val ∈ t.out ∧
        t.dev = (if s.dev.intake then .fenced else s.dev)
      (∀ w : PeriodLoad,
        let tdiv := s.fget (Reg.DD_MP_TDIV d.val)
        ∃ t, exec (.managementPeriod d w) s = .next t ∧
          (w.sampled = true →
            (tdiv = 0 → t = s) ∧
            (0 < tdiv → p.good + 1 < 16 → t.fget (Reg.DD_MP_TDIV d.val) = tdiv ∧ (t.proc d.val).good = p.good + 1) ∧
            (0 < tdiv → 16 ≤ p.good + 1 → t.fget (Reg.DD_MP_TDIV d.val) = tdiv - 1 ∧ (t.proc d.val).good = 0)) ∧
          (w.sampled = false → t.fget (Reg.DD_MP_TDIV d.val) = (if tdiv < 8 then tdiv + 1 else tdiv) ∧ (t.proc d.val).good = 0 ∧
            t.fget (Reg.DD_MP_LOST d.val) = min (s.fget (Reg.DD_MP_LOST d.val) + w.lost) (2 ^ 16 - 1))) ∧
      (∀ b : Bool, ∃ t, exec (.heartbeat d b) s = .next t ∧ (t.proc d.val).missed = 0 ∧ (t.proc d.val).seen = some b ∧
        (s.dirmap ≠ 3 → b = s.strapOf d.val → t.dev = s.dev ∧
          (p.estate = .undecided ∨ p.estate = .settled ∨ (p.estate = .isolated ∧ 10 ≤ p.got + 1) →
            (t.proc d.val).estate = .settled ∧ t.fget Reg.DD_STATUS_DIRECTOR = directorOf s.dirmap (s.strapOf d.val)) ∧
          (p.estate = .isolated → p.got + 1 < 10 → (t.proc d.val).estate = .isolated)) ∧
        (p.estate ≠ .contra → s.dirmap = 3 ∨ b ≠ s.strapOf d.val → contra t) ∧
        (p.estate = .contra → (t.proc d.val).estate = .contra ∧ t.dev = s.dev)) ∧
      (∃ t, exec (.heartbeatMissed d) s = .next t ∧ t.dev = s.dev ∧ (t.proc d.val).missed = p.missed + 1 ∧
        t.fget Reg.DD_HB_MISSES = min (s.fget Reg.DD_HB_MISSES + 1) (2 ^ 16 - 1) ∧
        (t.proc d.val).estate = (if p.estate = .settled ∧ 3 ≤ p.missed + 1 then .isolated else p.estate)) ∧
      (∀ b : Bool, ∃ t, exec (.strapSample d b) s = .next t ∧ t.strapOf d.val = b ∧
        t.flag (if d.val = 0 then Reg.DD_STATUS_STRAPW else Reg.DD_STATUS_STRAPE) = b ∧
        (s.dirmap ≠ 3 → (∀ x, p.seen = some x → x = b) → (t.proc d.val).estate = p.estate ∧ t.dev = s.dev) ∧
        (p.estate ≠ .contra → s.dirmap = 3 ∨ p.seen = some (!b) → contra t)))

/-- Power, boot and resets. Good main and standby power start BOOT with the straps sampled; a loss ends in OFF with memory, logs and the take
lost; flash and fuses stay (R349, R448, R457). Boot starts the slot that the journal names, or else the other one, and none is FAILED (R414); a
DIRMAP of 0b11 keeps it in BOOT (R401); enough cores in a cluster end it in READY, scrubbed, else in FAILED (R349). A trial that does not end
within 20 s is reset and counted (R414). A bus reset enters BOOT; the host interface's reset discards orders not yet received, clears
the queues and EN, and keeps memory, the take and what was not delivered (R339). A STAT output is released in OFF, and asserted in FENCED and
FAILED as Table 17.4 says (R458); the lanes of L42 lie where its worked example puts them (R459). -/
def Obligations.PowerAndBoot : Prop :=
  ∀ s : State,
    let flash : State → Prop := fun t => t.manage.journals = s.manage.journals ∧ t.manage.sheets = s.manage.sheets ∧
      t.manage.minver = s.manage.minver ∧ t.manage.keys = s.manage.keys ∧ t.manage.imgA = s.manage.imgA ∧ t.manage.imgB = s.manage.imgB
    (∀ p, (s.dev = .off → ∃ t, exec (.mainPowerGood p) s = .next t ∧ t.dev = .boot ∧ t.manage.straps = p ∧ t.nextSeq = 1 ∧ flash t) ∧
      (s.dev ≠ .off → exec (.mainPowerGood p) s = .next s)) ∧
    (∀ m, ∃ t, exec (.powerLost m) s = .next t ∧ t.dev = .off ∧ flash t ∧
      (s.dev = .off → t = { s with manage := t.manage }) ∧
      (s.dev ≠ .off → t.hbm = [] ∧ t.spad = [] ∧ t.log = State.reset.log ∧ t.take = State.reset.take)) ∧
    (s.dev ≠ .off → ∃ t, exec .i3cReset s = .next t ∧ t.dev = .boot ∧ t.hbm = [] ∧ t.spad = [] ∧ t.nextSeq = 1 ∧
      t.pending = s.pending ∧ flash t) ∧
    (s.dev ≠ .off → ∃ t, exec .hostInterfaceReset s = .next t ∧ t.flag Reg.HI_MB_CTRL_EN = false ∧
      t.flag Reg.HI_STATUS_RSTSEEN = true ∧ t.host.rewrite = s.host.posted ∧ t.host.kept = s.host.kept ∧ t.host.bells = [] ∧
      (∀ n, n < 64 → t.reg (Reg.HI_PX_CFG n) = resetWord (Reg.HI_PX_CFG n)) ∧
      t.nextSeq = s.nextSeq ∧ t.dev = s.dev ∧ t.take = s.take ∧ t.hbm = s.hbm ∧ t.spad = s.spad) ∧
    (s.dev = .off → exec .i3cReset s = .next s ∧ exec .hostInterfaceReset s = .next s) ∧
    (let start : BootChoice := match s.journal.trial with
       | some b => if 0 < s.journal.trials then { slotB := b, trial := true, fallback := false }
           else { slotB := s.journal.activeB, trial := false, fallback := true }
       | none => { slotB := s.journal.activeB, trial := false, fallback := false }
     let map := match s.chosenSheet with
       | some x => x.dirmap.toNat
       | none => s.dirmap
     ∀ b : BootFacts,
       (s.dev ≠ .boot ∨ s.contra = true → exec (.bootComplete b) s = .next s) ∧
       (s.dev = .boot → s.contra = false →
         (b.settle start = none → ∃ t, exec (.bootComplete b) s = .next t ∧ t.dev = .failed) ∧
         (∀ c, b.settle start = some c → ∃ t, exec (.bootComplete b) s = .next t ∧
           t.flag Reg.SC_STATUS_BOOTSLOT = c.slotB ∧ t.flag Reg.SC_STATUS_TRIALBOOT = c.trial ∧ t.flag Reg.SC_STATUS_FALLBACK = c.fallback ∧
           (map = 3 → t.dev = .boot ∧ t.contra = true) ∧
           (map ≠ 3 → t.hbmScrubbed = true ∧ ((∃ cl, cl < 4 ∧ 9 ≤ t.countGood cl) → t.dev = .ready) ∧
             ((∀ cl, cl < 4 → t.countGood cl < 9) → t.dev = .failed))))) ∧
    (let late := s.dev = .boot ∧ s.journal.trial.isSome = true ∧ 0 < s.journal.trials ∧ 20000000000 ≤ s.wallNow
     (late → ∃ t, exec .trialTimeout s = .next t ∧ t.dev = .boot ∧ t.journal.trials = s.journal.trials - 1 ∧
       t.journal.trial = s.journal.trial) ∧
     (¬ late → exec .trialTimeout s = .next s)) ∧
    (s.dev = .off → ∀ n, s.statAsserted n = false) ∧
    (s.dev = .fenced ∨ s.dev = .failed → s.statAsserted 2 = true ∧ s.statAsserted 0 = decide (s.dev = .fenced)) ∧
    linkConnector 42 = 10 ∧ txFiber 42 3 = 12 ∧ rxFiber 42 3 = 28
end

