-- ==== Sys2Proof/Laws/Maps.lean ====
section
/-! SUPPORT. Sparse maps and byte memories: a read after a write, and the canonical form. -/

namespace Sys2Proof.Machine

variable {α : Type}

/-! ## Reading after writing -/

theorem mapFind_mapDel_same (m : SMap α) (k : Nat) : mapFind (mapDel m k) k = none := by
  induction m with
  | nil => rfl
  | cons e m ih =>
    obtain ⟨a, v⟩ := e
    by_cases h : a = k <;> simp [mapDel, mapFind, h, ih]

theorem mapFind_mapDel_ne (m : SMap α) {j k : Nat} (h : j ≠ k) : mapFind (mapDel m k) j = mapFind m j := by
  induction m with
  | nil => rfl
  | cons e m ih =>
    obtain ⟨a, v⟩ := e
    by_cases h1 : a = k
    · subst h1; simp [mapDel, mapFind, ih, Ne.symm h]
    · simp [mapDel, mapFind, h1, ih]

theorem mapFind_mapIns_same (m : SMap α) (k : Nat) (v : α) : mapFind (mapIns m k v) k = some v := by
  induction m with
  | nil => simp [mapIns, mapFind]
  | cons e m ih =>
    obtain ⟨a, w⟩ := e
    by_cases h1 : k < a
    · simp [mapIns, mapFind, h1]
    · by_cases h2 : k = a
      · simp [mapIns, mapFind, h2]
      · simp [mapIns, mapFind, h1, h2, ih, Ne.symm h2]

theorem mapFind_mapIns_ne (m : SMap α) {j k : Nat} (v : α) (h : j ≠ k) : mapFind (mapIns m k v) j = mapFind m j := by
  induction m with
  | nil => simp [mapIns, mapFind, Ne.symm h]
  | cons e m ih =>
    obtain ⟨a, w⟩ := e
    by_cases h1 : k < a
    · simp [mapIns, mapFind, h1, Ne.symm h]
    · by_cases h2 : k = a
      · subst h2; simp [mapIns, mapFind, Ne.symm h]
      · simp [mapIns, mapFind, h1, h2, ih]

/-- A key reads as what was last written to it. -/
@[simp] theorem mapGet_mapPut_same [DecidableEq α] (d : Nat → α) (m : SMap α) (k : Nat) (v : α) :
    mapGet d (mapPut d m k v) k = v := by
  unfold mapPut mapGet
  split
  · next h => simp [mapFind_mapDel_same, h]
  · simp [mapFind_mapIns_same]

/-- A write leaves every other key alone. -/
theorem mapGet_mapPut_ne [DecidableEq α] (d : Nat → α) (m : SMap α) {j k : Nat} (v : α) (h : j ≠ k) :
    mapGet d (mapPut d m k v) j = mapGet d m j := by
  unfold mapPut mapGet
  split
  · rw [mapFind_mapDel_ne m h]
  · rw [mapFind_mapIns_ne m v h]

theorem mapGet_mapPut [DecidableEq α] (d : Nat → α) (m : SMap α) (j k : Nat) (v : α) :
    mapGet d (mapPut d m k v) j = if j = k then v else mapGet d m j := by
  by_cases h : j = k
  · subst h; simp
  · simp [h, mapGet_mapPut_ne d m v h]

/-- An update of every entry acts on every key, where it keeps the defaults. -/
theorem mapGet_mapAll [DecidableEq α] (d : Nat → α) (f : α → α) (hf : ∀ k, f (d k) = d k) (m : SMap α) (k : Nat) :
    mapGet d (mapAll d f m) k = f (mapGet d m k) := by
  induction m with
  | nil => simp [mapAll, mapGet, mapFind, hf]
  | cons e m ih =>
    obtain ⟨a, v⟩ := e
    by_cases hk : a = k
    · subst hk
      by_cases h : f v = d a
      · simp [mapAll, mapGet, mapFind, h, mapFind_mapDel_same]
      · simp [mapAll, mapGet, mapFind, h]
    · unfold mapGet at ih ⊢
      by_cases h : f v = d a
      · simp [mapAll, mapFind, h, hk, mapFind_mapDel_ne _ (Ne.symm hk), ih]
      · simp [mapAll, mapFind, h, hk, ih]

/-! ## The canonical form -/

theorem mapWfFrom_mono [DecidableEq α] (d : Nat → α) {a b : Nat} (m : SMap α) (hab : a ≤ b) (h : mapWfFrom d b m = true) :
    mapWfFrom d a m = true := by
  cases m with
  | nil => rfl
  | cons e m =>
    obtain ⟨k, v⟩ := e
    simp only [mapWfFrom, Bool.and_eq_true, decide_eq_true_eq] at h ⊢
    exact ⟨⟨le_trans hab h.1.1, h.1.2⟩, h.2⟩

theorem mapWfFrom_mapDel [DecidableEq α] (d : Nat → α) (m : SMap α) (k : Nat) :
    ∀ b, mapWfFrom d b m = true → mapWfFrom d b (mapDel m k) = true := by
  induction m with
  | nil => intro b h; exact h
  | cons e m ih =>
    obtain ⟨a, v⟩ := e
    intro b h
    simp only [mapWfFrom, Bool.and_eq_true, decide_eq_true_eq] at h
    by_cases hk : a = k
    · simp only [mapDel, hk, if_true]
      exact ih b (mapWfFrom_mono d m (by omega) h.2)
    · simp only [mapDel, hk, if_false, mapWfFrom, Bool.and_eq_true, decide_eq_true_eq]
      exact ⟨h.1, ih _ h.2⟩

theorem mapWfFrom_mapIns [DecidableEq α] (d : Nat → α) (m : SMap α) (k : Nat) (v : α) (hv : v ≠ d k) :
    ∀ b, b ≤ k → mapWfFrom d b m = true → mapWfFrom d b (mapIns m k v) = true := by
  induction m with
  | nil => intro b hb _; simp [mapIns, mapWfFrom, hb, hv]
  | cons e m ih =>
    obtain ⟨a, w⟩ := e
    intro b hb h
    simp only [mapWfFrom, Bool.and_eq_true, decide_eq_true_eq] at h
    by_cases h1 : k < a
    · simp [mapIns, h1, mapWfFrom, hb, hv, h.1.2, h.2]
    · by_cases h2 : k = a
      · subst h2; simp [mapIns, mapWfFrom, hb, hv, h.2]
      · simp only [mapIns, h1, h2, if_false, mapWfFrom, Bool.and_eq_true, decide_eq_true_eq]
        exact ⟨h.1, ih _ (by omega) h.2⟩

/-- A write keeps the canonical form. -/
theorem mapWf_mapPut [DecidableEq α] (d : Nat → α) (m : SMap α) (k : Nat) (v : α) (h : mapWf d m = true) :
    mapWf d (mapPut d m k v) = true := by
  unfold mapPut mapWf
  split
  · exact mapWfFrom_mapDel d m k 0 h
  · next hv => exact mapWfFrom_mapIns d m k v hv 0 (Nat.zero_le _) h

theorem mapWfFrom_mapAll [DecidableEq α] (d : Nat → α) (f : α → α) (m : SMap α) :
    ∀ b, mapWfFrom d b m = true → mapWfFrom d b (mapAll d f m) = true := by
  induction m with
  | nil => intro b h; exact h
  | cons e m ih =>
    obtain ⟨a, v⟩ := e
    intro b h
    simp only [mapWfFrom, Bool.and_eq_true, decide_eq_true_eq] at h
    by_cases hf : f v = d a
    · simp only [mapAll, hf, if_true]
      exact mapWfFrom_mapDel d _ _ b (ih b (mapWfFrom_mono d m (by omega) h.2))
    · simp only [mapAll, hf, if_false, mapWfFrom, Bool.and_eq_true, decide_eq_true_eq]
      exact ⟨⟨h.1.1, by simpa using hf⟩, ih _ h.2⟩

/-- An update of every entry keeps the canonical form. -/
theorem mapWf_mapAll [DecidableEq α] (d : Nat → α) (f : α → α) (m : SMap α) (h : mapWf d m = true) :
    mapWf d (mapAll d f m) = true := mapWfFrom_mapAll d f m 0 h

/-! ## Byte memories -/

theorem memGet_memPut_same (m : List Host.Cell) (a : Nat) (b : Byte) : memGet (memPut m a b) a = b :=
  mapGet_mapPut_same byteDefault m a b

theorem memGet_memPut_ne (m : List Host.Cell) {x a : Nat} (b : Byte) (h : x ≠ a) : memGet (memPut m a b) x = memGet m x :=
  mapGet_mapPut_ne byteDefault m b h

/-- Every byte of a memory after a write: those written, and the others as before. -/
theorem memGet_memWrite (bs : List Byte) : ∀ (m : List Host.Cell) (a x : Nat),
    memGet (memWrite m a bs) x = if a ≤ x ∧ x < a + bs.length then bs.getD (x - a) 0 else memGet m x := by
  induction bs with
  | nil => intro m a x; simp [memWrite]
  | cons b bs ih =>
    intro m a x
    rw [memWrite, ih]
    by_cases h1 : x = a
    · subst h1; simp [memGet_memPut_same]
    · rw [memGet_memPut_ne m b h1]
      by_cases h2 : a + 1 ≤ x ∧ x < a + 1 + bs.length
      · have h3 : a ≤ x ∧ x < a + (b :: bs).length := by simp only [List.length_cons]; omega
        rw [if_pos h2, if_pos h3]
        obtain ⟨j, rfl⟩ : ∃ j, x = a + 1 + j := ⟨x - (a + 1), by omega⟩
        have e1 : a + 1 + j - (a + 1) = j := by omega
        have e2 : a + 1 + j - a = j + 1 := by omega
        rw [e1, e2]
        simp
      · have h3 : ¬ (a ≤ x ∧ x < a + (b :: bs).length) := by simp only [List.length_cons]; omega
        rw [if_neg h2, if_neg h3]

/-- A write outside a range leaves the range as it was. -/
theorem memGet_memWrite_of_not_mem (m : List Host.Cell) {a x : Nat} (bs : List Byte) (h : ¬ (a ≤ x ∧ x < a + bs.length)) :
    memGet (memWrite m a bs) x = memGet m x := by rw [memGet_memWrite, if_neg h]

theorem memRead_length (m : List Host.Cell) : ∀ (n a : Nat), (memRead m a n).length = n
  | 0, _ => rfl
  | n + 1, a => by simp [memRead, memRead_length m n]

/-- A read in two parts. -/
theorem memRead_add (m : List Host.Cell) (k : Nat) : ∀ (n a : Nat), memRead m a (n + k) = memRead m a n ++ memRead m (a + n) k
  | 0, a => by simp [memRead]
  | n + 1, a => by
    have h := memRead_add m k n (a + 1)
    rw [Nat.add_right_comm, memRead, memRead, h, List.cons_append]
    congr 3
    omega

/-- A byte write keeps the canonical form. -/
theorem memPut_wf (m : List Host.Cell) (a : Nat) (b : Byte) (h : Memory.wf m = true) : Memory.wf (memPut m a b) = true :=
  mapWf_mapPut byteDefault m a b h

/-- A write of bytes keeps the canonical form. -/
theorem memWrite_wf (bs : List Byte) : ∀ (m : List Host.Cell) (a : Nat), Memory.wf m = true → Memory.wf (memWrite m a bs) = true := by
  induction bs with
  | nil => intro m a h; exact h
  | cons b bs ih => intro m a h; exact ih _ _ (memPut_wf m a b h)

theorem mapWf_nil [DecidableEq α] (d : Nat → α) : mapWf d [] = true := rfl

end Sys2Proof.Machine
end

