-- ==== Sys2Proof/Laws/State.lean ====
section
/-! SUPPORT. What each update of the state leaves: one lemma per field and update, and the units by number. -/

namespace Sys2Proof.Machine

/-! ### setReg -/

@[simp] theorem State.setReg_pending (s : State) (o : Nat) (w : Word) : (s.setReg o w).pending = s.pending := rfl
@[simp] theorem State.setReg_free (s : State) (o : Nat) (w : Word) : (s.setReg o w).free = s.free := rfl
@[simp] theorem State.setReg_dev (s : State) (o : Nat) (w : Word) : (s.setReg o w).dev = s.dev := rfl
@[simp] theorem State.setReg_latches (s : State) (o : Nat) (w : Word) : (s.setReg o w).latches = s.latches := rfl
@[simp] theorem State.setReg_time (s : State) (o : Nat) (w : Word) : (s.setReg o w).time = s.time := rfl
@[simp] theorem State.setReg_take (s : State) (o : Nat) (w : Word) : (s.setReg o w).take = s.take := rfl
@[simp] theorem State.setReg_seqs (s : State) (o : Nat) (w : Word) : (s.setReg o w).seqs = s.seqs := rfl
@[simp] theorem State.setReg_bundleErr (s : State) (o : Nat) (w : Word) : (s.setReg o w).bundleErr = s.bundleErr := rfl
@[simp] theorem State.setReg_cores (s : State) (o : Nat) (w : Word) : (s.setReg o w).cores = s.cores := rfl
@[simp] theorem State.setReg_spad (s : State) (o : Nat) (w : Word) : (s.setReg o w).spad = s.spad := rfl
@[simp] theorem State.setReg_spadMeta (s : State) (o : Nat) (w : Word) : (s.setReg o w).spadMeta = s.spadMeta := rfl
@[simp] theorem State.setReg_written (s : State) (o : Nat) (w : Word) : (s.setReg o w).written = s.written := rfl
@[simp] theorem State.setReg_carriedOk (s : State) (o : Nat) (w : Word) : (s.setReg o w).carriedOk = s.carriedOk := rfl
@[simp] theorem State.setReg_windowCtr (s : State) (o : Nat) (w : Word) : (s.setReg o w).windowCtr = s.windowCtr := rfl
@[simp] theorem State.setReg_epoch (s : State) (o : Nat) (w : Word) : (s.setReg o w).epoch = s.epoch := rfl
@[simp] theorem State.setReg_hbm (s : State) (o : Nat) (w : Word) : (s.setReg o w).hbm = s.hbm := rfl
@[simp] theorem State.setReg_hbmMeta (s : State) (o : Nat) (w : Word) : (s.setReg o w).hbmMeta = s.hbmMeta := rfl
@[simp] theorem State.setReg_hbmStacks (s : State) (o : Nat) (w : Word) : (s.setReg o w).hbmStacks = s.hbmStacks := rfl
@[simp] theorem State.setReg_fetch (s : State) (o : Nat) (w : Word) : (s.setReg o w).fetch = s.fetch := rfl
@[simp] theorem State.setReg_links (s : State) (o : Nat) (w : Word) : (s.setReg o w).links = s.links := rfl
@[simp] theorem State.setReg_serve (s : State) (o : Nat) (w : Word) : (s.setReg o w).serve = s.serve := rfl
@[simp] theorem State.setReg_host (s : State) (o : Nat) (w : Word) : (s.setReg o w).host = s.host := rfl
@[simp] theorem State.setReg_faults (s : State) (o : Nat) (w : Word) : (s.setReg o w).faults = s.faults := rfl
@[simp] theorem State.setReg_manage (s : State) (o : Nat) (w : Word) : (s.setReg o w).manage = s.manage := rfl
@[simp] theorem State.setReg_log (s : State) (o : Nat) (w : Word) : (s.setReg o w).log = s.log := rfl
@[simp] theorem State.setReg_out (s : State) (o : Nat) (w : Word) : (s.setReg o w).out = s.out := rfl

/-! ### setCore -/

@[simp] theorem State.setCore_pending (s : State) (k : Nat) (c : Core) : (s.setCore k c).pending = s.pending := rfl
@[simp] theorem State.setCore_free (s : State) (k : Nat) (c : Core) : (s.setCore k c).free = s.free := rfl
@[simp] theorem State.setCore_dev (s : State) (k : Nat) (c : Core) : (s.setCore k c).dev = s.dev := rfl
@[simp] theorem State.setCore_regs (s : State) (k : Nat) (c : Core) : (s.setCore k c).regs = s.regs := rfl
@[simp] theorem State.setCore_latches (s : State) (k : Nat) (c : Core) : (s.setCore k c).latches = s.latches := rfl
@[simp] theorem State.setCore_time (s : State) (k : Nat) (c : Core) : (s.setCore k c).time = s.time := rfl
@[simp] theorem State.setCore_take (s : State) (k : Nat) (c : Core) : (s.setCore k c).take = s.take := rfl
@[simp] theorem State.setCore_seqs (s : State) (k : Nat) (c : Core) : (s.setCore k c).seqs = s.seqs := rfl
@[simp] theorem State.setCore_bundleErr (s : State) (k : Nat) (c : Core) : (s.setCore k c).bundleErr = s.bundleErr := rfl
@[simp] theorem State.setCore_spad (s : State) (k : Nat) (c : Core) : (s.setCore k c).spad = s.spad := rfl
@[simp] theorem State.setCore_spadMeta (s : State) (k : Nat) (c : Core) : (s.setCore k c).spadMeta = s.spadMeta := rfl
@[simp] theorem State.setCore_written (s : State) (k : Nat) (c : Core) : (s.setCore k c).written = s.written := rfl
@[simp] theorem State.setCore_carriedOk (s : State) (k : Nat) (c : Core) : (s.setCore k c).carriedOk = s.carriedOk := rfl
@[simp] theorem State.setCore_windowCtr (s : State) (k : Nat) (c : Core) : (s.setCore k c).windowCtr = s.windowCtr := rfl
@[simp] theorem State.setCore_epoch (s : State) (k : Nat) (c : Core) : (s.setCore k c).epoch = s.epoch := rfl
@[simp] theorem State.setCore_hbm (s : State) (k : Nat) (c : Core) : (s.setCore k c).hbm = s.hbm := rfl
@[simp] theorem State.setCore_hbmMeta (s : State) (k : Nat) (c : Core) : (s.setCore k c).hbmMeta = s.hbmMeta := rfl
@[simp] theorem State.setCore_hbmStacks (s : State) (k : Nat) (c : Core) : (s.setCore k c).hbmStacks = s.hbmStacks := rfl
@[simp] theorem State.setCore_fetch (s : State) (k : Nat) (c : Core) : (s.setCore k c).fetch = s.fetch := rfl
@[simp] theorem State.setCore_links (s : State) (k : Nat) (c : Core) : (s.setCore k c).links = s.links := rfl
@[simp] theorem State.setCore_serve (s : State) (k : Nat) (c : Core) : (s.setCore k c).serve = s.serve := rfl
@[simp] theorem State.setCore_host (s : State) (k : Nat) (c : Core) : (s.setCore k c).host = s.host := rfl
@[simp] theorem State.setCore_faults (s : State) (k : Nat) (c : Core) : (s.setCore k c).faults = s.faults := rfl
@[simp] theorem State.setCore_manage (s : State) (k : Nat) (c : Core) : (s.setCore k c).manage = s.manage := rfl
@[simp] theorem State.setCore_log (s : State) (k : Nat) (c : Core) : (s.setCore k c).log = s.log := rfl
@[simp] theorem State.setCore_out (s : State) (k : Nat) (c : Core) : (s.setCore k c).out = s.out := rfl

/-! ### setSeq -/

@[simp] theorem State.setSeq_pending (s : State) (k : Nat) (q : Seq) : (s.setSeq k q).pending = s.pending := rfl
@[simp] theorem State.setSeq_free (s : State) (k : Nat) (q : Seq) : (s.setSeq k q).free = s.free := rfl
@[simp] theorem State.setSeq_dev (s : State) (k : Nat) (q : Seq) : (s.setSeq k q).dev = s.dev := rfl
@[simp] theorem State.setSeq_regs (s : State) (k : Nat) (q : Seq) : (s.setSeq k q).regs = s.regs := rfl
@[simp] theorem State.setSeq_latches (s : State) (k : Nat) (q : Seq) : (s.setSeq k q).latches = s.latches := rfl
@[simp] theorem State.setSeq_time (s : State) (k : Nat) (q : Seq) : (s.setSeq k q).time = s.time := rfl
@[simp] theorem State.setSeq_take (s : State) (k : Nat) (q : Seq) : (s.setSeq k q).take = s.take := rfl
@[simp] theorem State.setSeq_bundleErr (s : State) (k : Nat) (q : Seq) : (s.setSeq k q).bundleErr = s.bundleErr := rfl
@[simp] theorem State.setSeq_cores (s : State) (k : Nat) (q : Seq) : (s.setSeq k q).cores = s.cores := rfl
@[simp] theorem State.setSeq_spad (s : State) (k : Nat) (q : Seq) : (s.setSeq k q).spad = s.spad := rfl
@[simp] theorem State.setSeq_spadMeta (s : State) (k : Nat) (q : Seq) : (s.setSeq k q).spadMeta = s.spadMeta := rfl
@[simp] theorem State.setSeq_written (s : State) (k : Nat) (q : Seq) : (s.setSeq k q).written = s.written := rfl
@[simp] theorem State.setSeq_carriedOk (s : State) (k : Nat) (q : Seq) : (s.setSeq k q).carriedOk = s.carriedOk := rfl
@[simp] theorem State.setSeq_windowCtr (s : State) (k : Nat) (q : Seq) : (s.setSeq k q).windowCtr = s.windowCtr := rfl
@[simp] theorem State.setSeq_epoch (s : State) (k : Nat) (q : Seq) : (s.setSeq k q).epoch = s.epoch := rfl
@[simp] theorem State.setSeq_hbm (s : State) (k : Nat) (q : Seq) : (s.setSeq k q).hbm = s.hbm := rfl
@[simp] theorem State.setSeq_hbmMeta (s : State) (k : Nat) (q : Seq) : (s.setSeq k q).hbmMeta = s.hbmMeta := rfl
@[simp] theorem State.setSeq_hbmStacks (s : State) (k : Nat) (q : Seq) : (s.setSeq k q).hbmStacks = s.hbmStacks := rfl
@[simp] theorem State.setSeq_fetch (s : State) (k : Nat) (q : Seq) : (s.setSeq k q).fetch = s.fetch := rfl
@[simp] theorem State.setSeq_links (s : State) (k : Nat) (q : Seq) : (s.setSeq k q).links = s.links := rfl
@[simp] theorem State.setSeq_serve (s : State) (k : Nat) (q : Seq) : (s.setSeq k q).serve = s.serve := rfl
@[simp] theorem State.setSeq_host (s : State) (k : Nat) (q : Seq) : (s.setSeq k q).host = s.host := rfl
@[simp] theorem State.setSeq_faults (s : State) (k : Nat) (q : Seq) : (s.setSeq k q).faults = s.faults := rfl
@[simp] theorem State.setSeq_manage (s : State) (k : Nat) (q : Seq) : (s.setSeq k q).manage = s.manage := rfl
@[simp] theorem State.setSeq_log (s : State) (k : Nat) (q : Seq) : (s.setSeq k q).log = s.log := rfl
@[simp] theorem State.setSeq_out (s : State) (k : Nat) (q : Seq) : (s.setSeq k q).out = s.out := rfl

/-! ### setLink -/

@[simp] theorem State.setLink_pending (s : State) (l : Nat) (k : Link) : (s.setLink l k).pending = s.pending := rfl
@[simp] theorem State.setLink_free (s : State) (l : Nat) (k : Link) : (s.setLink l k).free = s.free := rfl
@[simp] theorem State.setLink_dev (s : State) (l : Nat) (k : Link) : (s.setLink l k).dev = s.dev := rfl
@[simp] theorem State.setLink_regs (s : State) (l : Nat) (k : Link) : (s.setLink l k).regs = s.regs := rfl
@[simp] theorem State.setLink_latches (s : State) (l : Nat) (k : Link) : (s.setLink l k).latches = s.latches := rfl
@[simp] theorem State.setLink_time (s : State) (l : Nat) (k : Link) : (s.setLink l k).time = s.time := rfl
@[simp] theorem State.setLink_take (s : State) (l : Nat) (k : Link) : (s.setLink l k).take = s.take := rfl
@[simp] theorem State.setLink_seqs (s : State) (l : Nat) (k : Link) : (s.setLink l k).seqs = s.seqs := rfl
@[simp] theorem State.setLink_bundleErr (s : State) (l : Nat) (k : Link) : (s.setLink l k).bundleErr = s.bundleErr := rfl
@[simp] theorem State.setLink_cores (s : State) (l : Nat) (k : Link) : (s.setLink l k).cores = s.cores := rfl
@[simp] theorem State.setLink_spad (s : State) (l : Nat) (k : Link) : (s.setLink l k).spad = s.spad := rfl
@[simp] theorem State.setLink_spadMeta (s : State) (l : Nat) (k : Link) : (s.setLink l k).spadMeta = s.spadMeta := rfl
@[simp] theorem State.setLink_written (s : State) (l : Nat) (k : Link) : (s.setLink l k).written = s.written := rfl
@[simp] theorem State.setLink_carriedOk (s : State) (l : Nat) (k : Link) : (s.setLink l k).carriedOk = s.carriedOk := rfl
@[simp] theorem State.setLink_windowCtr (s : State) (l : Nat) (k : Link) : (s.setLink l k).windowCtr = s.windowCtr := rfl
@[simp] theorem State.setLink_epoch (s : State) (l : Nat) (k : Link) : (s.setLink l k).epoch = s.epoch := rfl
@[simp] theorem State.setLink_hbm (s : State) (l : Nat) (k : Link) : (s.setLink l k).hbm = s.hbm := rfl
@[simp] theorem State.setLink_hbmMeta (s : State) (l : Nat) (k : Link) : (s.setLink l k).hbmMeta = s.hbmMeta := rfl
@[simp] theorem State.setLink_hbmStacks (s : State) (l : Nat) (k : Link) : (s.setLink l k).hbmStacks = s.hbmStacks := rfl
@[simp] theorem State.setLink_fetch (s : State) (l : Nat) (k : Link) : (s.setLink l k).fetch = s.fetch := rfl
@[simp] theorem State.setLink_serve (s : State) (l : Nat) (k : Link) : (s.setLink l k).serve = s.serve := rfl
@[simp] theorem State.setLink_host (s : State) (l : Nat) (k : Link) : (s.setLink l k).host = s.host := rfl
@[simp] theorem State.setLink_faults (s : State) (l : Nat) (k : Link) : (s.setLink l k).faults = s.faults := rfl
@[simp] theorem State.setLink_manage (s : State) (l : Nat) (k : Link) : (s.setLink l k).manage = s.manage := rfl
@[simp] theorem State.setLink_log (s : State) (l : Nat) (k : Link) : (s.setLink l k).log = s.log := rfl
@[simp] theorem State.setLink_out (s : State) (l : Nat) (k : Link) : (s.setLink l k).out = s.out := rfl

/-! ### setStack -/

@[simp] theorem State.setStack_pending (s : State) (i : Nat) (k : Stack) : (s.setStack i k).pending = s.pending := rfl
@[simp] theorem State.setStack_free (s : State) (i : Nat) (k : Stack) : (s.setStack i k).free = s.free := rfl
@[simp] theorem State.setStack_dev (s : State) (i : Nat) (k : Stack) : (s.setStack i k).dev = s.dev := rfl
@[simp] theorem State.setStack_regs (s : State) (i : Nat) (k : Stack) : (s.setStack i k).regs = s.regs := rfl
@[simp] theorem State.setStack_latches (s : State) (i : Nat) (k : Stack) : (s.setStack i k).latches = s.latches := rfl
@[simp] theorem State.setStack_time (s : State) (i : Nat) (k : Stack) : (s.setStack i k).time = s.time := rfl
@[simp] theorem State.setStack_take (s : State) (i : Nat) (k : Stack) : (s.setStack i k).take = s.take := rfl
@[simp] theorem State.setStack_seqs (s : State) (i : Nat) (k : Stack) : (s.setStack i k).seqs = s.seqs := rfl
@[simp] theorem State.setStack_bundleErr (s : State) (i : Nat) (k : Stack) : (s.setStack i k).bundleErr = s.bundleErr := rfl
@[simp] theorem State.setStack_cores (s : State) (i : Nat) (k : Stack) : (s.setStack i k).cores = s.cores := rfl
@[simp] theorem State.setStack_spad (s : State) (i : Nat) (k : Stack) : (s.setStack i k).spad = s.spad := rfl
@[simp] theorem State.setStack_spadMeta (s : State) (i : Nat) (k : Stack) : (s.setStack i k).spadMeta = s.spadMeta := rfl
@[simp] theorem State.setStack_written (s : State) (i : Nat) (k : Stack) : (s.setStack i k).written = s.written := rfl
@[simp] theorem State.setStack_carriedOk (s : State) (i : Nat) (k : Stack) : (s.setStack i k).carriedOk = s.carriedOk := rfl
@[simp] theorem State.setStack_windowCtr (s : State) (i : Nat) (k : Stack) : (s.setStack i k).windowCtr = s.windowCtr := rfl
@[simp] theorem State.setStack_epoch (s : State) (i : Nat) (k : Stack) : (s.setStack i k).epoch = s.epoch := rfl
@[simp] theorem State.setStack_hbm (s : State) (i : Nat) (k : Stack) : (s.setStack i k).hbm = s.hbm := rfl
@[simp] theorem State.setStack_hbmMeta (s : State) (i : Nat) (k : Stack) : (s.setStack i k).hbmMeta = s.hbmMeta := rfl
@[simp] theorem State.setStack_fetch (s : State) (i : Nat) (k : Stack) : (s.setStack i k).fetch = s.fetch := rfl
@[simp] theorem State.setStack_links (s : State) (i : Nat) (k : Stack) : (s.setStack i k).links = s.links := rfl
@[simp] theorem State.setStack_serve (s : State) (i : Nat) (k : Stack) : (s.setStack i k).serve = s.serve := rfl
@[simp] theorem State.setStack_host (s : State) (i : Nat) (k : Stack) : (s.setStack i k).host = s.host := rfl
@[simp] theorem State.setStack_faults (s : State) (i : Nat) (k : Stack) : (s.setStack i k).faults = s.faults := rfl
@[simp] theorem State.setStack_manage (s : State) (i : Nat) (k : Stack) : (s.setStack i k).manage = s.manage := rfl
@[simp] theorem State.setStack_log (s : State) (i : Nat) (k : Stack) : (s.setStack i k).log = s.log := rfl
@[simp] theorem State.setStack_out (s : State) (i : Nat) (k : Stack) : (s.setStack i k).out = s.out := rfl

/-! ### setCtx -/

@[simp] theorem State.setCtx_pending (s : State) (c : Nat) (x : Ctx) : (s.setCtx c x).pending = s.pending := rfl
@[simp] theorem State.setCtx_free (s : State) (c : Nat) (x : Ctx) : (s.setCtx c x).free = s.free := rfl
@[simp] theorem State.setCtx_dev (s : State) (c : Nat) (x : Ctx) : (s.setCtx c x).dev = s.dev := rfl
@[simp] theorem State.setCtx_regs (s : State) (c : Nat) (x : Ctx) : (s.setCtx c x).regs = s.regs := rfl
@[simp] theorem State.setCtx_latches (s : State) (c : Nat) (x : Ctx) : (s.setCtx c x).latches = s.latches := rfl
@[simp] theorem State.setCtx_time (s : State) (c : Nat) (x : Ctx) : (s.setCtx c x).time = s.time := rfl
@[simp] theorem State.setCtx_take (s : State) (c : Nat) (x : Ctx) : (s.setCtx c x).take = s.take := rfl
@[simp] theorem State.setCtx_seqs (s : State) (c : Nat) (x : Ctx) : (s.setCtx c x).seqs = s.seqs := rfl
@[simp] theorem State.setCtx_bundleErr (s : State) (c : Nat) (x : Ctx) : (s.setCtx c x).bundleErr = s.bundleErr := rfl
@[simp] theorem State.setCtx_cores (s : State) (c : Nat) (x : Ctx) : (s.setCtx c x).cores = s.cores := rfl
@[simp] theorem State.setCtx_spad (s : State) (c : Nat) (x : Ctx) : (s.setCtx c x).spad = s.spad := rfl
@[simp] theorem State.setCtx_spadMeta (s : State) (c : Nat) (x : Ctx) : (s.setCtx c x).spadMeta = s.spadMeta := rfl
@[simp] theorem State.setCtx_written (s : State) (c : Nat) (x : Ctx) : (s.setCtx c x).written = s.written := rfl
@[simp] theorem State.setCtx_carriedOk (s : State) (c : Nat) (x : Ctx) : (s.setCtx c x).carriedOk = s.carriedOk := rfl
@[simp] theorem State.setCtx_windowCtr (s : State) (c : Nat) (x : Ctx) : (s.setCtx c x).windowCtr = s.windowCtr := rfl
@[simp] theorem State.setCtx_epoch (s : State) (c : Nat) (x : Ctx) : (s.setCtx c x).epoch = s.epoch := rfl
@[simp] theorem State.setCtx_hbm (s : State) (c : Nat) (x : Ctx) : (s.setCtx c x).hbm = s.hbm := rfl
@[simp] theorem State.setCtx_hbmMeta (s : State) (c : Nat) (x : Ctx) : (s.setCtx c x).hbmMeta = s.hbmMeta := rfl
@[simp] theorem State.setCtx_hbmStacks (s : State) (c : Nat) (x : Ctx) : (s.setCtx c x).hbmStacks = s.hbmStacks := rfl
@[simp] theorem State.setCtx_fetch (s : State) (c : Nat) (x : Ctx) : (s.setCtx c x).fetch = s.fetch := rfl
@[simp] theorem State.setCtx_links (s : State) (c : Nat) (x : Ctx) : (s.setCtx c x).links = s.links := rfl
@[simp] theorem State.setCtx_host (s : State) (c : Nat) (x : Ctx) : (s.setCtx c x).host = s.host := rfl
@[simp] theorem State.setCtx_faults (s : State) (c : Nat) (x : Ctx) : (s.setCtx c x).faults = s.faults := rfl
@[simp] theorem State.setCtx_manage (s : State) (c : Nat) (x : Ctx) : (s.setCtx c x).manage = s.manage := rfl
@[simp] theorem State.setCtx_log (s : State) (c : Nat) (x : Ctx) : (s.setCtx c x).log = s.log := rfl
@[simp] theorem State.setCtx_out (s : State) (c : Nat) (x : Ctx) : (s.setCtx c x).out = s.out := rfl

/-! ### setTrig -/

@[simp] theorem State.setTrig_pending (s : State) (n : Nat) (t : Trigger) : (s.setTrig n t).pending = s.pending := rfl
@[simp] theorem State.setTrig_free (s : State) (n : Nat) (t : Trigger) : (s.setTrig n t).free = s.free := rfl
@[simp] theorem State.setTrig_dev (s : State) (n : Nat) (t : Trigger) : (s.setTrig n t).dev = s.dev := rfl
@[simp] theorem State.setTrig_regs (s : State) (n : Nat) (t : Trigger) : (s.setTrig n t).regs = s.regs := rfl
@[simp] theorem State.setTrig_latches (s : State) (n : Nat) (t : Trigger) : (s.setTrig n t).latches = s.latches := rfl
@[simp] theorem State.setTrig_take (s : State) (n : Nat) (t : Trigger) : (s.setTrig n t).take = s.take := rfl
@[simp] theorem State.setTrig_seqs (s : State) (n : Nat) (t : Trigger) : (s.setTrig n t).seqs = s.seqs := rfl
@[simp] theorem State.setTrig_bundleErr (s : State) (n : Nat) (t : Trigger) : (s.setTrig n t).bundleErr = s.bundleErr := rfl
@[simp] theorem State.setTrig_cores (s : State) (n : Nat) (t : Trigger) : (s.setTrig n t).cores = s.cores := rfl
@[simp] theorem State.setTrig_spad (s : State) (n : Nat) (t : Trigger) : (s.setTrig n t).spad = s.spad := rfl
@[simp] theorem State.setTrig_spadMeta (s : State) (n : Nat) (t : Trigger) : (s.setTrig n t).spadMeta = s.spadMeta := rfl
@[simp] theorem State.setTrig_written (s : State) (n : Nat) (t : Trigger) : (s.setTrig n t).written = s.written := rfl
@[simp] theorem State.setTrig_carriedOk (s : State) (n : Nat) (t : Trigger) : (s.setTrig n t).carriedOk = s.carriedOk := rfl
@[simp] theorem State.setTrig_windowCtr (s : State) (n : Nat) (t : Trigger) : (s.setTrig n t).windowCtr = s.windowCtr := rfl
@[simp] theorem State.setTrig_epoch (s : State) (n : Nat) (t : Trigger) : (s.setTrig n t).epoch = s.epoch := rfl
@[simp] theorem State.setTrig_hbm (s : State) (n : Nat) (t : Trigger) : (s.setTrig n t).hbm = s.hbm := rfl
@[simp] theorem State.setTrig_hbmMeta (s : State) (n : Nat) (t : Trigger) : (s.setTrig n t).hbmMeta = s.hbmMeta := rfl
@[simp] theorem State.setTrig_hbmStacks (s : State) (n : Nat) (t : Trigger) : (s.setTrig n t).hbmStacks = s.hbmStacks := rfl
@[simp] theorem State.setTrig_fetch (s : State) (n : Nat) (t : Trigger) : (s.setTrig n t).fetch = s.fetch := rfl
@[simp] theorem State.setTrig_links (s : State) (n : Nat) (t : Trigger) : (s.setTrig n t).links = s.links := rfl
@[simp] theorem State.setTrig_serve (s : State) (n : Nat) (t : Trigger) : (s.setTrig n t).serve = s.serve := rfl
@[simp] theorem State.setTrig_host (s : State) (n : Nat) (t : Trigger) : (s.setTrig n t).host = s.host := rfl
@[simp] theorem State.setTrig_faults (s : State) (n : Nat) (t : Trigger) : (s.setTrig n t).faults = s.faults := rfl
@[simp] theorem State.setTrig_manage (s : State) (n : Nat) (t : Trigger) : (s.setTrig n t).manage = s.manage := rfl
@[simp] theorem State.setTrig_log (s : State) (n : Nat) (t : Trigger) : (s.setTrig n t).log = s.log := rfl
@[simp] theorem State.setTrig_out (s : State) (n : Nat) (t : Trigger) : (s.setTrig n t).out = s.out := rfl

/-! ### emit -/

@[simp] theorem State.emit_pending (s : State) (o : Out) : (s.emit o).pending = s.pending := rfl
@[simp] theorem State.emit_free (s : State) (o : Out) : (s.emit o).free = s.free := rfl
@[simp] theorem State.emit_dev (s : State) (o : Out) : (s.emit o).dev = s.dev := rfl
@[simp] theorem State.emit_regs (s : State) (o : Out) : (s.emit o).regs = s.regs := rfl
@[simp] theorem State.emit_latches (s : State) (o : Out) : (s.emit o).latches = s.latches := rfl
@[simp] theorem State.emit_time (s : State) (o : Out) : (s.emit o).time = s.time := rfl
@[simp] theorem State.emit_take (s : State) (o : Out) : (s.emit o).take = s.take := rfl
@[simp] theorem State.emit_seqs (s : State) (o : Out) : (s.emit o).seqs = s.seqs := rfl
@[simp] theorem State.emit_bundleErr (s : State) (o : Out) : (s.emit o).bundleErr = s.bundleErr := rfl
@[simp] theorem State.emit_cores (s : State) (o : Out) : (s.emit o).cores = s.cores := rfl
@[simp] theorem State.emit_spad (s : State) (o : Out) : (s.emit o).spad = s.spad := rfl
@[simp] theorem State.emit_spadMeta (s : State) (o : Out) : (s.emit o).spadMeta = s.spadMeta := rfl
@[simp] theorem State.emit_written (s : State) (o : Out) : (s.emit o).written = s.written := rfl
@[simp] theorem State.emit_carriedOk (s : State) (o : Out) : (s.emit o).carriedOk = s.carriedOk := rfl
@[simp] theorem State.emit_windowCtr (s : State) (o : Out) : (s.emit o).windowCtr = s.windowCtr := rfl
@[simp] theorem State.emit_epoch (s : State) (o : Out) : (s.emit o).epoch = s.epoch := rfl
@[simp] theorem State.emit_hbm (s : State) (o : Out) : (s.emit o).hbm = s.hbm := rfl
@[simp] theorem State.emit_hbmMeta (s : State) (o : Out) : (s.emit o).hbmMeta = s.hbmMeta := rfl
@[simp] theorem State.emit_hbmStacks (s : State) (o : Out) : (s.emit o).hbmStacks = s.hbmStacks := rfl
@[simp] theorem State.emit_fetch (s : State) (o : Out) : (s.emit o).fetch = s.fetch := rfl
@[simp] theorem State.emit_links (s : State) (o : Out) : (s.emit o).links = s.links := rfl
@[simp] theorem State.emit_serve (s : State) (o : Out) : (s.emit o).serve = s.serve := rfl
@[simp] theorem State.emit_host (s : State) (o : Out) : (s.emit o).host = s.host := rfl
@[simp] theorem State.emit_faults (s : State) (o : Out) : (s.emit o).faults = s.faults := rfl
@[simp] theorem State.emit_manage (s : State) (o : Out) : (s.emit o).manage = s.manage := rfl
@[simp] theorem State.emit_log (s : State) (o : Out) : (s.emit o).log = s.log := rfl

/-! ### setDieLog -/

@[simp] theorem State.setDieLog_pending (s : State) (d : Nat) (l : DieLog) : (s.setDieLog d l).pending = s.pending := by
  unfold State.setDieLog; split <;> rfl
@[simp] theorem State.setDieLog_free (s : State) (d : Nat) (l : DieLog) : (s.setDieLog d l).free = s.free := by
  unfold State.setDieLog; split <;> rfl
@[simp] theorem State.setDieLog_dev (s : State) (d : Nat) (l : DieLog) : (s.setDieLog d l).dev = s.dev := by
  unfold State.setDieLog; split <;> rfl
@[simp] theorem State.setDieLog_regs (s : State) (d : Nat) (l : DieLog) : (s.setDieLog d l).regs = s.regs := by
  unfold State.setDieLog; split <;> rfl
@[simp] theorem State.setDieLog_latches (s : State) (d : Nat) (l : DieLog) : (s.setDieLog d l).latches = s.latches := by
  unfold State.setDieLog; split <;> rfl
@[simp] theorem State.setDieLog_time (s : State) (d : Nat) (l : DieLog) : (s.setDieLog d l).time = s.time := by
  unfold State.setDieLog; split <;> rfl
@[simp] theorem State.setDieLog_take (s : State) (d : Nat) (l : DieLog) : (s.setDieLog d l).take = s.take := by
  unfold State.setDieLog; split <;> rfl
@[simp] theorem State.setDieLog_seqs (s : State) (d : Nat) (l : DieLog) : (s.setDieLog d l).seqs = s.seqs := by
  unfold State.setDieLog; split <;> rfl
@[simp] theorem State.setDieLog_bundleErr (s : State) (d : Nat) (l : DieLog) : (s.setDieLog d l).bundleErr = s.bundleErr := by
  unfold State.setDieLog; split <;> rfl
@[simp] theorem State.setDieLog_cores (s : State) (d : Nat) (l : DieLog) : (s.setDieLog d l).cores = s.cores := by
  unfold State.setDieLog; split <;> rfl
@[simp] theorem State.setDieLog_spad (s : State) (d : Nat) (l : DieLog) : (s.setDieLog d l).spad = s.spad := by
  unfold State.setDieLog; split <;> rfl
@[simp] theorem State.setDieLog_spadMeta (s : State) (d : Nat) (l : DieLog) : (s.setDieLog d l).spadMeta = s.spadMeta := by
  unfold State.setDieLog; split <;> rfl
@[simp] theorem State.setDieLog_written (s : State) (d : Nat) (l : DieLog) : (s.setDieLog d l).written = s.written := by
  unfold State.setDieLog; split <;> rfl
@[simp] theorem State.setDieLog_carriedOk (s : State) (d : Nat) (l : DieLog) : (s.setDieLog d l).carriedOk = s.carriedOk := by
  unfold State.setDieLog; split <;> rfl
@[simp] theorem State.setDieLog_windowCtr (s : State) (d : Nat) (l : DieLog) : (s.setDieLog d l).windowCtr = s.windowCtr := by
  unfold State.setDieLog; split <;> rfl
@[simp] theorem State.setDieLog_epoch (s : State) (d : Nat) (l : DieLog) : (s.setDieLog d l).epoch = s.epoch := by
  unfold State.setDieLog; split <;> rfl
@[simp] theorem State.setDieLog_hbm (s : State) (d : Nat) (l : DieLog) : (s.setDieLog d l).hbm = s.hbm := by
  unfold State.setDieLog; split <;> rfl
@[simp] theorem State.setDieLog_hbmMeta (s : State) (d : Nat) (l : DieLog) : (s.setDieLog d l).hbmMeta = s.hbmMeta := by
  unfold State.setDieLog; split <;> rfl
@[simp] theorem State.setDieLog_hbmStacks (s : State) (d : Nat) (l : DieLog) : (s.setDieLog d l).hbmStacks = s.hbmStacks := by
  unfold State.setDieLog; split <;> rfl
@[simp] theorem State.setDieLog_fetch (s : State) (d : Nat) (l : DieLog) : (s.setDieLog d l).fetch = s.fetch := by
  unfold State.setDieLog; split <;> rfl
@[simp] theorem State.setDieLog_links (s : State) (d : Nat) (l : DieLog) : (s.setDieLog d l).links = s.links := by
  unfold State.setDieLog; split <;> rfl
@[simp] theorem State.setDieLog_serve (s : State) (d : Nat) (l : DieLog) : (s.setDieLog d l).serve = s.serve := by
  unfold State.setDieLog; split <;> rfl
@[simp] theorem State.setDieLog_host (s : State) (d : Nat) (l : DieLog) : (s.setDieLog d l).host = s.host := by
  unfold State.setDieLog; split <;> rfl
@[simp] theorem State.setDieLog_faults (s : State) (d : Nat) (l : DieLog) : (s.setDieLog d l).faults = s.faults := by
  unfold State.setDieLog; split <;> rfl
@[simp] theorem State.setDieLog_manage (s : State) (d : Nat) (l : DieLog) : (s.setDieLog d l).manage = s.manage := by
  unfold State.setDieLog; split <;> rfl
@[simp] theorem State.setDieLog_out (s : State) (d : Nat) (l : DieLog) : (s.setDieLog d l).out = s.out := by
  unfold State.setDieLog; split <;> rfl

/-! ### fset -/

theorem State.fsetFrom_eq (f : Fld) (v : Nat) : ∀ (n : Nat) (s : State), ∃ r, s.fsetFrom f v n = { s with regs := r }
  | 0, s => ⟨s.regs, rfl⟩
  | n + 1, s => by
    obtain ⟨r, hr⟩ := State.fsetFrom_eq f v n (s.setReg (f.off + 4 * (f.hi / 32 - n))
      (setBits (s.reg (f.off + 4 * (f.hi / 32 - n))) (min f.hi (32 * (f.hi / 32 - n) + 31) - 32 * (f.hi / 32 - n))
        (max f.lo (32 * (f.hi / 32 - n)) - 32 * (f.hi / 32 - n)) (v / 2 ^ (max f.lo (32 * (f.hi / 32 - n)) - f.lo))))
    exact ⟨r, hr⟩

/-- A field write changes registers only. -/
theorem State.fset_eq (s : State) (f : Fld) (v : Nat) : ∃ r, s.fset f v = { s with regs := r } := State.fsetFrom_eq f v _ s

@[simp] theorem State.fset_pending (s : State) (f : Fld) (v : Nat) : (s.fset f v).pending = s.pending := by
  obtain ⟨r, h⟩ := s.fset_eq f v; rw [h]
@[simp] theorem State.fset_free (s : State) (f : Fld) (v : Nat) : (s.fset f v).free = s.free := by
  obtain ⟨r, h⟩ := s.fset_eq f v; rw [h]
@[simp] theorem State.fset_dev (s : State) (f : Fld) (v : Nat) : (s.fset f v).dev = s.dev := by
  obtain ⟨r, h⟩ := s.fset_eq f v; rw [h]
@[simp] theorem State.fset_latches (s : State) (f : Fld) (v : Nat) : (s.fset f v).latches = s.latches := by
  obtain ⟨r, h⟩ := s.fset_eq f v; rw [h]
@[simp] theorem State.fset_time (s : State) (f : Fld) (v : Nat) : (s.fset f v).time = s.time := by
  obtain ⟨r, h⟩ := s.fset_eq f v; rw [h]
@[simp] theorem State.fset_take (s : State) (f : Fld) (v : Nat) : (s.fset f v).take = s.take := by
  obtain ⟨r, h⟩ := s.fset_eq f v; rw [h]
@[simp] theorem State.fset_seqs (s : State) (f : Fld) (v : Nat) : (s.fset f v).seqs = s.seqs := by
  obtain ⟨r, h⟩ := s.fset_eq f v; rw [h]
@[simp] theorem State.fset_bundleErr (s : State) (f : Fld) (v : Nat) : (s.fset f v).bundleErr = s.bundleErr := by
  obtain ⟨r, h⟩ := s.fset_eq f v; rw [h]
@[simp] theorem State.fset_cores (s : State) (f : Fld) (v : Nat) : (s.fset f v).cores = s.cores := by
  obtain ⟨r, h⟩ := s.fset_eq f v; rw [h]
@[simp] theorem State.fset_spad (s : State) (f : Fld) (v : Nat) : (s.fset f v).spad = s.spad := by
  obtain ⟨r, h⟩ := s.fset_eq f v; rw [h]
@[simp] theorem State.fset_spadMeta (s : State) (f : Fld) (v : Nat) : (s.fset f v).spadMeta = s.spadMeta := by
  obtain ⟨r, h⟩ := s.fset_eq f v; rw [h]
@[simp] theorem State.fset_written (s : State) (f : Fld) (v : Nat) : (s.fset f v).written = s.written := by
  obtain ⟨r, h⟩ := s.fset_eq f v; rw [h]
@[simp] theorem State.fset_carriedOk (s : State) (f : Fld) (v : Nat) : (s.fset f v).carriedOk = s.carriedOk := by
  obtain ⟨r, h⟩ := s.fset_eq f v; rw [h]
@[simp] theorem State.fset_windowCtr (s : State) (f : Fld) (v : Nat) : (s.fset f v).windowCtr = s.windowCtr := by
  obtain ⟨r, h⟩ := s.fset_eq f v; rw [h]
@[simp] theorem State.fset_epoch (s : State) (f : Fld) (v : Nat) : (s.fset f v).epoch = s.epoch := by
  obtain ⟨r, h⟩ := s.fset_eq f v; rw [h]
@[simp] theorem State.fset_hbm (s : State) (f : Fld) (v : Nat) : (s.fset f v).hbm = s.hbm := by
  obtain ⟨r, h⟩ := s.fset_eq f v; rw [h]
@[simp] theorem State.fset_hbmMeta (s : State) (f : Fld) (v : Nat) : (s.fset f v).hbmMeta = s.hbmMeta := by
  obtain ⟨r, h⟩ := s.fset_eq f v; rw [h]
@[simp] theorem State.fset_hbmStacks (s : State) (f : Fld) (v : Nat) : (s.fset f v).hbmStacks = s.hbmStacks := by
  obtain ⟨r, h⟩ := s.fset_eq f v; rw [h]
@[simp] theorem State.fset_fetch (s : State) (f : Fld) (v : Nat) : (s.fset f v).fetch = s.fetch := by
  obtain ⟨r, h⟩ := s.fset_eq f v; rw [h]
@[simp] theorem State.fset_links (s : State) (f : Fld) (v : Nat) : (s.fset f v).links = s.links := by
  obtain ⟨r, h⟩ := s.fset_eq f v; rw [h]
@[simp] theorem State.fset_serve (s : State) (f : Fld) (v : Nat) : (s.fset f v).serve = s.serve := by
  obtain ⟨r, h⟩ := s.fset_eq f v; rw [h]
@[simp] theorem State.fset_host (s : State) (f : Fld) (v : Nat) : (s.fset f v).host = s.host := by
  obtain ⟨r, h⟩ := s.fset_eq f v; rw [h]
@[simp] theorem State.fset_faults (s : State) (f : Fld) (v : Nat) : (s.fset f v).faults = s.faults := by
  obtain ⟨r, h⟩ := s.fset_eq f v; rw [h]
@[simp] theorem State.fset_manage (s : State) (f : Fld) (v : Nat) : (s.fset f v).manage = s.manage := by
  obtain ⟨r, h⟩ := s.fset_eq f v; rw [h]
@[simp] theorem State.fset_log (s : State) (f : Fld) (v : Nat) : (s.fset f v).log = s.log := by
  obtain ⟨r, h⟩ := s.fset_eq f v; rw [h]
@[simp] theorem State.fset_out (s : State) (f : Fld) (v : Nat) : (s.fset f v).out = s.out := by
  obtain ⟨r, h⟩ := s.fset_eq f v; rw [h]

/-! ### fsetb -/

@[simp] theorem State.fsetb_pending (s : State) (f : Fld) (b : Bool) : (s.fsetb f b).pending = s.pending := State.fset_pending s _ _
@[simp] theorem State.fsetb_free (s : State) (f : Fld) (b : Bool) : (s.fsetb f b).free = s.free := State.fset_free s _ _
@[simp] theorem State.fsetb_dev (s : State) (f : Fld) (b : Bool) : (s.fsetb f b).dev = s.dev := State.fset_dev s _ _
@[simp] theorem State.fsetb_latches (s : State) (f : Fld) (b : Bool) : (s.fsetb f b).latches = s.latches := State.fset_latches s _ _
@[simp] theorem State.fsetb_time (s : State) (f : Fld) (b : Bool) : (s.fsetb f b).time = s.time := State.fset_time s _ _
@[simp] theorem State.fsetb_take (s : State) (f : Fld) (b : Bool) : (s.fsetb f b).take = s.take := State.fset_take s _ _
@[simp] theorem State.fsetb_seqs (s : State) (f : Fld) (b : Bool) : (s.fsetb f b).seqs = s.seqs := State.fset_seqs s _ _
@[simp] theorem State.fsetb_bundleErr (s : State) (f : Fld) (b : Bool) : (s.fsetb f b).bundleErr = s.bundleErr := State.fset_bundleErr s _ _
@[simp] theorem State.fsetb_cores (s : State) (f : Fld) (b : Bool) : (s.fsetb f b).cores = s.cores := State.fset_cores s _ _
@[simp] theorem State.fsetb_spad (s : State) (f : Fld) (b : Bool) : (s.fsetb f b).spad = s.spad := State.fset_spad s _ _
@[simp] theorem State.fsetb_spadMeta (s : State) (f : Fld) (b : Bool) : (s.fsetb f b).spadMeta = s.spadMeta := State.fset_spadMeta s _ _
@[simp] theorem State.fsetb_written (s : State) (f : Fld) (b : Bool) : (s.fsetb f b).written = s.written := State.fset_written s _ _
@[simp] theorem State.fsetb_carriedOk (s : State) (f : Fld) (b : Bool) : (s.fsetb f b).carriedOk = s.carriedOk := State.fset_carriedOk s _ _
@[simp] theorem State.fsetb_windowCtr (s : State) (f : Fld) (b : Bool) : (s.fsetb f b).windowCtr = s.windowCtr := State.fset_windowCtr s _ _
@[simp] theorem State.fsetb_epoch (s : State) (f : Fld) (b : Bool) : (s.fsetb f b).epoch = s.epoch := State.fset_epoch s _ _
@[simp] theorem State.fsetb_hbm (s : State) (f : Fld) (b : Bool) : (s.fsetb f b).hbm = s.hbm := State.fset_hbm s _ _
@[simp] theorem State.fsetb_hbmMeta (s : State) (f : Fld) (b : Bool) : (s.fsetb f b).hbmMeta = s.hbmMeta := State.fset_hbmMeta s _ _
@[simp] theorem State.fsetb_hbmStacks (s : State) (f : Fld) (b : Bool) : (s.fsetb f b).hbmStacks = s.hbmStacks := State.fset_hbmStacks s _ _
@[simp] theorem State.fsetb_fetch (s : State) (f : Fld) (b : Bool) : (s.fsetb f b).fetch = s.fetch := State.fset_fetch s _ _
@[simp] theorem State.fsetb_links (s : State) (f : Fld) (b : Bool) : (s.fsetb f b).links = s.links := State.fset_links s _ _
@[simp] theorem State.fsetb_serve (s : State) (f : Fld) (b : Bool) : (s.fsetb f b).serve = s.serve := State.fset_serve s _ _
@[simp] theorem State.fsetb_host (s : State) (f : Fld) (b : Bool) : (s.fsetb f b).host = s.host := State.fset_host s _ _
@[simp] theorem State.fsetb_faults (s : State) (f : Fld) (b : Bool) : (s.fsetb f b).faults = s.faults := State.fset_faults s _ _
@[simp] theorem State.fsetb_manage (s : State) (f : Fld) (b : Bool) : (s.fsetb f b).manage = s.manage := State.fset_manage s _ _
@[simp] theorem State.fsetb_log (s : State) (f : Fld) (b : Bool) : (s.fsetb f b).log = s.log := State.fset_log s _ _
@[simp] theorem State.fsetb_out (s : State) (f : Fld) (b : Bool) : (s.fsetb f b).out = s.out := State.fset_out s _ _

/-! ### bumpBy -/

@[simp] theorem State.bumpBy_pending (s : State) (f : Fld) (n : Nat) : (s.bumpBy f n).pending = s.pending := State.fset_pending s _ _
@[simp] theorem State.bumpBy_free (s : State) (f : Fld) (n : Nat) : (s.bumpBy f n).free = s.free := State.fset_free s _ _
@[simp] theorem State.bumpBy_dev (s : State) (f : Fld) (n : Nat) : (s.bumpBy f n).dev = s.dev := State.fset_dev s _ _
@[simp] theorem State.bumpBy_latches (s : State) (f : Fld) (n : Nat) : (s.bumpBy f n).latches = s.latches := State.fset_latches s _ _
@[simp] theorem State.bumpBy_time (s : State) (f : Fld) (n : Nat) : (s.bumpBy f n).time = s.time := State.fset_time s _ _
@[simp] theorem State.bumpBy_take (s : State) (f : Fld) (n : Nat) : (s.bumpBy f n).take = s.take := State.fset_take s _ _
@[simp] theorem State.bumpBy_seqs (s : State) (f : Fld) (n : Nat) : (s.bumpBy f n).seqs = s.seqs := State.fset_seqs s _ _
@[simp] theorem State.bumpBy_bundleErr (s : State) (f : Fld) (n : Nat) : (s.bumpBy f n).bundleErr = s.bundleErr := State.fset_bundleErr s _ _
@[simp] theorem State.bumpBy_cores (s : State) (f : Fld) (n : Nat) : (s.bumpBy f n).cores = s.cores := State.fset_cores s _ _
@[simp] theorem State.bumpBy_spad (s : State) (f : Fld) (n : Nat) : (s.bumpBy f n).spad = s.spad := State.fset_spad s _ _
@[simp] theorem State.bumpBy_spadMeta (s : State) (f : Fld) (n : Nat) : (s.bumpBy f n).spadMeta = s.spadMeta := State.fset_spadMeta s _ _
@[simp] theorem State.bumpBy_written (s : State) (f : Fld) (n : Nat) : (s.bumpBy f n).written = s.written := State.fset_written s _ _
@[simp] theorem State.bumpBy_carriedOk (s : State) (f : Fld) (n : Nat) : (s.bumpBy f n).carriedOk = s.carriedOk := State.fset_carriedOk s _ _
@[simp] theorem State.bumpBy_windowCtr (s : State) (f : Fld) (n : Nat) : (s.bumpBy f n).windowCtr = s.windowCtr := State.fset_windowCtr s _ _
@[simp] theorem State.bumpBy_epoch (s : State) (f : Fld) (n : Nat) : (s.bumpBy f n).epoch = s.epoch := State.fset_epoch s _ _
@[simp] theorem State.bumpBy_hbm (s : State) (f : Fld) (n : Nat) : (s.bumpBy f n).hbm = s.hbm := State.fset_hbm s _ _
@[simp] theorem State.bumpBy_hbmMeta (s : State) (f : Fld) (n : Nat) : (s.bumpBy f n).hbmMeta = s.hbmMeta := State.fset_hbmMeta s _ _
@[simp] theorem State.bumpBy_hbmStacks (s : State) (f : Fld) (n : Nat) : (s.bumpBy f n).hbmStacks = s.hbmStacks := State.fset_hbmStacks s _ _
@[simp] theorem State.bumpBy_fetch (s : State) (f : Fld) (n : Nat) : (s.bumpBy f n).fetch = s.fetch := State.fset_fetch s _ _
@[simp] theorem State.bumpBy_links (s : State) (f : Fld) (n : Nat) : (s.bumpBy f n).links = s.links := State.fset_links s _ _
@[simp] theorem State.bumpBy_serve (s : State) (f : Fld) (n : Nat) : (s.bumpBy f n).serve = s.serve := State.fset_serve s _ _
@[simp] theorem State.bumpBy_host (s : State) (f : Fld) (n : Nat) : (s.bumpBy f n).host = s.host := State.fset_host s _ _
@[simp] theorem State.bumpBy_faults (s : State) (f : Fld) (n : Nat) : (s.bumpBy f n).faults = s.faults := State.fset_faults s _ _
@[simp] theorem State.bumpBy_manage (s : State) (f : Fld) (n : Nat) : (s.bumpBy f n).manage = s.manage := State.fset_manage s _ _
@[simp] theorem State.bumpBy_log (s : State) (f : Fld) (n : Nat) : (s.bumpBy f n).log = s.log := State.fset_log s _ _
@[simp] theorem State.bumpBy_out (s : State) (f : Fld) (n : Nat) : (s.bumpBy f n).out = s.out := State.fset_out s _ _

/-! ### bump -/

@[simp] theorem State.bump_pending (s : State) (f : Fld) : (s.bump f).pending = s.pending := State.fset_pending s _ _
@[simp] theorem State.bump_free (s : State) (f : Fld) : (s.bump f).free = s.free := State.fset_free s _ _
@[simp] theorem State.bump_dev (s : State) (f : Fld) : (s.bump f).dev = s.dev := State.fset_dev s _ _
@[simp] theorem State.bump_latches (s : State) (f : Fld) : (s.bump f).latches = s.latches := State.fset_latches s _ _
@[simp] theorem State.bump_time (s : State) (f : Fld) : (s.bump f).time = s.time := State.fset_time s _ _
@[simp] theorem State.bump_take (s : State) (f : Fld) : (s.bump f).take = s.take := State.fset_take s _ _
@[simp] theorem State.bump_seqs (s : State) (f : Fld) : (s.bump f).seqs = s.seqs := State.fset_seqs s _ _
@[simp] theorem State.bump_bundleErr (s : State) (f : Fld) : (s.bump f).bundleErr = s.bundleErr := State.fset_bundleErr s _ _
@[simp] theorem State.bump_cores (s : State) (f : Fld) : (s.bump f).cores = s.cores := State.fset_cores s _ _
@[simp] theorem State.bump_spad (s : State) (f : Fld) : (s.bump f).spad = s.spad := State.fset_spad s _ _
@[simp] theorem State.bump_spadMeta (s : State) (f : Fld) : (s.bump f).spadMeta = s.spadMeta := State.fset_spadMeta s _ _
@[simp] theorem State.bump_written (s : State) (f : Fld) : (s.bump f).written = s.written := State.fset_written s _ _
@[simp] theorem State.bump_carriedOk (s : State) (f : Fld) : (s.bump f).carriedOk = s.carriedOk := State.fset_carriedOk s _ _
@[simp] theorem State.bump_windowCtr (s : State) (f : Fld) : (s.bump f).windowCtr = s.windowCtr := State.fset_windowCtr s _ _
@[simp] theorem State.bump_epoch (s : State) (f : Fld) : (s.bump f).epoch = s.epoch := State.fset_epoch s _ _
@[simp] theorem State.bump_hbm (s : State) (f : Fld) : (s.bump f).hbm = s.hbm := State.fset_hbm s _ _
@[simp] theorem State.bump_hbmMeta (s : State) (f : Fld) : (s.bump f).hbmMeta = s.hbmMeta := State.fset_hbmMeta s _ _
@[simp] theorem State.bump_hbmStacks (s : State) (f : Fld) : (s.bump f).hbmStacks = s.hbmStacks := State.fset_hbmStacks s _ _
@[simp] theorem State.bump_fetch (s : State) (f : Fld) : (s.bump f).fetch = s.fetch := State.fset_fetch s _ _
@[simp] theorem State.bump_links (s : State) (f : Fld) : (s.bump f).links = s.links := State.fset_links s _ _
@[simp] theorem State.bump_serve (s : State) (f : Fld) : (s.bump f).serve = s.serve := State.fset_serve s _ _
@[simp] theorem State.bump_host (s : State) (f : Fld) : (s.bump f).host = s.host := State.fset_host s _ _
@[simp] theorem State.bump_faults (s : State) (f : Fld) : (s.bump f).faults = s.faults := State.fset_faults s _ _
@[simp] theorem State.bump_manage (s : State) (f : Fld) : (s.bump f).manage = s.manage := State.fset_manage s _ _
@[simp] theorem State.bump_log (s : State) (f : Fld) : (s.bump f).log = s.log := State.fset_log s _ _
@[simp] theorem State.bump_out (s : State) (f : Fld) : (s.bump f).out = s.out := State.fset_out s _ _

/-! ### peak -/

@[simp] theorem State.peak_pending (s : State) (f : Fld) (n : Nat) : (s.peak f n).pending = s.pending := State.fset_pending s _ _
@[simp] theorem State.peak_free (s : State) (f : Fld) (n : Nat) : (s.peak f n).free = s.free := State.fset_free s _ _
@[simp] theorem State.peak_dev (s : State) (f : Fld) (n : Nat) : (s.peak f n).dev = s.dev := State.fset_dev s _ _
@[simp] theorem State.peak_latches (s : State) (f : Fld) (n : Nat) : (s.peak f n).latches = s.latches := State.fset_latches s _ _
@[simp] theorem State.peak_time (s : State) (f : Fld) (n : Nat) : (s.peak f n).time = s.time := State.fset_time s _ _
@[simp] theorem State.peak_take (s : State) (f : Fld) (n : Nat) : (s.peak f n).take = s.take := State.fset_take s _ _
@[simp] theorem State.peak_seqs (s : State) (f : Fld) (n : Nat) : (s.peak f n).seqs = s.seqs := State.fset_seqs s _ _
@[simp] theorem State.peak_bundleErr (s : State) (f : Fld) (n : Nat) : (s.peak f n).bundleErr = s.bundleErr := State.fset_bundleErr s _ _
@[simp] theorem State.peak_cores (s : State) (f : Fld) (n : Nat) : (s.peak f n).cores = s.cores := State.fset_cores s _ _
@[simp] theorem State.peak_spad (s : State) (f : Fld) (n : Nat) : (s.peak f n).spad = s.spad := State.fset_spad s _ _
@[simp] theorem State.peak_spadMeta (s : State) (f : Fld) (n : Nat) : (s.peak f n).spadMeta = s.spadMeta := State.fset_spadMeta s _ _
@[simp] theorem State.peak_written (s : State) (f : Fld) (n : Nat) : (s.peak f n).written = s.written := State.fset_written s _ _
@[simp] theorem State.peak_carriedOk (s : State) (f : Fld) (n : Nat) : (s.peak f n).carriedOk = s.carriedOk := State.fset_carriedOk s _ _
@[simp] theorem State.peak_windowCtr (s : State) (f : Fld) (n : Nat) : (s.peak f n).windowCtr = s.windowCtr := State.fset_windowCtr s _ _
@[simp] theorem State.peak_epoch (s : State) (f : Fld) (n : Nat) : (s.peak f n).epoch = s.epoch := State.fset_epoch s _ _
@[simp] theorem State.peak_hbm (s : State) (f : Fld) (n : Nat) : (s.peak f n).hbm = s.hbm := State.fset_hbm s _ _
@[simp] theorem State.peak_hbmMeta (s : State) (f : Fld) (n : Nat) : (s.peak f n).hbmMeta = s.hbmMeta := State.fset_hbmMeta s _ _
@[simp] theorem State.peak_hbmStacks (s : State) (f : Fld) (n : Nat) : (s.peak f n).hbmStacks = s.hbmStacks := State.fset_hbmStacks s _ _
@[simp] theorem State.peak_fetch (s : State) (f : Fld) (n : Nat) : (s.peak f n).fetch = s.fetch := State.fset_fetch s _ _
@[simp] theorem State.peak_links (s : State) (f : Fld) (n : Nat) : (s.peak f n).links = s.links := State.fset_links s _ _
@[simp] theorem State.peak_serve (s : State) (f : Fld) (n : Nat) : (s.peak f n).serve = s.serve := State.fset_serve s _ _
@[simp] theorem State.peak_host (s : State) (f : Fld) (n : Nat) : (s.peak f n).host = s.host := State.fset_host s _ _
@[simp] theorem State.peak_faults (s : State) (f : Fld) (n : Nat) : (s.peak f n).faults = s.faults := State.fset_faults s _ _
@[simp] theorem State.peak_manage (s : State) (f : Fld) (n : Nat) : (s.peak f n).manage = s.manage := State.fset_manage s _ _
@[simp] theorem State.peak_log (s : State) (f : Fld) (n : Nat) : (s.peak f n).log = s.log := State.fset_log s _ _
@[simp] theorem State.peak_out (s : State) (f : Fld) (n : Nat) : (s.peak f n).out = s.out := State.fset_out s _ _

/-! ### Units by number -/

@[simp] theorem State.core_setCore_same (s : State) (k : Nat) (x : Core) : (s.setCore k x).core k = x := mapGet_mapPut_same _ _ _ _

theorem State.core_setCore (s : State) (j k : Nat) (x : Core) : (s.setCore k x).core j = if j = k then x else s.core j :=
  mapGet_mapPut _ _ _ _ _

theorem State.core_setCore_ne (s : State) {j k : Nat} (x : Core) (h : j ≠ k) : (s.setCore k x).core j = s.core j := mapGet_mapPut_ne _ _ _ h

@[simp] theorem State.setReg_core (s : State) (o : Nat) (w : Word) (j : Nat) : (s.setReg o w).core j = s.core j := rfl
@[simp] theorem State.setSeq_core (s : State) (k : Nat) (q : Seq) (j : Nat) : (s.setSeq k q).core j = s.core j := rfl
@[simp] theorem State.setLink_core (s : State) (l : Nat) (k : Link) (j : Nat) : (s.setLink l k).core j = s.core j := rfl
@[simp] theorem State.setStack_core (s : State) (i : Nat) (k : Stack) (j : Nat) : (s.setStack i k).core j = s.core j := rfl
@[simp] theorem State.setCtx_core (s : State) (c : Nat) (x : Ctx) (j : Nat) : (s.setCtx c x).core j = s.core j := rfl
@[simp] theorem State.setTrig_core (s : State) (n : Nat) (t : Trigger) (j : Nat) : (s.setTrig n t).core j = s.core j := rfl
@[simp] theorem State.emit_core (s : State) (o : Out) (j : Nat) : (s.emit o).core j = s.core j := rfl
@[simp] theorem State.fset_core (s : State) (f : Fld) (v : Nat) (j : Nat) : (s.fset f v).core j = s.core j := by
  simp [State.core]
@[simp] theorem State.fsetb_core (s : State) (f : Fld) (b : Bool) (j : Nat) : (s.fsetb f b).core j = s.core j := by
  simp [State.core]
@[simp] theorem State.bumpBy_core (s : State) (f : Fld) (n : Nat) (j : Nat) : (s.bumpBy f n).core j = s.core j := by
  simp [State.core]
@[simp] theorem State.bump_core (s : State) (f : Fld) (j : Nat) : (s.bump f).core j = s.core j := by
  simp [State.core]

@[simp] theorem State.seq_setSeq_same (s : State) (k : Nat) (x : Seq) : (s.setSeq k x).seq k = x := mapGet_mapPut_same _ _ _ _

theorem State.seq_setSeq (s : State) (j k : Nat) (x : Seq) : (s.setSeq k x).seq j = if j = k then x else s.seq j :=
  mapGet_mapPut _ _ _ _ _

theorem State.seq_setSeq_ne (s : State) {j k : Nat} (x : Seq) (h : j ≠ k) : (s.setSeq k x).seq j = s.seq j := mapGet_mapPut_ne _ _ _ h

@[simp] theorem State.setReg_seq (s : State) (o : Nat) (w : Word) (j : Nat) : (s.setReg o w).seq j = s.seq j := rfl
@[simp] theorem State.setCore_seq (s : State) (k : Nat) (c : Core) (j : Nat) : (s.setCore k c).seq j = s.seq j := rfl
@[simp] theorem State.setLink_seq (s : State) (l : Nat) (k : Link) (j : Nat) : (s.setLink l k).seq j = s.seq j := rfl
@[simp] theorem State.setStack_seq (s : State) (i : Nat) (k : Stack) (j : Nat) : (s.setStack i k).seq j = s.seq j := rfl
@[simp] theorem State.setCtx_seq (s : State) (c : Nat) (x : Ctx) (j : Nat) : (s.setCtx c x).seq j = s.seq j := rfl
@[simp] theorem State.setTrig_seq (s : State) (n : Nat) (t : Trigger) (j : Nat) : (s.setTrig n t).seq j = s.seq j := rfl
@[simp] theorem State.emit_seq (s : State) (o : Out) (j : Nat) : (s.emit o).seq j = s.seq j := rfl
@[simp] theorem State.fset_seq (s : State) (f : Fld) (v : Nat) (j : Nat) : (s.fset f v).seq j = s.seq j := by
  simp [State.seq]
@[simp] theorem State.fsetb_seq (s : State) (f : Fld) (b : Bool) (j : Nat) : (s.fsetb f b).seq j = s.seq j := by
  simp [State.seq]
@[simp] theorem State.bumpBy_seq (s : State) (f : Fld) (n : Nat) (j : Nat) : (s.bumpBy f n).seq j = s.seq j := by
  simp [State.seq]
@[simp] theorem State.bump_seq (s : State) (f : Fld) (j : Nat) : (s.bump f).seq j = s.seq j := by
  simp [State.seq]

@[simp] theorem State.link_setLink_same (s : State) (k : Nat) (x : Link) : (s.setLink k x).link k = x := mapGet_mapPut_same _ _ _ _

theorem State.link_setLink (s : State) (j k : Nat) (x : Link) : (s.setLink k x).link j = if j = k then x else s.link j :=
  mapGet_mapPut _ _ _ _ _

theorem State.link_setLink_ne (s : State) {j k : Nat} (x : Link) (h : j ≠ k) : (s.setLink k x).link j = s.link j := mapGet_mapPut_ne _ _ _ h

@[simp] theorem State.setReg_link (s : State) (o : Nat) (w : Word) (j : Nat) : (s.setReg o w).link j = s.link j := rfl
@[simp] theorem State.setCore_link (s : State) (k : Nat) (c : Core) (j : Nat) : (s.setCore k c).link j = s.link j := rfl
@[simp] theorem State.setSeq_link (s : State) (k : Nat) (q : Seq) (j : Nat) : (s.setSeq k q).link j = s.link j := rfl
@[simp] theorem State.setStack_link (s : State) (i : Nat) (k : Stack) (j : Nat) : (s.setStack i k).link j = s.link j := rfl
@[simp] theorem State.setCtx_link (s : State) (c : Nat) (x : Ctx) (j : Nat) : (s.setCtx c x).link j = s.link j := rfl
@[simp] theorem State.setTrig_link (s : State) (n : Nat) (t : Trigger) (j : Nat) : (s.setTrig n t).link j = s.link j := rfl
@[simp] theorem State.emit_link (s : State) (o : Out) (j : Nat) : (s.emit o).link j = s.link j := rfl
@[simp] theorem State.fset_link (s : State) (f : Fld) (v : Nat) (j : Nat) : (s.fset f v).link j = s.link j := by
  simp [State.link]
@[simp] theorem State.fsetb_link (s : State) (f : Fld) (b : Bool) (j : Nat) : (s.fsetb f b).link j = s.link j := by
  simp [State.link]
@[simp] theorem State.bumpBy_link (s : State) (f : Fld) (n : Nat) (j : Nat) : (s.bumpBy f n).link j = s.link j := by
  simp [State.link]
@[simp] theorem State.bump_link (s : State) (f : Fld) (j : Nat) : (s.bump f).link j = s.link j := by
  simp [State.link]

@[simp] theorem State.stack_setStack_same (s : State) (k : Nat) (x : Stack) : (s.setStack k x).stack k = x := mapGet_mapPut_same _ _ _ _

theorem State.stack_setStack (s : State) (j k : Nat) (x : Stack) : (s.setStack k x).stack j = if j = k then x else s.stack j :=
  mapGet_mapPut _ _ _ _ _

theorem State.stack_setStack_ne (s : State) {j k : Nat} (x : Stack) (h : j ≠ k) : (s.setStack k x).stack j = s.stack j := mapGet_mapPut_ne _ _ _ h

@[simp] theorem State.setReg_stack (s : State) (o : Nat) (w : Word) (j : Nat) : (s.setReg o w).stack j = s.stack j := rfl
@[simp] theorem State.setCore_stack (s : State) (k : Nat) (c : Core) (j : Nat) : (s.setCore k c).stack j = s.stack j := rfl
@[simp] theorem State.setSeq_stack (s : State) (k : Nat) (q : Seq) (j : Nat) : (s.setSeq k q).stack j = s.stack j := rfl
@[simp] theorem State.setLink_stack (s : State) (l : Nat) (k : Link) (j : Nat) : (s.setLink l k).stack j = s.stack j := rfl
@[simp] theorem State.setCtx_stack (s : State) (c : Nat) (x : Ctx) (j : Nat) : (s.setCtx c x).stack j = s.stack j := rfl
@[simp] theorem State.setTrig_stack (s : State) (n : Nat) (t : Trigger) (j : Nat) : (s.setTrig n t).stack j = s.stack j := rfl
@[simp] theorem State.emit_stack (s : State) (o : Out) (j : Nat) : (s.emit o).stack j = s.stack j := rfl
@[simp] theorem State.fset_stack (s : State) (f : Fld) (v : Nat) (j : Nat) : (s.fset f v).stack j = s.stack j := by
  simp [State.stack]
@[simp] theorem State.fsetb_stack (s : State) (f : Fld) (b : Bool) (j : Nat) : (s.fsetb f b).stack j = s.stack j := by
  simp [State.stack]
@[simp] theorem State.bumpBy_stack (s : State) (f : Fld) (n : Nat) (j : Nat) : (s.bumpBy f n).stack j = s.stack j := by
  simp [State.stack]
@[simp] theorem State.bump_stack (s : State) (f : Fld) (j : Nat) : (s.bump f).stack j = s.stack j := by
  simp [State.stack]

@[simp] theorem State.ctx_setCtx_same (s : State) (k : Nat) (x : Ctx) : (s.setCtx k x).ctx k = x := mapGet_mapPut_same _ _ _ _

theorem State.ctx_setCtx (s : State) (j k : Nat) (x : Ctx) : (s.setCtx k x).ctx j = if j = k then x else s.ctx j :=
  mapGet_mapPut _ _ _ _ _

theorem State.ctx_setCtx_ne (s : State) {j k : Nat} (x : Ctx) (h : j ≠ k) : (s.setCtx k x).ctx j = s.ctx j := mapGet_mapPut_ne _ _ _ h

@[simp] theorem State.setReg_ctx (s : State) (o : Nat) (w : Word) (j : Nat) : (s.setReg o w).ctx j = s.ctx j := rfl
@[simp] theorem State.setCore_ctx (s : State) (k : Nat) (c : Core) (j : Nat) : (s.setCore k c).ctx j = s.ctx j := rfl
@[simp] theorem State.setSeq_ctx (s : State) (k : Nat) (q : Seq) (j : Nat) : (s.setSeq k q).ctx j = s.ctx j := rfl
@[simp] theorem State.setLink_ctx (s : State) (l : Nat) (k : Link) (j : Nat) : (s.setLink l k).ctx j = s.ctx j := rfl
@[simp] theorem State.setStack_ctx (s : State) (i : Nat) (k : Stack) (j : Nat) : (s.setStack i k).ctx j = s.ctx j := rfl
@[simp] theorem State.setTrig_ctx (s : State) (n : Nat) (t : Trigger) (j : Nat) : (s.setTrig n t).ctx j = s.ctx j := rfl
@[simp] theorem State.emit_ctx (s : State) (o : Out) (j : Nat) : (s.emit o).ctx j = s.ctx j := rfl
@[simp] theorem State.fset_ctx (s : State) (f : Fld) (v : Nat) (j : Nat) : (s.fset f v).ctx j = s.ctx j := by
  simp [State.ctx]
@[simp] theorem State.fsetb_ctx (s : State) (f : Fld) (b : Bool) (j : Nat) : (s.fsetb f b).ctx j = s.ctx j := by
  simp [State.ctx]
@[simp] theorem State.bumpBy_ctx (s : State) (f : Fld) (n : Nat) (j : Nat) : (s.bumpBy f n).ctx j = s.ctx j := by
  simp [State.ctx]
@[simp] theorem State.bump_ctx (s : State) (f : Fld) (j : Nat) : (s.bump f).ctx j = s.ctx j := by
  simp [State.ctx]

@[simp] theorem State.trig_setTrig_same (s : State) (k : Nat) (x : Trigger) : (s.setTrig k x).trig k = x := mapGet_mapPut_same _ _ _ _

theorem State.trig_setTrig (s : State) (j k : Nat) (x : Trigger) : (s.setTrig k x).trig j = if j = k then x else s.trig j :=
  mapGet_mapPut _ _ _ _ _

theorem State.trig_setTrig_ne (s : State) {j k : Nat} (x : Trigger) (h : j ≠ k) : (s.setTrig k x).trig j = s.trig j := mapGet_mapPut_ne _ _ _ h

@[simp] theorem State.setReg_trig (s : State) (o : Nat) (w : Word) (j : Nat) : (s.setReg o w).trig j = s.trig j := rfl
@[simp] theorem State.setCore_trig (s : State) (k : Nat) (c : Core) (j : Nat) : (s.setCore k c).trig j = s.trig j := rfl
@[simp] theorem State.setSeq_trig (s : State) (k : Nat) (q : Seq) (j : Nat) : (s.setSeq k q).trig j = s.trig j := rfl
@[simp] theorem State.setLink_trig (s : State) (l : Nat) (k : Link) (j : Nat) : (s.setLink l k).trig j = s.trig j := rfl
@[simp] theorem State.setStack_trig (s : State) (i : Nat) (k : Stack) (j : Nat) : (s.setStack i k).trig j = s.trig j := rfl
@[simp] theorem State.setCtx_trig (s : State) (c : Nat) (x : Ctx) (j : Nat) : (s.setCtx c x).trig j = s.trig j := rfl
@[simp] theorem State.emit_trig (s : State) (o : Out) (j : Nat) : (s.emit o).trig j = s.trig j := rfl
@[simp] theorem State.fset_trig (s : State) (f : Fld) (v : Nat) (j : Nat) : (s.fset f v).trig j = s.trig j := by
  simp [State.trig]
@[simp] theorem State.fsetb_trig (s : State) (f : Fld) (b : Bool) (j : Nat) : (s.fsetb f b).trig j = s.trig j := by
  simp [State.trig]
@[simp] theorem State.bumpBy_trig (s : State) (f : Fld) (n : Nat) (j : Nat) : (s.bumpBy f n).trig j = s.trig j := by
  simp [State.trig]
@[simp] theorem State.bump_trig (s : State) (f : Fld) (j : Nat) : (s.bump f).trig j = s.trig j := by
  simp [State.trig]

end Sys2Proof.Machine
end

