-- ==== Sys2Proof/Laws/Registers.lean ====
section
/-! SUPPORT. Register fields: what a read gives after a write of the same field, and that other fields keep their values. -/

namespace Sys2Proof.Machine

/-! ## Bit fields of a number -/

theorem bitsOf_lt (hi lo n : Nat) : bitsOf hi lo n < 2 ^ (hi + 1 - lo) := Nat.mod_lt _ (Nat.two_pow_pos _)

/-- A word as the part below a field, the field, and the part above it. -/
theorem split_field (hi lo n : Nat) (h : lo ≤ hi) :
    n = n % 2 ^ lo + bitsOf hi lo n * 2 ^ lo + n / 2 ^ (hi + 1) * 2 ^ (hi + 1) := by
  have e : (2 : Nat) ^ (hi + 1) = 2 ^ lo * 2 ^ (hi + 1 - lo) := by rw [← Nat.pow_add]; congr 1; omega
  have h1 := Nat.div_add_mod n (2 ^ lo)
  have h2 := Nat.div_add_mod (n / 2 ^ lo) (2 ^ (hi + 1 - lo))
  rw [Nat.div_div_eq_div_mul, ← e] at h2
  unfold bitsOf
  conv_lhs => rw [← h1, ← h2]
  rw [e]
  ring

/-- The number that replacing a field gives. -/
def putField (hi lo v n : Nat) : Nat := n % 2 ^ lo + v % 2 ^ (hi + 1 - lo) * 2 ^ lo + n / 2 ^ (hi + 1) * 2 ^ (hi + 1)

theorem putField_low (hi lo v n : Nat) (h : lo ≤ hi) : putField hi lo v n % 2 ^ lo = n % 2 ^ lo := by
  have e : (2 : Nat) ^ (hi + 1) = 2 ^ lo * 2 ^ (hi + 1 - lo) := by rw [← Nat.pow_add]; congr 1; omega
  have e2 : putField hi lo v n = n % 2 ^ lo + 2 ^ lo * (v % 2 ^ (hi + 1 - lo) + n / 2 ^ (hi + 1) * 2 ^ (hi + 1 - lo)) := by
    rw [putField, e]; ring
  rw [e2, Nat.add_mul_mod_self_left, Nat.mod_mod]

theorem putField_mid (hi lo v n : Nat) (h : lo ≤ hi) : bitsOf hi lo (putField hi lo v n) = v % 2 ^ (hi + 1 - lo) := by
  have e : (2 : Nat) ^ (hi + 1) = 2 ^ lo * 2 ^ (hi + 1 - lo) := by rw [← Nat.pow_add]; congr 1; omega
  have e2 : putField hi lo v n = n % 2 ^ lo + 2 ^ lo * (v % 2 ^ (hi + 1 - lo) + 2 ^ (hi + 1 - lo) * (n / 2 ^ (hi + 1))) := by
    rw [putField, e]; ring
  have hlt : n % 2 ^ lo < 2 ^ lo := Nat.mod_lt _ (Nat.two_pow_pos _)
  rw [bitsOf, e2, Nat.add_mul_div_left _ _ (Nat.two_pow_pos _), Nat.div_eq_of_lt hlt, Nat.zero_add, Nat.add_mul_mod_self_left,
    Nat.mod_mod]

theorem putField_high (hi lo v n : Nat) (h : lo ≤ hi) : putField hi lo v n / 2 ^ (hi + 1) = n / 2 ^ (hi + 1) := by
  have e : (2 : Nat) ^ (hi + 1) = 2 ^ lo * 2 ^ (hi + 1 - lo) := by rw [← Nat.pow_add]; congr 1; omega
  have hlt : n % 2 ^ lo + v % 2 ^ (hi + 1 - lo) * 2 ^ lo < 2 ^ (hi + 1) := by
    have a := Nat.mod_lt n (Nat.two_pow_pos lo)
    have b := Nat.mod_lt v (Nat.two_pow_pos (hi + 1 - lo))
    calc n % 2 ^ lo + v % 2 ^ (hi + 1 - lo) * 2 ^ lo < 2 ^ lo + v % 2 ^ (hi + 1 - lo) * 2 ^ lo := by omega
      _ = (v % 2 ^ (hi + 1 - lo) + 1) * 2 ^ lo := by ring
      _ ≤ 2 ^ (hi + 1 - lo) * 2 ^ lo := Nat.mul_le_mul_right _ b
      _ = 2 ^ (hi + 1) := by rw [e, Nat.mul_comm]
  rw [putField, Nat.add_mul_div_right _ _ (Nat.two_pow_pos _), Nat.div_eq_of_lt hlt, Nat.zero_add]

theorem putField_lt (hi lo v n : Nat) (h : lo ≤ hi) (hi32 : hi < 32) (hn : n < 2 ^ 32) : putField hi lo v n < 2 ^ 32 := by
  have e : (2 : Nat) ^ 32 = 2 ^ (hi + 1) * 2 ^ (31 - hi) := by rw [← Nat.pow_add]; congr 1; omega
  have h1 := putField_high hi lo v n h
  have h2 : n / 2 ^ (hi + 1) < 2 ^ (31 - hi) := Nat.div_lt_of_lt_mul (by rw [← e]; exact hn)
  rw [e, Nat.mul_comm]
  exact (Nat.div_lt_iff_lt_mul (Nat.two_pow_pos _)).mp (h1 ▸ h2)

theorem setBits_toNat (w : Word) (hi lo v : Nat) (h : lo ≤ hi) (hi32 : hi < 32) :
    (setBits w hi lo v).toNat = putField hi lo v w.toNat := by
  have hw := w.isLt
  have hs := split_field hi lo w.toNat h
  have e : w.toNat - bitsOf hi lo w.toNat * 2 ^ lo + v % 2 ^ (hi + 1 - lo) * 2 ^ lo = putField hi lo v w.toNat := by
    unfold putField
    omega
  rw [setBits, BitVec.toNat_ofNat, e]
  exact Nat.mod_eq_of_lt (putField_lt hi lo v _ h hi32 hw)

/-- A field that was written reads as the value, cut to its width. -/
theorem bitsOf_setBits_same (w : Word) (hi lo v : Nat) (h : lo ≤ hi) (hi32 : hi < 32) :
    bitsOf hi lo (setBits w hi lo v).toNat = v % 2 ^ (hi + 1 - lo) := by
  rw [setBits_toNat w hi lo v h hi32, putField_mid hi lo v _ h]

/-- A field below or above the one written keeps its value. -/
theorem bitsOf_setBits_ne (w : Word) (hi lo v hi' lo' : Nat) (h : lo ≤ hi) (hi32 : hi < 32) (h' : hi' < lo ∨ hi < lo')
    (hl : lo' ≤ hi') : bitsOf hi' lo' (setBits w hi lo v).toNat = bitsOf hi' lo' w.toNat := by
  rw [setBits_toNat w hi lo v h hi32]
  rcases h' with h' | h'
  · have key : ∀ n, bitsOf hi' lo' n = bitsOf hi' lo' (n % 2 ^ lo) := by
      intro n
      have e : (2 : Nat) ^ lo = 2 ^ lo' * 2 ^ (lo - lo') := by rw [← Nat.pow_add]; congr 1; omega
      have e2 : (2 : Nat) ^ (hi' + 1 - lo') ∣ 2 ^ (lo - lo') := Nat.pow_dvd_pow 2 (by omega)
      unfold bitsOf
      rw [e, Nat.mod_mul_right_div_self, Nat.mod_mod_of_dvd _ e2]
    rw [key, putField_low hi lo v _ h, ← key]
  · have key : ∀ n, bitsOf hi' lo' n = (n / 2 ^ (hi + 1)) / 2 ^ (lo' - (hi + 1)) % 2 ^ (hi' + 1 - lo') := by
      intro n
      unfold bitsOf
      rw [Nat.div_div_eq_div_mul, ← Nat.pow_add]
      congr 3; omega
    rw [key, putField_high hi lo v _ h, ← key]

/-! ## Registers -/

theorem State.reg_setReg (s : State) (a o : Nat) (w : Word) : (s.setReg o w).reg a = if a = o then w else s.reg a :=
  mapGet_mapPut _ _ _ _ _

@[simp] theorem State.reg_setReg_same (s : State) (o : Nat) (w : Word) : (s.setReg o w).reg o = w := mapGet_mapPut_same _ _ _ _

theorem State.reg_setReg_ne (s : State) {a o : Nat} (w : Word) (h : a ≠ o) : (s.setReg o w).reg a = s.reg a :=
  mapGet_mapPut_ne _ _ _ h

/-- A register reads the same in two states with the same registers. -/
theorem State.fget_congr {s t : State} (f : Fld) (h : s.regs = t.regs) : s.fget f = t.fget f := by
  have hq : ∀ n off, s.quantity off n = t.quantity off n := by
    intro n
    induction n with
    | zero => intro off; rfl
    | succ n ih => intro off; simp [State.quantity, State.reg, h, ih]
  simp [State.fget, hq]

/-- A field of one word. -/
def Fld.oneWord (f : Fld) : Bool := decide (f.lo ≤ f.hi) && decide (f.hi < 32)

theorem State.fget_oneWord (s : State) {f : Fld} (h : f.oneWord = true) : s.fget f = bitsOf f.hi f.lo (s.reg f.off).toNat := by
  simp only [Fld.oneWord, Bool.and_eq_true, decide_eq_true_eq] at h
  have e : f.hi / 32 = 0 := by omega
  simp [State.fget, e, State.quantity]

theorem State.fset_oneWord (s : State) {f : Fld} (h : f.oneWord = true) (v : Nat) :
    s.fset f v = s.setReg f.off (setBits (s.reg f.off) f.hi f.lo v) := by
  simp only [Fld.oneWord, Bool.and_eq_true, decide_eq_true_eq] at h
  have e : f.hi / 32 = 0 := by omega
  have e2 : f.lo / 32 = 0 := by omega
  have e3 : min f.hi 31 = f.hi := by omega
  simp [State.fset, e, e2, State.fsetFrom, e3]

/-- A field of one word reads as it was written, cut to its width. -/
theorem State.fget_fset_same (s : State) {f : Fld} (h : f.oneWord = true) (v : Nat) :
    (s.fset f v).fget f = v % 2 ^ (f.hi + 1 - f.lo) := by
  rw [State.fget_oneWord _ h, State.fset_oneWord _ h, State.reg_setReg_same]
  simp only [Fld.oneWord, Bool.and_eq_true, decide_eq_true_eq] at h
  exact bitsOf_setBits_same _ _ _ _ h.1 h.2

/-- Whether two fields of one word have no bit in common. -/
def Fld.apart (f g : Fld) : Bool := decide (f.off ≠ g.off) || decide (f.hi < g.lo) || decide (g.hi < f.lo)

/-- A field keeps its value when a field apart from it is written. -/
theorem State.fget_fset_apart (s : State) {f g : Fld} (hf : f.oneWord = true) (hg : g.oneWord = true) (h : f.apart g = true)
    (v : Nat) : (s.fset g v).fget f = s.fget f := by
  rw [State.fget_oneWord _ hf, State.fget_oneWord _ hf, State.fset_oneWord _ hg]
  by_cases e : f.off = g.off
  · rw [e, State.reg_setReg_same]
    simp only [Fld.oneWord, Bool.and_eq_true, decide_eq_true_eq] at hf hg
    simp only [Fld.apart, e, ne_eq, not_true_eq_false, decide_false, Bool.false_or, Bool.or_eq_true, decide_eq_true_eq] at h
    exact bitsOf_setBits_ne _ _ _ _ _ _ hg.1 hg.2 h hf.1
  · rw [State.reg_setReg_ne _ _ e]

/-- A one-bit field reads as it was written. -/
theorem State.flag_fsetb_same (s : State) {f : Fld} (h : f.oneWord = true) (b : Bool) : (s.fsetb f b).flag f = b := by
  have hw := h
  simp only [Fld.oneWord, Bool.and_eq_true, decide_eq_true_eq] at hw
  unfold State.flag State.fsetb
  rw [State.fget_fset_same _ h]
  have h2 : 1 < 2 ^ (f.hi + 1 - f.lo) := Nat.one_lt_two_pow (by omega)
  cases b
  · simp [b2n]
  · simp [b2n, Nat.mod_eq_of_lt h2]

theorem State.fget_fsetb_apart (s : State) {f g : Fld} (hf : f.oneWord = true) (hg : g.oneWord = true) (h : f.apart g = true)
    (b : Bool) : (s.fsetb g b).fget f = s.fget f := s.fget_fset_apart hf hg h _

theorem State.flag_fset_apart (s : State) {f g : Fld} (hf : f.oneWord = true) (hg : g.oneWord = true) (h : f.apart g = true)
    (v : Nat) : (s.fset g v).flag f = s.flag f := by
  unfold State.flag; rw [State.fget_fset_apart s hf hg h]

/-! ## Quantities of several words -/

theorem State.quantity_congr (s t : State) (off : Nat) : ∀ n, (∀ i, i < n → s.reg (off + 4 * i) = t.reg (off + 4 * i)) →
    s.quantity off n = t.quantity off n := by
  intro n
  induction n generalizing off with
  | zero => intro _; rfl
  | succ n ih =>
    intro h
    have h0 := h 0 (by omega)
    have h1 := ih (off + 4) (fun i hi => by have := h (i + 1) (by omega); rwa [show off + 4 * (i + 1) = off + 4 + 4 * i by ring] at this)
    simp only [Nat.mul_zero, Nat.add_zero] at h0
    simp only [State.quantity, h0, h1]

theorem State.reg_fsetFrom (f : Fld) (v a : Nat) (ha : a < f.off ∨ f.off + 4 * (f.hi / 32) < a) :
    ∀ (n : Nat) (s : State), (s.fsetFrom f v n).reg a = s.reg a := by
  intro n
  induction n with
  | zero => intro s; rfl
  | succ n ih =>
    intro s
    simp only [State.fsetFrom]
    rw [ih, State.reg_setReg_ne]
    omega

/-- A word outside a field's words keeps its value. -/
theorem State.reg_fset (s : State) (f : Fld) (v a : Nat) (ha : a < f.off ∨ f.off + 4 * (f.hi / 32) < a) :
    (s.fset f v).reg a = s.reg a := State.reg_fsetFrom f v a ha _ s

/-- Whether two fields have no word in common. -/
def Fld.wordsApart (f g : Fld) : Bool := decide (g.off + 4 * (g.hi / 32) < f.off) || decide (f.off + 4 * (f.hi / 32) < g.off)

/-- A field keeps its value when a field of other words is written. -/
theorem State.fget_fset_words (s : State) {f g : Fld} (h : f.wordsApart g = true) (v : Nat) : (s.fset g v).fget f = s.fget f := by
  simp only [Fld.wordsApart, Bool.or_eq_true, decide_eq_true_eq] at h
  unfold State.fget
  rw [State.quantity_congr _ s]
  intro i hi
  apply State.reg_fset
  omega

/-- A 64-bit quantity reads as it was written, modulo 2^64. -/
theorem State.fget_fset_64 (s : State) (off v : Nat) : (s.fset ⟨off, 63, 0⟩ v).fget ⟨off, 63, 0⟩ = v % 2 ^ 64 := by
  have h0 := bitsOf_setBits_same (s.reg off) 31 0 v (by decide) (by decide)
  have h1 := bitsOf_setBits_same ((s.setReg off (setBits (s.reg off) 31 0 v)).reg (off + 4)) 31 0 (v / 2 ^ 32) (by decide) (by decide)
  have full : ∀ w : Word, bitsOf 31 0 w.toNat = w.toNat := by
    intro w; have := w.isLt; simp only [bitsOf]; omega
  rw [full] at h0 h1
  have e : s.fset ⟨off, 63, 0⟩ v = (s.setReg off (setBits (s.reg off) 31 0 v)).setReg (off + 4)
      (setBits ((s.setReg off (setBits (s.reg off) 31 0 v)).reg (off + 4)) 31 0 (v / 2 ^ 32)) := by
    simp [State.fset, State.fsetFrom]
  rw [e]
  simp only [State.fget, State.quantity, State.reg_setReg_same]
  rw [State.reg_setReg_ne _ _ (by omega), State.reg_setReg_same]
  rw [h0, h1]
  simp only [bitsOf]
  omega

/-! ## The registers keep their canonical form -/

theorem State.setReg_wf (s : State) (o : Nat) (w : Word) (h : mapWf resetWord s.regs = true) :
    mapWf resetWord (s.setReg o w).regs = true := mapWf_mapPut _ _ _ _ h

theorem State.fset_wf (s : State) (f : Fld) (v : Nat) (h : mapWf resetWord s.regs = true) :
    mapWf resetWord (s.fset f v).regs = true := by
  have key : ∀ n (s : State), mapWf resetWord s.regs = true → mapWf resetWord (s.fsetFrom f v n).regs = true := by
    intro n
    induction n with
    | zero => intro s h; exact h
    | succ n ih => intro s h; exact ih _ (State.setReg_wf _ _ _ h)
  exact key _ s h

end Sys2Proof.Machine
end

