-- ==== Sys2Proof/Laws/Faults.lean ====
section
/-! SUPPORT. What logging, fault records, hold requests and halts change: registers, the log, the fault queue, what goes out, plan
time's holds, the device state, the packets of a proxied device's interrupt, and nothing else. -/

namespace Sys2Proof.Machine

/-- `t` differs from `s` at most in the device state, registers, the timebase, the fault collector, the log, what goes out and the
packets that wait for a link or a path. -/
def Quiet (s t : State) : Prop :=
  t = { s with dev := t.dev, regs := t.regs, time := t.time, faults := t.faults, log := t.log, out := t.out, links := t.links,
               take := { s.take with vc0Held := t.take.vc0Held, vc0Last := t.take.vc0Last } }

namespace Quiet

theorem ite {s a b : State} {c : Prop} [Decidable c] (h1 : Quiet s a) (h2 : Quiet s b) : Quiet s (if c then a else b) := by
  split
  · exact h1
  · exact h2

theorem refl (s : State) : Quiet s s := rfl

theorem trans {s t u : State} (h : Quiet s t) (h' : Quiet t u) : Quiet s u := by
  unfold Quiet at *
  rw [h'] 
  rw [h]

theorem cores {s t : State} (h : Quiet s t) : t.cores = s.cores := by rw [h]
theorem seqs {s t : State} (h : Quiet s t) : t.seqs = s.seqs := by rw [h]
theorem take {s t : State} (h : Quiet s t) : t.take = { s.take with vc0Held := t.take.vc0Held, vc0Last := t.take.vc0Last } := by
  rw [h]
theorem active {s t : State} (h : Quiet s t) : t.take.active = s.take.active := by rw [h]
theorem spad {s t : State} (h : Quiet s t) : t.spad = s.spad := by rw [h]
theorem spadMeta {s t : State} (h : Quiet s t) : t.spadMeta = s.spadMeta := by rw [h]
theorem hbm {s t : State} (h : Quiet s t) : t.hbm = s.hbm := by rw [h]
theorem hbmMeta {s t : State} (h : Quiet s t) : t.hbmMeta = s.hbmMeta := by rw [h]
theorem written {s t : State} (h : Quiet s t) : t.written = s.written := by rw [h]
theorem epoch {s t : State} (h : Quiet s t) : t.epoch = s.epoch := by rw [h]
theorem free {s t : State} (h : Quiet s t) : t.free = s.free := by rw [h]
theorem pending {s t : State} (h : Quiet s t) : t.pending = s.pending := by rw [h]
theorem serve {s t : State} (h : Quiet s t) : t.serve = s.serve := by rw [h]
theorem host {s t : State} (h : Quiet s t) : t.host = s.host := by rw [h]
theorem manage {s t : State} (h : Quiet s t) : t.manage = s.manage := by rw [h]
theorem hbmStacks {s t : State} (h : Quiet s t) : t.hbmStacks = s.hbmStacks := by rw [h]
theorem core {s t : State} (h : Quiet s t) (k : Nat) : t.core k = s.core k := by unfold State.core; rw [h.cores]
theorem seq {s t : State} (h : Quiet s t) (k : Nat) : t.seq k = s.seq k := by unfold State.seq; rw [h.seqs]

end Quiet

/-! ## The pieces -/

theorem State.setReg_quiet (s : State) (o : Nat) (w : Word) : Quiet s (s.setReg o w) := rfl

theorem State.fset_quiet (s : State) (f : Fld) (v : Nat) : Quiet s (s.fset f v) := by
  obtain ⟨r, h⟩ := s.fset_eq f v
  rw [h]; rfl

theorem State.fsetb_quiet (s : State) (f : Fld) (b : Bool) : Quiet s (s.fsetb f b) := s.fset_quiet f _

theorem State.bump_quiet (s : State) (f : Fld) : Quiet s (s.bump f) := s.fset_quiet f _

theorem State.emit_quiet (s : State) (o : Out) : Quiet s (s.emit o) := rfl

theorem State.setDieLog_quiet (s : State) (d : Nat) (l : DieLog) : Quiet s (s.setDieLog d l) := by
  unfold State.setDieLog; split <;> rfl

theorem State.logOn_quiet (s : State) (d ev cls kind unit detail : Nat) : Quiet s (s.logOn d ev cls kind unit detail) := by
  unfold State.logOn
  dsimp only
  split
  · exact s.setDieLog_quiet _ _
  · split
    · split <;> exact s.setDieLog_quiet _ _
    · exact s.setDieLog_quiet _ _

theorem State.logEvent_quiet (s : State) (ev cls kind unit detail : Nat) : Quiet s (s.logEvent ev cls kind unit detail) :=
  s.logOn_quiet _ _ _ _ _ _

theorem State.notice_quiet (s : State) (rule about : Nat) : Quiet s (s.notice rule about) :=
  (s.bump_quiet _).trans (State.logEvent_quiet _ _ _ _ _ _)

theorem State.setDev_quiet (s : State) (d : DevState) : Quiet s (s.setDev d) := by
  unfold State.setDev
  split
  · exact Quiet.refl s
  · refine Quiet.trans (s.logEvent_quiet 0x83 0 0 0 (s.dev.code * 16 + d.code)) ?_
    rfl

@[simp] theorem State.setDev_dev (s : State) (d : DevState) : (s.setDev d).dev = d := by
  unfold State.setDev
  split
  · next h => exact h
  · rfl

theorem State.emitAll_quiet (f : Nat → Out) : ∀ (ls : List Nat) (s : State), Quiet s (s.emitAll f ls)
  | [], s => Quiet.refl s
  | l :: ls, s => (s.emit_quiet (f l)).trans (State.emitAll_quiet f ls _)

theorem State.emitHold_quiet (s : State) (take : Nat) (g : Int) (frames reason origin : Nat) (ls : List Nat) :
    Quiet s (s.emitHold take g frames reason origin ls) :=
  ((State.emitAll_quiet _ _ _).trans (State.emitAll_quiet _ _ _)).trans (State.emitAll_quiet _ _ _)

theorem State.placeMarker_quiet (s : State) (g : Int) (frames reason : Nat) : Quiet s (s.placeMarker g frames reason) := by
  unfold State.placeMarker
  generalize mergeGate s.time.gates s.planNow g frames reason = x
  obtain ⟨m, gs⟩ := x
  refine Quiet.trans ?_ (State.emitHold_quiet _ _ _ _ _ _ _)
  dsimp only
  generalize hu : ({ s with time.gates := gs } : State) = u
  have h1 : Quiet s u := by rw [← hu]; rfl
  generalize hv : (if m = Merge.full ∨ m = Merge.late then u.fsetb Reg.TB_HOLD_REASON_LATEMARK true else u) = v
  have h2 : Quiet s v := by rw [← hv]; exact (h1.trans (u.fsetb_quiet _ _)).ite h1
  exact Quiet.ite (h2.trans rfl) h2

theorem State.record_quiet (s : State) (src kind unit detail : Nat) : Quiet s (s.record src kind unit detail) := by
  unfold State.record
  have h0 : Quiet s ((s.bump (Reg.FC_COUNT_COUNT (sourceClass src))).logEvent src (sourceClass src) kind unit detail) :=
    (s.bump_quiet _).trans (State.logEvent_quiet _ _ _ _ _ _)
  dsimp only
  generalize (s.bump (Reg.FC_COUNT_COUNT (sourceClass src))).logEvent src (sourceClass src) kind unit detail = u at h0 ⊢
  refine Quiet.ite h0 ?_
  generalize hv : (u.emit _).fset _ _ = v
  have h1 : Quiet s v := by rw [← hv]; exact (h0.trans (u.emit_quiet _)).trans (State.fset_quiet _ _ _)
  exact Quiet.ite (h1.trans (v.fset_quiet _ _)) h1

theorem State.enterFailed_quiet (s : State) : Quiet s s.enterFailed := by
  unfold State.enterFailed
  split
  · exact Quiet.refl s
  · refine Quiet.trans ?_ (State.emitAll_quiet _ _ _)
    exact (s.setDev_quiet .failed).trans rfl

theorem State.sendVc0_quiet (s : State) (p : Packet) (path : Nat × Nat × Nat) : Quiet s (s.sendVc0 p path) := by
  unfold State.sendVc0
  split
  · rfl
  · rfl

theorem State.sendEach_quiet (path : Nat × Nat × Nat) :
    ∀ (ps : List Packet) (s : State), Quiet s (ps.foldl (fun s p => s.sendVc0 p path) s)
  | [], s => Quiet.refl s
  | p :: ps, s => (s.sendVc0_quiet p path).trans (State.sendEach_quiet path ps _)

theorem State.sendVc0s_quiet (s : State) (ps : List Packet) : Quiet s (s.sendVc0s ps) := by
  unfold State.sendVc0s
  cases ps with
  | nil => exact Quiet.refl s
  | cons p ps =>
    dsimp only
    split
    · exact s.notice_quiet _ _
    · exact State.sendEach_quiet _ _ _

/-- A packet without data on VC0 under the default label. -/
theorem State.sendDefault_quiet (s : State) (pkind dest addr : Nat) : Quiet s (s.sendDefault 0 pkind dest addr [] []) := by
  unfold State.sendDefault
  dsimp only [State.freeBytes]
  rw [if_pos rfl]
  exact State.sendVc0s_quiet s _

theorem State.hostIrq_quiet (s : State) (v : Nat) : Quiet s (s.hostIrq v) := by
  unfold State.hostIrq
  split
  · unfold State.askGateway State.sendProxied
    exact (s.emit_quiet _).trans (State.sendDefault_quiet _ _ _ _)
  · exact Quiet.ite (Quiet.refl s) (s.emit_quiet _)

theorem State.faultVector_quiet (s : State) : Quiet s s.faultVector := by
  unfold State.faultVector
  dsimp only
  split
  · exact s.hostIrq_quiet _
  · exact Quiet.refl s

theorem State.enqueue_quiet (s : State) (src kind unit detail : Nat) : Quiet s (s.enqueue src kind unit detail) := by
  unfold State.enqueue
  split
  · refine Quiet.trans ?_ (State.faultVector_quiet _)
    rfl
  · refine Quiet.trans (Quiet.trans ?_ (State.record_quiet _ _ _ _ _)) (State.enterFailed_quiet _)
    rfl

/-- Raising a source that does not fence changes nothing but registers, log, fault queue, holds and the device state. -/
theorem State.raise_quiet (s : State) (src kind unit detail : Nat) (h : src ≠ 0x30 ∧ src ≠ 0x31) :
    Quiet s (s.raise src kind unit detail) := by
  unfold State.raise
  have h0 := s.record_quiet src kind unit detail
  dsimp only
  generalize s.record src kind unit detail = u at h0 ⊢
  have h1 := h0.trans (u.enqueue_quiet src kind unit detail)
  generalize u.enqueue src kind unit detail = v at h1 ⊢
  refine Quiet.ite h0 (Quiet.ite (h1.trans v.enterFailed_quiet) ?_)
  rw [if_neg (by omega)]
  exact Quiet.ite (Quiet.ite h0 (Quiet.ite (h1.trans (v.placeMarker_quiet _ _ _)) h1)) h1

theorem State.placeRequest_quiet (s : State) (g : Int) (frames reason : Nat) : Quiet s (s.placeRequest g frames reason) := by
  unfold State.placeRequest
  have h := s.placeMarker_quiet g frames reason
  exact Quiet.ite (h.trans (State.raise_quiet _ _ _ _ _ (by decide))) h

theorem State.requestHoldAt_quiet (s : State) (g : Int) (frames reason : Nat) : Quiet s (s.requestHoldAt g frames reason) := by
  unfold State.requestHoldAt
  refine Quiet.ite (Quiet.refl s) ?_
  have h0 := s.record_quiet 0x10 0 0 (Config.faultDetail 0x10 reason).toNat
  dsimp only
  generalize s.record 0x10 0 0 (Config.faultDetail 0x10 reason).toNat = u at h0 ⊢
  exact (Quiet.ite h0 (h0.trans (u.enqueue_quiet _ _ _ _))).trans (State.placeRequest_quiet _ _ _ _)

theorem State.requestHold_quiet (s : State) (frames reason : Nat) : Quiet s (s.requestHold frames reason) :=
  s.requestHoldAt_quiet _ _ _

theorem State.brakeRequest_quiet (s : State) : Quiet s s.brakeRequest :=
  Quiet.ite (s.requestHold_quiet _ _) (Quiet.refl s)

/-! ## Halts -/

theorem State.latchHalt_quiet (s : State) (cl reason vcore : Nat) : Quiet s (s.latchHalt cl reason vcore) :=
  (s.fset_quiet _ _).trans (State.fset_quiet _ _ _)

/-- A halt changes the cluster's sequencer beside what a fault record changes. -/
theorem State.haltAtAddr_quiet (s : State) (cl reason : Nat) (who : Option Nat) (addr : Nat) :
    Quiet s (s.haltAtAddr cl reason who addr) ∨
      ∃ t q, Quiet s t ∧ Quiet (t.setSeq cl q) (s.haltAtAddr cl reason who addr) := by
  unfold State.haltAtAddr
  dsimp only
  split
  · refine Or.inr ⟨_, _, ?_, State.raise_quiet _ _ _ _ _ (by decide)⟩
    exact ((s.latchHalt_quiet _ _ _).trans (State.fsetb_quiet _ _ _)).trans ((State.fset_quiet _ _ _).trans (State.fset_quiet _ _ _))
  · left
    have h1 := s.bump_quiet (Reg.CL_SEQ_HALT_MORE cl)
    exact Quiet.ite (h1.trans (State.latchHalt_quiet _ _ _ _)) h1

/-- A halt leaves every core alone. -/
theorem State.haltAtAddr_cores (s : State) (cl reason : Nat) (who : Option Nat) (addr : Nat) :
    (s.haltAtAddr cl reason who addr).cores = s.cores := by
  rcases s.haltAtAddr_quiet cl reason who addr with h | ⟨t, q, h1, h2⟩
  · exact h.cores
  · rw [h2.cores]; exact h1.cores

@[simp] theorem State.halt_cores (s : State) (cl reason : Nat) (who : Option Nat) : (s.halt cl reason who).cores = s.cores :=
  s.haltAtAddr_cores cl reason who _

@[simp] theorem State.halt_core (s : State) (cl reason : Nat) (who : Option Nat) (k : Nat) :
    (s.halt cl reason who).core k = s.core k := by unfold State.core; rw [s.halt_cores]

@[simp] theorem State.halt_active (s : State) (cl reason : Nat) (who : Option Nat) : (s.halt cl reason who).take.active = s.take.active := by
  unfold State.halt
  rcases s.haltAtAddr_quiet cl reason who (s.seq cl).pc with h | ⟨t, q, h1, h2⟩
  · exact h.active
  · rw [h2.active]; exact h1.active

end Sys2Proof.Machine
end

