-- ==== Sys2Proof/Laws/Issue.lean ====
section
/-! SUPPORT. What issuing an operation does: whether it runs, how a decode error stops it, and what a plain result adds to a core. -/

namespace Sys2Proof.Machine

/-! ## Whether an operation runs -/

theorem State.withIssue_issued {s u : State} {i : Issue} {slot : Slot} (h : s.issue i slot = (u, true)) (f : State → State) :
    s.withIssue i slot f = f u := by
  unfold State.withIssue; rw [h]

theorem State.withIssue_stays {s u : State} {i : Issue} {slot : Slot} (h : s.issue i slot = (u, false)) (f : State → State) :
    s.withIssue i slot f = u := by
  unfold State.withIssue; rw [h]

/-- An operation in a slot that issues: each of its decode errors is a cause of a halt (R196), and one without runs on the cluster's
cores. -/
theorem State.runSlot_issued {s u : State} {i : Issue} {slot : Slot} (h : s.issue i slot = (u, true)) (engine pipe : Nat)
    (own : List Nat) (f : State → Nat → Effect × State) :
    s.runSlot i slot engine pipe own f =
      u.decoded i.cl.val (decodeReasons (pgValid i.pg) own) fun s => s.onCores i.cl.val i.pg engine pipe f := by
  rw [State.runSlot, State.withIssue_issued h]

/-- A valid PG and no error of its own: no decode error. -/
@[simp] theorem decodeReasons_clean : decodeReasons true [] = [] := rfl

@[simp] theorem State.decoded_nil (s : State) (cl : Nat) (f : State → State) : s.decoded cl [] f = f s := rfl

/-! ## One result on one core -/

/-- A result that no pending one of its due cycle meets joins the results on their way. -/
theorem State.queueWrite_free (s : State) (key tag lat : Nat) (t : Target)
    (h : ∀ w ∈ (s.core key).pend, w.due ≠ (s.seq (key / 16)).now + lat) :
    s.queueWrite key tag (lat, t) = s.setCore key { s.core key with
      pend := (s.core key).pend ++
        [{ due := (s.seq (key / 16)).now + lat, issued := (s.seq (key / 16)).now, tag := tag, target := t }] } := by
  have h1 : ((s.core key).pend.filter fun p => decide (p.due = (s.seq (key / 16)).now + lat) && p.target.clash t) = [] := by
    rw [List.filter_eq_nil_iff]
    intro w hw
    simp [h w hw]
  simp only [State.queueWrite, h1, List.any_nil, List.isEmpty_nil, Bool.not_true, Bool.and_false, Bool.false_eq_true, if_false]

/-- One write, no flags and no bank access: the result is on its way and the core's next result has the next tag. -/
theorem State.applyEffect_write (s : State) (key engine pipe lat : Nat) (t : Target)
    (h : ∀ w ∈ (s.core key).pend, w.due ≠ (s.seq (key / 16)).now + lat) :
    s.applyEffect key engine pipe (.write lat t) = (s.setCore key { s.core key with tags := (s.core key).tags + 1 }).setCore key
      { s.core key with
        tags := (s.core key).tags + 1
        pend := (s.core key).pend ++ [{ due := (s.seq (key / 16)).now + lat, issued := (s.seq (key / 16)).now,
                                        tag := (s.core key).tags, target := t }] } := by
  have hc : ((s.setCore key { s.core key with tags := (s.core key).tags + 1 }).core key) =
      { s.core key with tags := (s.core key).tags + 1 } := State.core_setCore_same _ _ _
  have hs : (s.setCore key { s.core key with tags := (s.core key).tags + 1 }).seq (key / 16) = s.seq (key / 16) := rfl
  simp only [State.applyEffect, Effect.write, List.foldl_cons, List.foldl_nil, State.useBanks, State.setFlags, if_true]
  rw [State.queueWrite_free, hc, hs]
  rw [hc, hs]
  exact h

end Sys2Proof.Machine
end

