-- ==== Sys2Proof/Laws/Mailbox.lean ====
section
/-! SUPPORT. Receiving and completing orders: what an accepted order runs on, and what a completion changes. -/

namespace Sys2Proof.Machine

open Sys2Proof.Claims

/-- Taking a descriptor changes the doorbell counts only. -/
theorem State.descriptorTaken_eq (s : State) : ∃ b, s.descriptorTaken = { s with host.bells := b } := by
  unfold State.descriptorTaken
  dsimp only
  split
  · exact ⟨s.host.bells, rfl⟩
  · exact ⟨_, rfl⟩

/-- Acceptance changes the doorbell counts, HI_MB_NEXT and HI_ORDERS. -/
theorem accepted_eq (s : State) : ∃ b r, accepted s = { s with host.bells := b, regs := r } := by
  obtain ⟨b, hb⟩ := s.descriptorTaken_eq
  unfold accepted State.accept
  obtain ⟨r, hr⟩ := s.descriptorTaken.fset_eq Reg.HI_MB_NEXT_NEXT (s.descriptorTaken.nextSeq + 1)
  rw [hr]
  unfold State.bump State.bumpBy
  obtain ⟨r', hr'⟩ := State.fset_eq { s.descriptorTaken with regs := r } Reg.HI_ORDERS_COUNT _
  rw [hr', hb]
  exact ⟨b, _, rfl⟩

@[simp] theorem accepted_dev (s : State) : (accepted s).dev = s.dev := by obtain ⟨b, r, h⟩ := accepted_eq s; rw [h]
@[simp] theorem accepted_take (s : State) : (accepted s).take = s.take := by obtain ⟨b, r, h⟩ := accepted_eq s; rw [h]
@[simp] theorem accepted_time (s : State) : (accepted s).time = s.time := by obtain ⟨b, r, h⟩ := accepted_eq s; rw [h]
@[simp] theorem accepted_cores (s : State) : (accepted s).cores = s.cores := by obtain ⟨b, r, h⟩ := accepted_eq s; rw [h]
@[simp] theorem accepted_serve (s : State) : (accepted s).serve = s.serve := by obtain ⟨b, r, h⟩ := accepted_eq s; rw [h]
@[simp] theorem accepted_faults (s : State) : (accepted s).faults = s.faults := by obtain ⟨b, r, h⟩ := accepted_eq s; rw [h]
@[simp] theorem accepted_manage (s : State) : (accepted s).manage = s.manage := by obtain ⟨b, r, h⟩ := accepted_eq s; rw [h]
@[simp] theorem accepted_log (s : State) : (accepted s).log = s.log := by obtain ⟨b, r, h⟩ := accepted_eq s; rw [h]
@[simp] theorem accepted_out (s : State) : (accepted s).out = s.out := by obtain ⟨b, r, h⟩ := accepted_eq s; rw [h]
@[simp] theorem accepted_hbm (s : State) : (accepted s).hbm = s.hbm := by obtain ⟨b, r, h⟩ := accepted_eq s; rw [h]
@[simp] theorem accepted_ready (s : State) : (accepted s).host.ready = s.host.ready := by
  obtain ⟨b, r, h⟩ := accepted_eq s; rw [h]
@[simp] theorem accepted_background (s : State) : (accepted s).host.background = s.host.background := by
  obtain ⟨b, r, h⟩ := accepted_eq s; rw [h]

@[simp] theorem descriptorTaken_nextSeq (s : State) : s.descriptorTaken.nextSeq = s.nextSeq := by
  obtain ⟨b, h⟩ := s.descriptorTaken_eq
  rw [h]
  exact State.fget_congr _ rfl

/-- An order that the device takes runs on the state after acceptance. -/
theorem State.receiveBy_taken {s : State} {o : Order} (h : Taken s o) (op : Nat) (run : State → State) :
    s.receiveBy o op run = run (accepted s) := by
  unfold State.receiveBy
  rw [if_neg (not_or.mpr ⟨h.1, h.2.1⟩)]
  simp [h.2.2.1, accepted]

/-- An order that the device takes, in a state that admits it, executes; a director in ISOLATED must not need the far die. -/
theorem State.receive_runs {s : State} {o : Order} (h : Taken s o) (op : Nat) (admits : State → Bool) (f : State → State)
    (ha : admits (accepted s) = true) (hi : ((accepted s).isolated && farOrders.contains op) = false) :
    s.receive o op admits f = f (accepted s) := by
  unfold State.receive
  rw [State.receiveBy_taken h]
  have hc : (accepted s).contra = false := by
    have := h.2.2.2; unfold State.contra at *; rwa [accepted_manage]
  unfold State.executeOrder
  simp only [hc, ha, hi]
  simp

/-- An order that the device takes completes STATE where the state does not admit it. -/
theorem State.receive_state {s : State} {o : Order} (h : Taken s o) (op : Nat) (admits : State → Bool) (f : State → State)
    (ha : admits (accepted s) = false) : s.receive o op admits f = (accepted s).complete op o.seq o.tag (.plain .state 0) := by
  unfold State.receive
  rw [State.receiveBy_taken h]
  have hc : (accepted s).contra = false := by
    have := h.2.2.2; unfold State.contra at *; rwa [accepted_manage]
  unfold State.executeOrder
  simp only [hc, ha]
  simp

/-- Completing an order changes the host interface only. -/
theorem State.done_eq (s : State) (op : Nat) (o : Order) (v : Verdict) : ∃ h, s.done op o v = { s with host := h } := ⟨_, rfl⟩

@[simp] theorem State.done_dev (s : State) (op : Nat) (o : Order) (v : Verdict) : (s.done op o v).dev = s.dev := rfl
@[simp] theorem State.done_take (s : State) (op : Nat) (o : Order) (v : Verdict) : (s.done op o v).take = s.take := rfl
@[simp] theorem State.done_time (s : State) (op : Nat) (o : Order) (v : Verdict) : (s.done op o v).time = s.time := rfl
@[simp] theorem State.done_manage (s : State) (op : Nat) (o : Order) (v : Verdict) : (s.done op o v).manage = s.manage := rfl
@[simp] theorem State.done_faults (s : State) (op : Nat) (o : Order) (v : Verdict) : (s.done op o v).faults = s.faults := rfl
@[simp] theorem State.done_log (s : State) (op : Nat) (o : Order) (v : Verdict) : (s.done op o v).log = s.log := rfl
@[simp] theorem State.done_serve (s : State) (op : Nat) (o : Order) (v : Verdict) : (s.done op o v).serve = s.serve := rfl
@[simp] theorem State.done_hbm (s : State) (op : Nat) (o : Order) (v : Verdict) : (s.done op o v).hbm = s.hbm := rfl
@[simp] theorem State.done_out (s : State) (op : Nat) (o : Order) (v : Verdict) : (s.done op o v).out = s.out := rfl
@[simp] theorem State.done_fget (s : State) (op : Nat) (o : Order) (v : Verdict) (f : Fld) : (s.done op o v).fget f = s.fget f :=
  State.fget_congr f rfl

@[simp] theorem State.done_ready (s : State) (op : Nat) (o : Order) (v : Verdict) :
    (s.done op o v).host.ready = s.host.ready ++ [s.completion op o.seq o.tag v] := rfl

/-- A completed order's completion is the last one queued. -/
theorem State.done_ended (s : State) (op : Nat) (o : Order) (v : Verdict) : Ended (s.done op o v) op o v := by
  have h : (s.done op o v).holdover = s.holdover := by unfold State.holdover State.flag; rw [State.done_fget]
  simp [Ended, State.completion, State.wallNow, h]

/-- An order that starts in the background waits under its SEQ. -/
theorem State.background_waits (s : State) (op : Nat) (o : Order) : Waits (s.background op o) op o :=
  ⟨_, List.mem_append.mpr (Or.inr (List.mem_singleton.mpr rfl)), rfl, rfl, rfl⟩

end Sys2Proof.Machine
end

