-- ==== Sys2Proof/Laws/Memory.lean ====
section
/-! SUPPORT. The memory operations: each keeps the canonical form of the memories, and writes no byte but those it is given. -/

namespace Sys2Proof.Machine

variable {α : Type}

/-! ## Clearing and moving entries -/

theorem mapWfFrom_mapClear [DecidableEq α] (d : Nat → α) (lo n : Nat) (m : SMap α) :
    ∀ b, mapWfFrom d b m = true → mapWfFrom d b (mapClear m lo n) = true := by
  induction m with
  | nil => intro b h; exact h
  | cons e m ih =>
    obtain ⟨k, v⟩ := e
    intro b h
    simp only [mapWfFrom, Bool.and_eq_true, decide_eq_true_eq] at h
    rw [mapClear, List.filter_cons]
    split
    · simp only [mapWfFrom, Bool.and_eq_true, decide_eq_true_eq]
      exact ⟨h.1, ih _ h.2⟩
    · exact ih b (mapWfFrom_mono d m (by omega) h.2)

/-- Clearing a range keeps the canonical form. -/
theorem mapWf_mapClear [DecidableEq α] (d : Nat → α) (m : SMap α) (lo n : Nat) (h : mapWf d m = true) :
    mapWf d (mapClear m lo n) = true := mapWfFrom_mapClear d lo n m 0 h

/-- What a memory reads as after clearing a range. -/
theorem mapGet_mapClear (d : Nat → α) (m : SMap α) (lo n k : Nat) :
    mapGet d (mapClear m lo n) k = if lo ≤ k ∧ k < lo + n then d k else mapGet d m k := by
  have key : mapFind (mapClear m lo n) k = if lo ≤ k ∧ k < lo + n then none else mapFind m k := by
    induction m with
    | nil => simp [mapClear, mapFind]
    | cons e m ih =>
      obtain ⟨a, v⟩ := e
      rw [mapClear, List.filter_cons]
      by_cases ha : lo ≤ a ∧ a < lo + n
      · have : (!(decide (lo ≤ a) && decide (a < lo + n))) = false := by simp [ha.1, ha.2]
        simp only [this, Bool.false_eq_true, if_false, mapFind]
        rw [← mapClear, ih]
        by_cases hk : a = k
        · subst hk; simp [ha]
        · simp [hk]
      · have : (!(decide (lo ≤ a) && decide (a < lo + n))) = true := by
          simp only [Bool.not_eq_true', Bool.and_eq_false_iff, decide_eq_false_iff_not]; omega
        simp only [this, if_true, mapFind]
        by_cases hk : a = k
        · subst hk; simp [ha]
        · rw [if_neg hk, ← mapClear, ih, if_neg hk]
  rw [mapGet, key]
  split <;> rfl

/-- Moving the entries of a byte memory keeps the canonical form. -/
theorem mapRekey_wf (f : Nat → Nat) (m : List Host.Cell) : ∀ b, mapWfFrom byteDefault b m = true → Memory.wf (mapRekey f m) = true := by
  induction m with
  | nil => intro b _; rfl
  | cons e m ih =>
    obtain ⟨k, v⟩ := e
    intro b h
    simp only [mapWfFrom, Bool.and_eq_true, decide_eq_true_eq] at h
    exact mapWfFrom_mapIns byteDefault (mapRekey f m) (f k) v h.1.2 0 (Nat.zero_le _) (ih _ h.2)

/-! ## What a state's memory operations keep -/

/-- A step of work keeps the canonical form of both memories. -/
def KeepsForm (s t : State) : Prop :=
  (Memory.wf s.spad = true → Memory.wf t.spad = true) ∧ (Memory.wf s.hbm = true → Memory.wf t.hbm = true)

theorem KeepsForm.refl (s : State) : KeepsForm s s := ⟨id, id⟩

theorem KeepsForm.trans {s t u : State} (h : KeepsForm s t) (h' : KeepsForm t u) : KeepsForm s u :=
  ⟨fun w => h'.1 (h.1 w), fun w => h'.2 (h.2 w)⟩

theorem KeepsForm.of_eq {s t : State} (h : t.spad = s.spad) (h' : t.hbm = s.hbm) : KeepsForm s t := by
  rw [KeepsForm, h, h']; exact ⟨id, id⟩

theorem Quiet.keepsForm {s t : State} (h : Quiet s t) : KeepsForm s t := .of_eq h.spad h.hbm

/-- The bytes of a scratchpad outside [lo, hi) stay, and so does HBM. -/
def SpadFrame (s t : State) (lo hi : Nat) : Prop := t.hbm = s.hbm ∧ ∀ x, (x < lo ∨ hi ≤ x) → memGet t.spad x = memGet s.spad x

theorem SpadFrame.of_eq {s t : State} {lo hi : Nat} (h : t.spad = s.spad) (h' : t.hbm = s.hbm) : SpadFrame s t lo hi :=
  ⟨h', fun _ _ => by rw [h]⟩

theorem SpadFrame.trans {s t u : State} {lo mid hi : Nat} (h : SpadFrame s t lo mid) (h' : SpadFrame t u mid hi) (hl : lo ≤ mid)
    (hm : mid ≤ hi) : SpadFrame s u lo hi :=
  ⟨h'.1.trans h.1, fun x hx => by rw [h'.2 x (by omega), h.2 x (by omega)]⟩

/-! ## The scratchpad -/

theorem State.granStore_spad (s : State) (key g off : Nat) (bs : List Byte) (m : Meta) :
    (s.granStore key g off bs m).spad = memWrite s.spad (spadAddr key (8 * g + off)) bs := rfl

theorem State.granStore_hbm (s : State) (key g off : Nat) (bs : List Byte) (m : Meta) : (s.granStore key g off bs m).hbm = s.hbm := rfl

/-- Reporting an uncorrectable error changes no memory. -/
theorem State.reportBad_quiet (s : State) (key g : Nat) : Quiet s (s.reportBad key g) := by
  unfold State.reportBad
  have h1 := s.bump_quiet (Reg.CL_ECC_UE_COUNT (key / 16) (key % 16))
  dsimp only
  generalize s.bump (Reg.CL_ECC_UE_COUNT (key / 16) (key % 16)) = u at h1 ⊢
  have h2 : Quiet s (if u.flag (Reg.CL_ECC_ADDR_VALID (key / 16) (key % 16)) then u
      else (u.fset (Reg.CL_ECC_ADDR_GRANULE (key / 16) (key % 16)) g).fsetb (Reg.CL_ECC_ADDR_VALID (key / 16) (key % 16)) true) :=
    Quiet.ite h1 (h1.trans ((u.fset_quiet _ _).trans (State.fsetb_quiet _ _ _)))
  generalize (if u.flag (Reg.CL_ECC_ADDR_VALID (key / 16) (key % 16)) then u
      else (u.fset (Reg.CL_ECC_ADDR_GRANULE (key / 16) (key % 16)) g).fsetb (Reg.CL_ECC_ADDR_VALID (key / 16) (key % 16)) true) = v at h2 ⊢
  exact h2.trans (v.raise_quiet (v.areaOf key (8 * g)).ueSource 1 key (8 * g) (by cases v.areaOf key (8 * g) <;> decide))

/-- A granule's write either stores its bytes or leaves the scratchpads; HBM stays. -/
theorem State.granWrite_spad (s : State) (key g off : Nat) (bs : List Byte) (q : Bool) :
    (s.granWrite key g off bs q).hbm = s.hbm ∧
      ((s.granWrite key g off bs q).spad = s.spad ∨
        (s.granWrite key g off bs q).spad = memWrite s.spad (spadAddr key (8 * g + off)) bs) := by
  unfold State.granWrite
  split
  · next h => exact ⟨rfl, .inr (by rw [State.granStore_spad, h.1])⟩
  · dsimp only
    split
    · split
      · exact ⟨rfl, .inl rfl⟩
      · exact ⟨rfl, .inr rfl⟩
    · have hq := (s.bump_quiet (Reg.CL_ECC_CE_COUNT (key / 16) (key % 16))).trans
        (State.raise_quiet _ 0x01 1 key (8 * g) (by decide))
      generalize (s.bump (Reg.CL_ECC_CE_COUNT (key / 16) (key % 16))).raise 0x01 1 key (8 * g) = u at hq ⊢
      split
      · exact ⟨hq.hbm, .inl hq.spad⟩
      · exact ⟨hq.hbm, .inr (by rw [State.granStore_spad, hq.spad])⟩
    · have hq : Quiet s (if (s.core key).foundBad g then s else s.reportBad key g) := (Quiet.refl s).ite (s.reportBad_quiet key g)
      exact ⟨hq.hbm, .inl hq.spad⟩

theorem State.granWrite_keepsForm (s : State) (key g off : Nat) (bs : List Byte) (q : Bool) :
    KeepsForm s (s.granWrite key g off bs q) := by
  obtain ⟨h, h' | h'⟩ := s.granWrite_spad key g off bs q
  · exact .of_eq h' h
  · rw [KeepsForm, h, h']; exact ⟨memWrite_wf bs _ _, id⟩

theorem State.granWrite_frame (s : State) (key g off : Nat) (bs : List Byte) (q : Bool) :
    SpadFrame s (s.granWrite key g off bs q) (spadAddr key (8 * g + off)) (spadAddr key (8 * g + off) + bs.length) := by
  obtain ⟨h, h' | h'⟩ := s.granWrite_spad key g off bs q
  · exact .of_eq h' h
  · refine ⟨h, fun x hx => ?_⟩
    rw [h', memGet_memWrite_of_not_mem]
    omega

/-- A write keeps the canonical form. -/
theorem State.spadWrite_keepsForm (key : Nat) : ∀ (qs : List Bool) (s : State) (a : Nat) (bs : List Byte),
    KeepsForm s (s.spadWrite key a bs qs)
  | [], s, _, _ => .refl s
  | q :: qs, s, a, bs => by
    unfold State.spadWrite
    dsimp only
    split
    · exact .refl s
    · exact (s.granWrite_keepsForm _ _ _ _ _).trans (State.spadWrite_keepsForm key qs _ _ _)

/-- A write changes no byte outside the bytes written. -/
theorem State.spadWrite_frame (key : Nat) : ∀ (qs : List Bool) (s : State) (a : Nat) (bs : List Byte),
    SpadFrame s (s.spadWrite key a bs qs) (spadAddr key a) (spadAddr key a + bs.length)
  | [], _, _, _ => .of_eq rfl rfl
  | q :: qs, s, a, bs => by
    unfold State.spadWrite
    dsimp only
    split
    · exact .of_eq rfl rfl
    · have h1 := s.granWrite_frame key (a / 8) (a % 8) (bs.take (8 - a % 8)) q
      rw [Nat.div_add_mod] at h1
      generalize s.granWrite key (a / 8) (a % 8) (bs.take (8 - a % 8)) q = u at h1 ⊢
      have h2 := State.spadWrite_frame key qs u (a + (bs.take (8 - a % 8)).length) (bs.drop (8 - a % 8))
      have hs : spadAddr key (a + (bs.take (8 - a % 8)).length) = spadAddr key a + (bs.take (8 - a % 8)).length := by
        simp only [spadAddr]; omega
      have hl : (bs.take (8 - a % 8)).length + (bs.drop (8 - a % 8)).length = bs.length := by
        rw [← List.length_append, List.take_append_drop]
      rw [hs, Nat.add_assoc, hl] at h2
      exact h1.trans h2 (by omega) (by omega)

theorem State.swapRegion_keepsForm (s : State) (key k : Nat) : KeepsForm s (s.swapRegion key k) := by
  unfold State.swapRegion
  dsimp only
  split
  · exact ⟨mapRekey_wf _ _ 0, id⟩
  · exact .refl s

theorem foldl_keepsForm {β : Type} (f : State → β → State) (hf : ∀ s b, KeepsForm s (f s b)) :
    ∀ (l : List β) (s : State), KeepsForm s (l.foldl f s)
  | [], s => .refl s
  | b :: l, s => (hf s b).trans (foldl_keepsForm f hf l _)

theorem State.swapCarried_keepsForm (s : State) (key : Nat) : KeepsForm s (s.swapCarried key) := by
  unfold State.swapCarried
  exact (foldl_keepsForm _ (fun s k => s.swapRegion_keepsForm key k) _ s).trans (State.fset_quiet _ _ _).keepsForm

theorem State.scrubCoreDone_keepsForm (s : State) (key : Nat) : KeepsForm s (s.scrubCoreDone key) := by
  unfold State.scrubCoreDone
  dsimp only
  split
  · refine KeepsForm.trans ?_ ((State.fsetb_quiet _ _ _).trans (State.fsetb_quiet _ _ _)).keepsForm
    exact ⟨mapWf_mapClear byteDefault _ _ _, id⟩
  · exact .refl s

/-! ## HBM -/

theorem State.unitTouched_eq (s : State) (u : Nat) : ∃ k, s.unitTouched u = { s with hbmStacks := k } := ⟨_, rfl⟩

/-- A unit's write: a retired row stays, another holds the bytes; the scratchpads stay. -/
theorem State.unitWrite_hbm (s : State) (u : Nat) (bs : List Byte) (q : Bool) :
    (s.unitWrite u bs q).spad = s.spad ∧
      (s.unitWrite u bs q).hbm = if s.isRetired (32 * u) 32 then s.hbm else memWrite s.hbm (32 * u) bs := by
  unfold State.unitWrite
  split
  · exact ⟨rfl, rfl⟩
  · exact ⟨rfl, rfl⟩

theorem State.unitWrite_keepsForm (s : State) (u : Nat) (bs : List Byte) (q : Bool) : KeepsForm s (s.unitWrite u bs q) := by
  obtain ⟨h, h'⟩ := s.unitWrite_hbm u bs q
  rw [KeepsForm, h, h']
  refine ⟨id, fun w => ?_⟩
  split
  · exact w
  · exact memWrite_wf bs _ _ w

theorem State.unitWrites_keepsForm : ∀ (n : Nat) (s : State) (u : Nat) (bs : List Byte) (ps : List Bool),
    KeepsForm s (s.unitWrites u bs ps n)
  | 0, s, _, _, _ => .refl s
  | n + 1, s, u, _, _ => (s.unitWrite_keepsForm u _ _).trans (State.unitWrites_keepsForm n _ _ _ _)

/-- A write of units leaves the scratchpads and the retired rows' list. -/
theorem State.unitWrites_frame : ∀ (n : Nat) (s : State) (u : Nat) (bs : List Byte) (ps : List Bool),
    (s.unitWrites u bs ps n).spad = s.spad ∧ (s.unitWrites u bs ps n).manage = s.manage ∧
      ∀ x, (x < 32 * u ∨ 32 * (u + n) ≤ x) → memGet (s.unitWrites u bs ps n).hbm x = memGet s.hbm x
  | 0, _, _, _, _ => ⟨rfl, rfl, fun _ _ => rfl⟩
  | n + 1, s, u, bs, ps => by
    obtain ⟨h1, h2, h3⟩ := State.unitWrites_frame n (s.unitWrite u (bs.take 32) ((ps.take 4).any id)) (u + 1) (bs.drop 32) (ps.drop 4)
    obtain ⟨k1, k2⟩ := s.unitWrite_hbm u (bs.take 32) ((ps.take 4).any id)
    have km : (s.unitWrite u (bs.take 32) ((ps.take 4).any id)).manage = s.manage := by
      unfold State.unitWrite; split <;> rfl
    refine ⟨h1.trans k1, h2.trans km, fun x hx => ?_⟩
    rw [State.unitWrites, h3 x (by omega), k2]
    split
    · rfl
    · have : (bs.take 32).length ≤ 32 := by rw [List.length_take]; omega
      rw [memGet_memWrite_of_not_mem]
      omega

theorem State.hbmWrite_keepsForm (s : State) (a : Nat) (bs : List Byte) (ps : List Bool) : KeepsForm s (s.hbmWrite a bs ps) :=
  State.unitWrites_keepsForm _ _ _ _ _

/-- The memories and what else an access to HBM leaves, its counts, reports and queues apart. -/
def SameMemory (s t : State) : Prop := t.spad = s.spad ∧ t.hbm = s.hbm ∧ t.manage = s.manage

theorem SameMemory.trans {s t u : State} (h : SameMemory s t) (h' : SameMemory t u) : SameMemory s u :=
  ⟨h'.1.trans h.1, h'.2.1.trans h.2.1, h'.2.2.trans h.2.2⟩

theorem SameMemory.keepsForm {s t : State} (h : SameMemory s t) : KeepsForm s t := .of_eq h.1 h.2.1

theorem Quiet.sameMemory {s t : State} (h : Quiet s t) : SameMemory s t := ⟨h.spad, h.hbm, h.manage⟩

theorem State.rowForRepair_sameMemory (s : State) (u : Nat) : SameMemory s (s.rowForRepair u) := by
  unfold State.rowForRepair
  dsimp only
  split
  · exact ⟨rfl, rfl, rfl⟩
  · exact (SameMemory.trans (t := s.setStack _ _) ⟨rfl, rfl, rfl⟩ (State.bump_quiet _ _).sameMemory)

theorem State.unitUe_quiet (s : State) (u : Nat) : Quiet s (s.unitUe u) := by
  unfold State.unitUe
  dsimp only
  generalize hv : (if (s.bump (Reg.HM_UE_COUNT (stackOf (32 * u)))).flag (Reg.HM_ERR_ADDR_VALID (stackOf (32 * u))) = true then
      s.bump (Reg.HM_UE_COUNT (stackOf (32 * u)))
    else ((s.bump (Reg.HM_UE_COUNT (stackOf (32 * u)))).fset (Reg.HM_ERR_ADDR_UNIT (stackOf (32 * u))) u).fsetb
      (Reg.HM_ERR_ADDR_VALID (stackOf (32 * u))) true) = v
  have h : Quiet s v := hv ▸ Quiet.ite (s.bump_quiet _)
    ((s.bump_quiet _).trans ((State.fset_quiet _ _ _).trans (State.fsetb_quiet _ _ _)))
  exact h.trans (v.raise_quiet _ _ _ _ (by unfold State.hbmUeSource; split <;> decide))

theorem State.unitCe_sameMemory (s : State) (u : Nat) : SameMemory s (s.unitCe u) := by
  unfold State.unitCe
  dsimp only
  have h := ((s.bump_quiet (Reg.HM_CE_COUNT (stackOf (32 * u)))).trans
    (State.raise_quiet _ 0x01 3 (stackOf (32 * u)) (Config.faultDetail 0x01 u).toNat (by decide))).sameMemory
  split
  · exact (h.trans ⟨rfl, rfl, rfl⟩).trans (State.rowForRepair_sameMemory _ _)
  · exact h.trans ⟨rfl, rfl, rfl⟩

/-- A read of a unit changes no memory. -/
theorem State.unitRead_sameMemory (s : State) (u : Nat) : SameMemory s (s.unitRead u).2 := by
  unfold State.unitRead
  dsimp only
  split
  · exact ⟨rfl, rfl, rfl⟩
  · split
    · exact ⟨rfl, rfl, rfl⟩
    · exact s.unitCe_sameMemory u
    · have h := (s.unitUe_quiet u).sameMemory.trans (State.rowForRepair_sameMemory _ u)
      generalize (s.unitUe u).rowForRepair u = v at h ⊢
      dsimp only
      split
      · exact h
      · exact h.trans ⟨rfl, rfl, rfl⟩

/-- A read changes no memory. -/
theorem State.unitReads_sameMemory : ∀ (n : Nat) (s : State) (u : Nat), SameMemory s (s.unitReads u n).2
  | 0, _, _ => ⟨rfl, rfl, rfl⟩
  | n + 1, s, u => (s.unitRead_sameMemory u).trans (State.unitReads_sameMemory n _ _)

theorem State.hbmRead_sameMemory (s : State) (a n : Nat) : SameMemory s (s.hbmRead a n).2 := State.unitReads_sameMemory _ _ _

theorem State.unitPatch_keepsForm (s : State) (u off : Nat) (bs : List Byte) : KeepsForm s (s.unitPatch u off bs) := by
  unfold State.unitPatch
  split
  · exact s.unitWrite_keepsForm _ _ _
  · exact (s.unitRead_sameMemory u).keepsForm.trans (State.unitWrite_keepsForm _ _ _ _)

theorem State.unitPatches_keepsForm : ∀ (n : Nat) (s : State) (u off : Nat) (bs : List Byte), KeepsForm s (s.unitPatches u off bs n)
  | 0, s, _, _, _ => .refl s
  | n + 1, s, u, off, _ => (s.unitPatch_keepsForm u off _).trans (State.unitPatches_keepsForm n _ _ _ _)

theorem State.hbmPatch_keepsForm (s : State) (a : Nat) (bs : List Byte) : KeepsForm s (s.hbmPatch a bs) :=
  State.unitPatches_keepsForm _ _ _ _ _

theorem State.hbmPut_keepsForm (s : State) (a : Nat) (bs : List Byte) : KeepsForm s (s.hbmPut a bs) := by
  unfold State.hbmPut
  split
  · exact (s.notice_quiet _ _).keepsForm
  · exact s.hbmPatch_keepsForm a bs

theorem State.scrubStackDone_keepsForm (s : State) (i : Nat) : KeepsForm s (s.scrubStackDone i) := by
  unfold State.scrubStackDone
  dsimp only
  split
  · refine KeepsForm.trans ?_ ((State.fsetb_quiet _ _ _).trans (State.fsetb_quiet _ _ _)).keepsForm
    exact ⟨id, mapWf_mapClear byteDefault _ _ _⟩
  · exact .refl s

/-- The memories of the reset state are in canonical form. -/
theorem reset_memories : Memory.wf State.reset.spad = true ∧ Memory.wf State.reset.hbm = true := ⟨rfl, rfl⟩

end Sys2Proof.Machine
end

