-- ==== Sys2Proof/WellFormed.lean ====
section
/-! DEFINITION. Which commands are well formed: those whose numbers fit the fields that the spec gives them. A command that the
device itself turns away (a malformed order, a packet of a reserved kind) is well formed; its meaning says what happens. -/

namespace Sys2Proof

open Machine

/-- A number that fits `n` bits. -/
def fits (n x : Nat) : Bool := decide (x < 2 ^ n)

/-- A packet's header fields (Table 10.3), its data, and one poison flag per 8 bytes of it (R286, R289). -/
def wfPacket (p : Packet) : Bool :=
  fits 2 p.vc && fits 4 p.pkind && fits 4 p.nflit && fits 13 p.sync && fits 18 p.ddev && fits 18 p.sdev && fits 6 p.dcore &&
  fits 6 p.score && fits 8 p.route && fits 16 p.remt && fits 32 p.pland && fits 40 p.daddr && fits 16 p.take &&
  decide (p.data.length ≤ 4064) && decide (p.poison.length = (p.data.length + 7) / 8)

/-- What a receiver finds on a packet's flits: SEQ has 12 bits (R285). -/
def wfRx (rx : Rx) : Bool := fits 12 rx.seq

/-- An ACK field (R285). -/
def wfAck (seq cvc credits : Nat) : Bool := fits 12 seq && fits 2 cvc && fits 8 credits

/-- The body of a HOLD (Table 10.5). -/
def wfHold (take gate frames reason origin : Nat) : Bool :=
  fits 16 take && fits 20 gate && fits 8 frames && fits 4 reason && fits 18 origin

/-- The body of a CUT (Table 10.5). -/
def wfCut (take gate shape adopt : Nat) : Bool := fits 16 take && fits 20 gate && fits 6 shape && fits 16 adopt

/-- The body of a TRAIN (R309). -/
def wfTrain (b : TrainBody) : Bool := fits 18 b.device && fits 8 b.slot && fits 6 b.link

/-- A reel's header and directory entries (R350, Table 12.8). -/
def wfReel (r : Reel) : Bool :=
  fits 16 r.format && fits 8 r.grid && fits 8 r.planf && fits 16 r.ndev && fits 16 r.take && fits 8 r.nshape &&
  fits 18 r.leadDev && fits 16 r.baseTag && fits 16 r.dir.length &&
  r.dir.all fun e => fits 8 e.type && fits 16 e.rank && fits 32 e.length && fits 64 e.offset

/-- A token's length (R410). -/
def wfToken (t : Token) : Bool := decide (t.body.length = 112)

/-- A packet and what its receiver found. -/
def wfArrival (rx : Rx) (p : Packet) : Bool := wfRx rx && wfPacket p

/-- The well-formed commands. -/
def Instr.wellFormed : Instr → Bool
  | .load _ r | .stage _ r => wfReel r
  | .callsheet _ bs => fits 32 bs.length
  | .copyout _ _ _ _ d => fits 32 d.len
  | .cnDump _ _ _ plen => fits 32 plen
  | .updDownload _ _ _ data => fits 32 data.length
  | .dbgUnlock _ t | .cnClear _ t => wfToken t
  | .registerWrite _ _ off _ | .rcRead _ _ off | .lowWordRead _ _ off => fits 26 off
  | .cutMessageReceive r t g sh _ a => wfCut t g sh a && decide (r.copy < 3)
  | .holdMarker x t g n r o => wfHold t g n r o && decide (x.copy < 3)
  | .uncorrectableCodeword _ c => fits 32 c.slot && decide (c.symbols.length = 225)
  | .slate _ _ _ _ dev _ _ => fits 18 dev
  | .scheduledSendPacket _ rx p | .unscheduledSend _ rx p | .proxiedResponse _ rx p => wfArrival rx p
  | .redxContribution _ rx p grp _ _ _ => wfArrival rx p && fits 8 grp
  | .proxiedRequest _ rx p _ _ | .mirrorAcknowledgement _ rx p _ => wfArrival rx p
  | .mirrorWrite _ rx p _ _ _ _ _ => wfArrival rx p
  | .ack _ seq cvc credits | .nak _ seq cvc credits => wfAck seq cvc credits
  | .discard _ seq => fits 12 seq
  | .credit _ sent freed => decide (sent.length = 3) && decide (freed.length = 3)
  | .train _ b => wfTrain b
  | .udrainExpiry dest => fits 18 dest
  | .malformedOrder d _ => decide (d.length = 60)
  | _ => true

end Sys2Proof
end

