-- ==== Sys2Proof/Tests/Slice0.lean ====
section
/-! SUPPORT. Tests: ill-formed terms that WellFormed refuses, and for every obligation states that meet its hypotheses, one for
each clause, with what the command then does. -/

namespace Sys2Proof.Tests

open Sys2Proof Sys2Proof.Machine Sys2Proof.Claims

set_option Elab.async false

/-- The command answers a next state that meets a test. -/
def gives (c : Instr) (s : State) (p : State → Bool) : Bool :=
  match exec c s with
  | .next t => p t
  | _ => false

/-- A call sheet for rack 0, slot 0, with a direct host. -/
def sheet0 : CallSheet :=
  { version := 1, rack := 0, slot := 0, hostRole := 1, dirmap := 0, profile := 0, watts := 2000, dims := (1, 1, 1), coords := (0, 0, 0),
    blockLo := 0, blockHi := 63, gateway := 0, proxyMap := 0, interval := 0, trigMask := 0, snap := [], cabling := [],
    generation := 4, crcOk := true }

/-- A signature that key 0 accepts. -/
def sig0 : Sig := { keyIdx := 0, keyHash := 9, verifies := true }

/-- A device with a position and a key, in a state. -/
def base (d : DevState) : State :=
  let m := { Manage.initial with sheet := some sheet0, sheets := [some sheet0, none], blockHi := 63,
                                 keys := [{ hash := 9, valid := true, revoked := false, use := 15 }] }
  { State.reset.fset Reg.HI_STATUS_HOSTROLE 1 with dev := d, manage := m, time.wall := 4096 }

/-- The order that such a device expects. -/
def order1 : Order := { seq := 1, tag := 7 }

/-- A storage target that both ports reach. -/
def target1 : StorageTarget := { addr := 1, qpn := 2, rkey := 3, sport := 4, ports := 3 }

/-- A reel for this device alone: one shape of two gates on cluster 0. -/
def reel1 : Reel :=
  { format := 1, grid := 1, planf := 18, ndev := 1, take := 5, seed := 0, shapePlan := true, nshape := 1, leadDev := 0, trigCarry := 0,
    baseTag := 0, dir := [], sig := sig0, hash := 3, size := 100,
    members := [{ device := 0, rank := 0, shardRank := 0, kvRank := 0, lead := true, root := true }],
    clusters := [(0, { bundles := [0], shapes := [{ gates := 2, cues := [] }] })], cores := [], sieve := [], inject := [], recv := [],
    alternates := [], groups := [], decode := [],
    tree := { diam := 100, margin := 34, root := true, plink := none, depth := 0, altParent := none },
    travel := { links := [], paths := [], markers := [] },
    serving := { shapes := [], settle := 2, ready := 1, maxent := 0, area := 0, poolBase := 0, poolStride := 1, poolPages := 0,
                 ctxLo := 0, ctxHi := 0, meterLo := 0, meterHi := 0, nrank := 1 },
    manifest := { targets := [(0, target1)], chunks := [] }, counters := [], linkPlans := [], hbmPeaks := [], landPeaks := [], epeak := 0,
    udrain := 0, sliceOrigin := (0, 0, 0), sliceExtent := (1, 1, 1) }

/-- A device with `reel1` loaded, in a state. -/
def withReel (d : DevState) : State := { base d with take.active := some reel1 }

/-! ## The queue, reset, orders -/

/-! ## The queue, reset, orders -/

def canonical_s := { base .ready with pending := [.copyin order1 0 64 0 [1, 2, 3]] }

/-- StepKeepsCanonicalForm: a state in form with a step, and the step's state is in form. -/
theorem witness_canonical :
    canonical canonical_s = true ∧ (match step canonical_s with
      | .next t => canonical t && decide (memRead t.hbm 64 3 = [1, 2, 3])
      | _ => false) = true := by
  decide +kernel

/-- OnlyMissingAddressesStop: an address that does not exist. -/
theorem witness_missing : (match exec (.drizzleRequest ⟨0, 0⟩ (.read 0x2000000 1 0)) (base .ready) with
      | .fault f => f == .noSuchAddress
      | _ => false) = true := by decide +kernel

def frames_c : Instr := .frontEndFrameDrop 1
def frames_s := { base .running with hbm := [(1, 1)], spad := [(2, 2)], pending := [frames_c] }
def frames_held :=
  { withReel .holding with time.hold := some ⟨4096, 4096, 3, false⟩, time.frozen := some 4096, time.wall := 5632 }

/-- MemoriesKept and PlanAndWallTime: a command of none of the lists; the end of a hold; TB_STEP within a take and outside. -/
theorem witness_frames :
    touchesSpad frames_c = false ∧ touchesHbm frames_c = false ∧ touchesServe frames_c = false ∧ touchesFetch frames_c = false ∧
      touchesManage frames_c = false ∧ movesPlan frames_c = false ∧ stepsWall frames_c = false ∧
      gives frames_c frames_s (fun t => decide (t.pending = frames_s.pending ∧ t.spad = frames_s.spad ∧ t.hbm = frames_s.hbm ∧
        t.serve = frames_s.serve ∧ t.fetch = frames_s.fetch ∧ t.manage = frames_s.manage ∧ t.time = frames_s.time)) = true ∧
      gives .holdEnd frames_held (fun t => t.time.offset == frames_held.time.offset + BitVec.ofNat 64 (512 * 3)) = true ∧
      frames_s.dev.inTake = true ∧ gives (.tbStep .pcie 5) frames_s (fun t => t.time.wall == frames_s.time.wall) = true ∧
      gives (.tbStep .pcie 5) { frames_s with dev := .ready } (fun t => t.time.wall != frames_s.time.wall) = true := by
  decide +kernel

/-- A descriptor of a SEQ and an opcode, with the host tag 7. -/
def descriptor (seq op : Nat) : List Byte := toBytes 8 seq ++ toBytes 2 op ++ toBytes 38 0 ++ toBytes 8 7 ++ toBytes 4 0

def received_s := base .running
def received_d := descriptor 1 0x0F
def received_c : Completion := received_s.completion 0x0F 1 7 ok
def received_stale := received_s.fset Reg.HI_MB_NEXT_NEXT 4
def received_later := { received_stale with host.kept := [received_c] }
def received_busy := { received_stale with host.background := [{ opcode := 5, seq := 1, tag := 7 }] }
def received_contra := { received_s with manage.procE := { Processor.initial with estate := .contra } }
def received_last := received_s.fset Reg.HI_MB_NEXT_NEXT (2 ^ 64 - 2)

/-- OrdersReceived: an unknown opcode; the last SEQ that can be accepted. -/
theorem witness_received :
    (descriptorOf received_d 0).formed = false ∧ (descriptorOf received_d 0).order = order1 ∧ received_s.contra = false ∧
      received_s.dev ≠ .off ∧ received_s.hostRole ≠ 0 ∧ received_s.nextSeq < 2 ^ 64 - 1 ∧
      gives (.malformedOrder received_d 0) received_s (fun t => t.nextSeq == 2 && t.fget Reg.HI_ORDERS_COUNT == 1 &&
        decide (Ended t 0x0F order1 (.plain .malformed 0))) = true ∧
      gives (.malformedOrder (descriptor (2 ^ 64 - 2) 0x0F) 0) received_last (fun t => t.nextSeq == 2 ^ 64 - 1) = true ∧
      received_contra.contra = true ∧
      gives (.malformedOrder received_d 0) received_contra (fun t => t.nextSeq == 2 && t.fget Reg.DD_REFUSED_COUNT == 1) = true ∧
      gives (.malformedOrder (descriptor 2 0x0F) 0) received_s (fun t => t.nextSeq == 1 && decide (Ended t 0x0F ⟨2, 7⟩ (.plain .gap 0))) = true ∧
      received_later.host.kept.find? (fun x => decide (x.seq = order1.seq)) = some received_c ∧
      gives (.malformedOrder received_d 0) received_later (fun t => t.nextSeq == 4 && decide (t.host.ready = [{ received_c with dup := true }]) &&
        t.fget Reg.HI_DUPS_COUNT == 1) = true ∧
      received_busy.host.kept = [] ∧ received_busy.host.background.any (fun b => decide (b.seq = order1.seq)) = true ∧
      gives (.malformedOrder received_d 0) received_busy (fun t => t.nextSeq == 4 && t.host.ready.isEmpty && t.fget Reg.HI_DUPS_COUNT == 1) = true ∧
      gives (.malformedOrder received_d 0) received_stale (fun t => t.nextSeq == 4 && decide (Ended t 0x0F order1 (.plain .stale 0))) = true := by
  decide +kernel

/-- OrdersReceived: a well-formed descriptor, a device that receives none, and the state that an order needs. -/
theorem witness_refused :
    (descriptorOf (descriptor 1 2) (crc32c (descriptor 1 2))).formed = true ∧
      gives (.malformedOrder (descriptor 1 2) (crc32c (descriptor 1 2))) received_s (fun t => t.nextSeq == 1 && t.host.ready.isEmpty) = true ∧
      gives (.malformedOrder received_d 0) { received_s with dev := .off } (fun t => t.nextSeq == 1) = true ∧
      gives (.malformedOrder received_d 0) (received_s.fset Reg.HI_STATUS_HOSTROLE 0) (fun t => t.nextSeq == 1) = true ∧
      Taken received_s order1 ∧
      gives (.unload order1) received_s (fun t => t.dev == .running && decide (Ended t 2 order1 (.plain .state 0))) = true ∧
      gives (.screen order1) received_s (fun t => decide (Ended t 0x11 order1 (.plain .state 0))) = true := by
  decide +kernel

/-- The state with its HBM scrubbed. -/
def hbmDone (s : State) : State := (upFrom 0 8).foldl (fun s i => s.fsetb (Reg.HM_SCRUB_DONE i) true) s

/-- A device with `reel1` loaded, scrubbed and its shard verified. -/
def armable : State := ((withReel .loaded).bootScrubbed.fset Reg.FE_FETCH_STAT_STATE 2)

/-- A reel that may be staged beside `reel1`. -/
def reel2 : Reel := { reel1 with take := 6, hash := 4 }

def load_s := base .ready
def load_bad : Reel := { reel1 with sig := { sig0 with verifies := false } }
def load_r := (withReel .running).fset Reg.FE_FETCH_STAT_STATE 2
def load_u := withReel .loaded
def load_b : Background := { opcode := 2, seq := 1, tag := 7 }
def load_w := { armable.fsetb (Reg.HM_SCRUB_BUSY 7) true with host.background := [load_b] }

/-- LoadStageUnload. -/
theorem witness_load :
    (Taken load_s order1 ∧ (accepted load_s).isolated = false ∧ (accepted load_s).screening = false ∧ (accepted load_s).loadRefused reel1 = none ∧
      gives (.load order1 reel1) load_s (fun t => t.dev == .loaded && decide (t.take.active = some reel1) && decide (t.take.staged = none) &&
        decide (Ended t 1 order1 ok)) = true ∧
      (accepted load_s).reelVerifies load_bad = false ∧
      gives (.load order1 load_bad) load_s (fun t => t.dev == .ready && decide (t.take = load_s.take) && decide (Ended t 1 order1 (.plain .refused 0x20))) = true) ∧
    (Taken load_r order1 ∧ (accepted load_r).isolated = false ∧ load_r.take.exchange = none ∧ (accepted load_r).stageRefused reel1 reel2 = none ∧
      (accepted load_r).stageChecks reel2 = none ∧
      gives (.stage order1 reel2) load_r (fun t => decide (t.take.staged = some reel2) && decide (Ended t 1 order1 ok)) = true ∧
      gives (.stage order1 load_bad) load_r (fun t => decide (t.take = load_r.take) && decide (Ended t 1 order1 (.plain .refused 0x20))) = true) ∧
    (Taken load_u order1 ∧ (accepted load_u).running? 0x02 = none ∧
      gives (.unload order1) load_u (fun t => t.flag (Reg.HM_SCRUB_BUSY 7) && t.scrubbing 58 && decide (Waits t 2 order1)) = true) := by
  decide +kernel

/-- LoadStageUnload: the last scrub, and one before it. -/
theorem witness_unloaded :
    load_w.running? 0x02 = some load_b ∧ (load_w.scrubStackDone 7).allScrubbed = true ∧
      gives (.scrubComplete none 7) load_w (fun t => t.dev == .ready && decide (t.take.active = none) && !t.flag Reg.HI_GRID_MAPPED &&
        decide (Finished t load_b ok)) = true ∧
      ((load_w.fsetb (Reg.HM_SCRUB_DONE 3) false).scrubStackDone 7).allScrubbed = false ∧
      gives (.scrubComplete none 7) (load_w.fsetb (Reg.HM_SCRUB_DONE 3) false) (fun t => t.dev == .loaded && t.host == load_w.host) = true := by
  decide +kernel

def arm_first : DWord := 1052672
def arm_a := { armable with faults.admission := .complete }

/-- Arming: the first cue at the earliest tick that check 0x03 admits, and one gate less. -/
theorem witness_arm :
    Taken armable order1 ∧ (accepted armable).running? 0x13 = none ∧ firstFail ((accepted armable).armChecks reel1 arm_first.toNat) = none ∧
      gives (.arm order1 arm_first) armable (fun t => t.dev == .armed && decide (t.time.offset = arm_first) && t.take.lastCut == 0 &&
        t.fget Reg.SV_CUTS_CUTS == 0 && decide (Ended t 4 order1 ok)) = true ∧
      bitsOf 7 1 (0x301 : DWord).toNat = 0 ∧ bitOf (0x301 : DWord).toNat 0 = true ∧
      firstFail ((accepted arm_a).armChecks reel1 arm_first.toNat) = none ∧
      gives (.armJoin order1 arm_first 0x301 8192) arm_a (fun t => t.dev == .armed && decide (t.time.offset = arm_first - 8192) &&
        t.take.lastCut == 8192 && t.take.joined && t.fget Reg.SV_CUTS_CUTS == 3 && t.faults.admission == .joined && decide (Ended t 4 order1 ok)) = true ∧
      firstFail ((accepted armable).armChecks reel1 (arm_first.toNat - 4096)) = some (3, 0) ∧
      gives (.arm order1 (arm_first - 4096)) armable (fun t => t.dev == .loaded && t.fget Reg.HI_ARM_CODE == 3 &&
        decide (Ended t 4 order1 (.plain .refused 3))) = true ∧
      gives (.armJoin order1 (arm_first - 4096) 0x301 8192) armable (fun t => t.dev == .loaded && t.fget Reg.HI_ARM_CODE == 3) = true ∧
      gives (.arm order1 (arm_first + 1)) armable (fun t => t.dev == .loaded && decide (Ended t 4 order1 (.plain .refused 3))) = true ∧
      gives (.arm order1 arm_first) armable (fun t => { t with time := { t.time with wall := arm_first, frozen := none } }.planNow == 0) = true := by
  decide +kernel

/-- A lead that serves. -/
def lead (d : DevState) : State := (withReel d).fset Reg.SV_CTRL_ROLE 1

def drain_a := base .armed
def drain_r := { lead .running with take.staged := some reel2 }
def drain_e : StepEntry := { w0 := 0, w4 := 0, q8 := 0, q16 := 0, q24 := 0, q32 := 0, rest := 0 }

/-- DrainExchangeServe: the cut one beyond the current one drains, two beyond exchanges. -/
theorem witness_drain :
    (Taken drain_a order1 ∧ gives (.drain order1 0) drain_a (fun t => t.dev == .loaded && t.time.gates.isEmpty && decide (Ended t 5 order1 ok)) = true) ∧
    (Taken drain_r order1 ∧ (accepted drain_r).fget Reg.SV_CUTS_CUTS < (1 : DWord).toNat ∧
      gives (.drain order1 1) drain_r (fun t => t.dev == .draining && decide (t.take.drainAt = some 1) && decide (Waits t 5 order1)) = true) ∧
    ((accepted drain_r).recState < 2 ∧ drain_r.take.staged.isSome = true ∧ (accepted drain_r).fget Reg.SV_CUTS_CUTS + 2 ≤ (2 : DWord).toNat ∧
      gives (.exchange order1 2 4096) drain_r (fun t => decide (t.take.exchange = some (2, 4096)) && decide (Waits t 6 order1)) = true) ∧
    gives (.exchange order1 0 0) { drain_r with take.exchange := some (2, 0) } (fun t => decide (t.take.exchange = none) && decide (Ended t 6 order1 ok)) = true ∧
    gives (.exchangeCancel order1) { drain_r with take.exchange := some (2, 0) } (fun t => decide (t.take.exchange = none) && decide (Ended t 6 order1 ok)) = true ∧
    ((accepted drain_r).fget Reg.SV_CTRL_ROLE = 1 ∧
      gives (.serve order1 [drain_e]) drain_r (fun t => t.serve.orders.length == 1 && decide (Waits t 7 order1)) = true) := by
  decide +kernel

def copies_s := base .ready
def copies_top : DWord := BitVec.ofNat 64 (hbmSize - 32)
def copies_sp : DWord := 0x4000000000000000
def copies_flag : DWord := 0x8000000000000005

/-- HostCopies: at the top of HBM, and into a scratchpad; a counter flagged; a proxied device. -/
theorem witness_copies :
    (Taken copies_s order1 ∧ (accepted copies_s).copyinAdmits 0 copies_top 32 = true ∧ copyFormed 0 copies_top = true ∧ (accepted copies_s).copyBusy 0 = false ∧
      copyBeyond 0 copies_top 32 = false ∧ copySpace 0 = 0 ∧ copies_s.inWeights copies_top.toNat 32 = false ∧
      copies_s.isRetired copies_top.toNat (32 * ceilDiv 32 32) = false ∧ NoStoreDue copies_s ∧ copyCounter 0 copies_flag = some 5 ∧
      gives (.copyin order1 0 copies_top copies_flag (List.replicate 32 5)) copies_s (fun t => memRead t.hbm copies_top.toNat 32 == List.replicate 32 5 &&
        t.counter 5 == 1 && decide (Ended t 8 order1 ok)) = true) ∧
    (copySpace copies_sp = 1 ∧ (accepted copies_s).copyKey copies_sp = some 0 ∧ copyFormed copies_sp 8 = true ∧ copyBeyond copies_sp 8 4104 = false ∧
      gives (.copyin order1 copies_sp 8 0 (List.replicate 4104 5)) copies_s (fun t => (t.core 0).drizzle.length == 2 && decide (Waits t 8 order1)) = true) ∧
    (gives (.copyout order1 0 64 copies_flag ⟨0x1000, 4⟩) { copies_s with hbm := [(65, 9)] } (fun t => t.out == [.hostWrite 0x1000 [0, 9, 0, 0]] &&
        t.counter 5 == 1 && decide (Ended t 9 order1 ok)) = true) ∧
    (gives (.copyout order1 0 64 0 ⟨0x1000, 2⟩) { copies_s.fset Reg.HI_STATUS_HOSTROLE 3 with hbm := [(65, 9)] }
        (fun t => t.out.contains (.proxyAsk t.gateway .write 0x1000 [0, 9])) = true) ∧
    (gives (.copyout order1 copies_sp 8 0 ⟨0x1000, 4104⟩) copies_s (fun t => (t.core 0).drizzle.length == 2 && decide (Waits t 9 order1)) = true) := by
  decide +kernel

def position_s := base .ready
def position_far := { (position_s.fset Reg.DD_STATUS_DIRECTOR 0) with manage.procW := { Processor.initial with estate := .isolated } }
def position_sheet : List Byte :=
  toBytes 2 1 ++ toBytes 2 7 ++ toBytes 1 0 ++ toBytes 1 1 ++ toBytes 2 0 ++ toBytes 2 2000 ++ toBytes 1014 0

/-- RegisterAndPositionOrders. -/
theorem witness_position :
    Taken position_s order1 ∧ (accepted position_s).farRegister Reg.FC_CFG = false ∧
      gives (.regrd order1 4) position_s (fun t => decide (Ended t 0xA order1 { status := .ok, detail := 0, result := (position_s.view 4).zeroExtend 64, codes := [] })) = true ∧
      gives (.regwr order1 (BitVec.ofNat 64 Reg.FC_CFG) 1) position_s (fun t => decide (Ended t 0xB order1 ok)) = true ∧
      (accepted position_far).farRegister Reg.DD_HB = false ∧ (accepted position_far).farRegister (Reg.HM_STATUS 7) = true ∧
      gives (.regwr order1 (BitVec.ofNat 64 (Reg.HM_STATUS 7)) 1) position_far (fun t => decide (Ended t 0xB order1 (.plain .failed 0x50))) = true ∧
      gives (.cabling order1 (List.replicate 64 0) 4094 1 2) position_s (fun t => t.manage.rack == 4094 && decide (Ended t 0xC order1 ok)) = true ∧
      gives (.cabling order1 (List.replicate 64 0) 4095 1 2) position_s (fun t => t.manage.rack == 0 && decide (Ended t 0xC order1 (.plain .malformed 0))) = true ∧
      gives (.fitness order1 0x2000) { position_s with manage.retired := [(64, 32)] } (fun t => t.out.contains (.hostWrite 0x2000 (retiredBytes [(64, 32)]))) = true := by
  decide +kernel

/-- RegisterAndPositionOrders: a sheet for rack 7, and one byte too few. -/
theorem witness_sheet :
    position_s.manage.sheets.length = 2 ∧ position_s.chosenSheet = some sheet0 ∧ sheetFormed position_sheet = true ∧
      gives (.callsheet order1 position_sheet) position_s (fun t => (t.manage.sheets.map fun c => c.map fun x => (x.rack, x.generation)) ==
        [some (0, 4), some (7, 5)] && decide (Ended t 0xD order1 ok)) = true ∧
      sheetFormed (position_sheet.drop 1) = false ∧
      gives (.callsheet order1 (position_sheet.drop 1)) position_s (fun t => decide (Ended t 0xD order1 (.plain .malformed 0))) = true := by
  decide +kernel

def resume_s := base .ready
def resume_f := base .fenced
def resume_b : Background := { opcode := 0x11, seq := 1, tag := 7 }
def resume_w := { resume_s with host.background := [resume_b] }
def resume_r : ScreenResult :=
  { badSlots := [3], repaired := [], spareLeft := [], retired := [(0, 64)], usableLinks := 64, degradedLinks := 0 }
def resume_c : Completion := resume_s.completion 0xE 1 7 ok
def resume_d :=
  { resume_s with host.reads := [⟨1, []⟩], host.resetAfter := some 1, host.posted := [.completion resume_c] }

/-- ResetResumeScreenAdmit: the resume tick 2^20 after now, rounded up to a multiple of 65,536. -/
theorem witness_resume :
    gives (.reset order1) resume_s (fun t => decide (t.host.resetAfter = some 1) && decide (Ended t 0xE order1 ok)) = true ∧
      gives .deliveryReadComplete resume_d (fun t => t.dev == .boot) = true ∧
      Taken resume_f order1 ∧ (accepted resume_f).recState < 2 ∧ (accepted resume_f).resumeRefused 1 1114112 0 = none ∧
      gives (.resume order1 1 1114112 0) resume_f (fun t => (t.time.stop.map (·.wr)) == some 1114112 && t.dev == .fenced &&
        t.fget Reg.FC_EPOCH_VALUE == 1 && t.fget Reg.FC_RESUME_VALUE == 1114112 && decide (Ended t 0x10 order1 ok)) = true ∧
      (accepted resume_f).resumeRefused 1 1048576 0 = some 0x42 ∧
      gives (.resume order1 1 1048576 0) resume_f (fun t => t.time == resume_f.time && decide (Ended t 0x10 order1 (.plain .refused 0x42))) = true ∧
      Taken resume_s order1 ∧ (accepted resume_s).isolated = false ∧ (accepted resume_s).running? 0x11 = none ∧
      gives (.screen order1) resume_s (fun t => decide (Waits t 0x11 order1)) = true ∧
      resume_w.running? 0x11 = some resume_b ∧ gives (.screenComplete resume_r) resume_w (fun t => decide (Finished t resume_b ok) && t.manage.badSlots == [3] &&
        t.manage.retired == [(0, 64)]) = true := by
  decide +kernel

def admission_s := withReel .loaded
def admission_b : Background := { opcode := 0x13, seq := 1, tag := 7 }
def admission_c := { admission_s with faults.admission := .copying, host.background := [admission_b] }

/-- ResetResumeScreenAdmit: the admission. -/
theorem witness_admission :
    (Taken admission_s order1 ∧ (accepted admission_s).isolated = false ∧ admission_s.faults.admission = .idle ∧
      gives (.admitOrder order1 0 5 5 true) admission_s (fun t => t.faults.admission == .copying && t.serve.ctxs.isEmpty && decide (Waits t 0x13 order1)) = true ∧
      gives (.admitOrder order1 0 5 6 true) admission_s (fun t => t.faults.admission == .idle && decide (Ended t 0x13 order1 (.plain .refused 0x43))) = true) ∧
    (admission_c.running? 0x13 = some admission_b ∧
      gives (.admitCopyComplete [] []) admission_c (fun t => t.faults.admission == .complete && decide (Finished t admission_b ok)) = true ∧
      gives (.admitStandinTimeout [] [] [4]) admission_c (fun t => t.faults.admission == .incomplete && t.serve.lostCtxs == [4] &&
        decide (Finished t admission_b { status := .failed, detail := 0x44, result := 1, codes := [] })) = true) := by
  decide +kernel

def fetch_data : List Byte := List.replicate 32 1
def fetch_c : Chunk := { rank := 0, target := 0, len := 32, dest := 64, raddr := 0, sha := sha256 fetch_data }
def fetch_r : Reel := { reel1 with manifest := { targets := [(0, target1)], chunks := [fetch_c] } }
def fetch_s := { (hbmDone (base .loaded)).fset Reg.FE_PORT_P0 3 with take.active := some fetch_r }
def fetch_b : Background := { opcode := 3, seq := 1, tag := 7 }
def fetch_f := { fetch_s.fset Reg.FE_FETCH_STAT_STATE 1 with host.background := [fetch_b] }
def fetch_v := { fetch_s.fset Reg.FE_FETCH_STAT_STATE 2 with fetch.digests := [(0, fetch_c.sha)], fetch.regions := [(64, 32)] }
def fetch_0 := { hbmDone (base .loaded) with take.active := some reel1 }

/-- ShardFetch: what FETCH does before a read. -/
theorem witness_fetch :
    (Taken fetch_s order1 ∧ (accepted fetch_s).isolated = false ∧ (accepted fetch_s).hbmScrubbed = true ∧ (accepted fetch_s).fetching = false ∧
      (accepted fetch_s).shardVerified fetch_r = false ∧ fetch_s.chunks = [fetch_c] ∧ (accepted fetch_s).targetPorts fetch_r 0 = [0] ∧
      gives (.fetch order1) fetch_s (fun t => t.fetching && t.fetch.verified.isEmpty && decide (Waits t 3 order1)) = true) ∧
    gives (.fetch order1) (base .loaded) (fun t => t.fget Reg.FE_FETCH_STAT_CODE == 3 && decide (Ended t 3 order1 (.plain .state 3))) = true ∧
    gives (.fetch order1) fetch_f (fun t => t.fget Reg.FE_FETCH_STAT_CODE == 5 && decide (Ended t 3 order1 (.plain .busy 5))) = true ∧
    ((accepted fetch_v).shardVerified fetch_r = true ∧
      gives (.fetch order1) fetch_v (fun t => t.fget Reg.FE_FETCH_STAT_CODE == 0 && decide (Ended t 3 order1 ok)) = true) ∧
    (let s := fetch_s.fset Reg.FE_PORT_P0 0
     (accepted s).targetPorts fetch_r 0 = [] ∧ (accepted s).running? 0x03 = none ∧
      gives (.fetch order1) s (fun t => t.fget Reg.FE_FETCH_STAT_CODE == 4 && decide (Ended t 3 order1 (.plain .failed 4))) = true) ∧
    fetch_0.chunks = [] ∧ (accepted fetch_0).shardVerified reel1 = false ∧
      gives (.fetch order1) fetch_0 (fun t => t.fget Reg.FE_FETCH_STAT_STATE == 2 && decide (Ended t 3 order1 ok)) = true := by
  decide +kernel

/-- ShardFetch: one chunk of 32 bytes, good and bad. -/
theorem witness_chunk :
    fetch_f.fetching = true ∧ fetch_f.outstanding.contains 0 = true ∧ fetch_f.chunks[0]? = some fetch_c ∧ fetch_f.flag Reg.FE_FETCH_CFG_REREAD = false ∧
      fetch_f.isRetired 64 32 = false ∧ fetch_data.length = fetch_c.len ∧ sha256 (List.replicate 32 2) ≠ fetch_c.sha ∧
      mapGet (fun _ => 0) fetch_f.fetch.retries 0 < fetch_f.fget Reg.FE_FETCH_CFG_RETRY ∧ fetch_f.targetPorts fetch_r 0 ≠ [] ∧
      gives (.chunkArrival 0 fetch_data false) fetch_f (fun t => t.fetch.verified == [0] && memRead t.hbm 64 32 == fetch_data &&
        t.fget Reg.FE_FETCH_DONE_CHUNKS == 1 && t.fget Reg.FE_FETCH_STAT_STATE == 2 && decide (Finished t fetch_b ok) &&
        t.fget (Reg.FE_SHARD_DIGEST_BYTES 7) == ofBytes (((shaBytes (shardDigest [fetch_c])).drop 28).take 4)) = true ∧
      gives (.chunkArrival 0 (List.replicate 32 2) false) fetch_f (fun t => t.fetching && t.fget Reg.FE_FETCH_RETRIES_COUNT == 1) = true ∧
      gives (.chunkArrival 0 (List.replicate 32 2) false) (fetch_f.fset Reg.FE_FETCH_CFG_RETRY 0) (fun t => !t.fetching &&
        t.fget Reg.FE_FETCH_STAT_CODE == 1) = true ∧
      gives (.chunkArrival 0 fetch_data true) fetch_f (fun t => !t.fetching && t.fget Reg.FE_FETCH_STAT_CODE == 2) = true := by
  decide +kernel

/-! ## Management orders, queues, registers, link requests -/

/-- What the security block finds of an image that key 0 signs. -/
def facts1 : FwFacts := { keyHash := 9, verifies := true, bodyHashOk := true }

/-- An image of version 2 whose body has 4,096 bytes. -/
def image1 : List Host.Cell := [(0, 1), (4, 2), (17, 0x10)]

/-- `base`, with a journal record, the inactive slot B holding that image. -/
def withJournal (d : DevState) (trial : Option Bool) (stage : Nat) : State :=
  let j : Journal := { seq := 1, activeB := false, trial := trial, trials := 3, stage := stage, verA := 0, verB := 0 }
  { base d with manage := { (base d).manage with journals := [j], fwB := some facts1, imgB := image1 } }

def update_s := base .ready
def update_d := withJournal .ready none 1
def update_v := withJournal .ready none 2
def update_t := withJournal .ready (some true) 2

/-- FirmwareUpdates: the orders; the last part of a slot, and one beyond it. -/
theorem witness_update :
    Taken update_s order1 ∧ (accepted update_s).managed = true ∧ update_s.journal.trial = none ∧ (accepted update_s).updateBusy false = false ∧
      gives (.updDownload order1 0 none []) update_s (fun t => decide (Ended t 0x18 order1 ok)) = true ∧
      gives (.updDownload order1 0 none [1]) update_s (fun t => t.image?.isEmpty && t.host.ready.length == 1) = true ∧
      gives (.updDownload order1 (24 * 2 ^ 20) none []) update_s (fun t => decide (Ended t 0x18 order1 ok)) = true ∧
      gives (.updDownload order1 (24 * 2 ^ 20 + 1) none []) update_s (fun t => t.host.ready.length == 1 && t.manage == update_s.manage) = true ∧
      update_d.verifyCode = 0 ∧ gives (.updVerify order1) update_d (fun t => t.journal.stage == 2 && t.fget Reg.SC_UPD_CODE == 0 && decide (Ended t 0x19 order1 ok)) = true ∧
      ({ update_d with manage.minver := 1 }).verifyCode = 2 ∧
      gives (.updVerify order1) { update_d with manage.minver := 1 } (fun t => t.fget Reg.SC_UPD_CODE == 2 && t.journal.stage == 1) = true ∧
      (accepted update_v).isolated = false ∧
      gives (.updActivate order1) update_v (fun t => decide (t.journal.trial = some true) && t.journal.trials == 3 && !t.journal.activeB &&
        decide (Ended t 0x1A order1 ok)) = true ∧
      gives (.updCancel order1) update_v (fun t => t.journal.stage == 0 && decide (Ended t 0x1C order1 ok)) = true ∧
      update_t.inTrial = false ∧
      gives (.updCancel order1) update_t (fun t => decide (t.journal.trial = none) && decide (Ended t 0x1C order1 ok)) = true := by
  decide +kernel

def pldm_c := ((withJournal .ready (some true) 2).fsetb Reg.SC_STATUS_TRIALBOOT true).fsetb Reg.SC_STATUS_BOOTSLOT true
def pldm_p := withJournal .ready none 1
def pldm_v := withJournal .ready none 2
def pldm_x := { pldm_p with manage.procW := { Processor.initial with estate := .contra } }

/-- FirmwareUpdates: the trial's end, and PLDM. -/
theorem witness_pldm :
    pldm_c.mayConfirm = true ∧ (accepted pldm_c).isolated = false ∧ (accepted pldm_c).updateBusy false = false ∧
      gives (.updConfirm order1) pldm_c (fun t => t.journal.activeB && decide (t.journal.trial = none) && decide (Ended t 0x1B order1 ok)) = true ∧
      gives .firmwareConfirm pldm_c (fun t => t.journal.activeB && decide (t.journal.trial = none)) = true ∧
      pldm_p.managed = true ∧ pldm_p.updateBusy true = false ∧ pldm_p.verifyCode = 0 ∧ pldm_p.contra = false ∧
      gives (.pldmFirmwareUpdate (.transfer 7 none [1, 2] false)) pldm_p (fun t => memRead t.image? 4 6 == [2, 0, 0, 1, 2, 0] &&
        t.manage.imgA.isEmpty && t.out.contains (.flashWrite (0x1810000 + 7) [1, 2])) = true ∧
      gives (.pldmFirmwareUpdate (.transfer 0 none [1, 2] false)) pldm_p (fun t => memRead t.image? 0 6 == [1, 2, 0, 0, 0, 0]) = true ∧
      gives (.pldmFirmwareUpdate .verify) pldm_p (fun t => t.fget Reg.SC_UPD_CODE == 0 && t.manage == pldm_p.manage) = true ∧
      gives (.pldmFirmwareUpdate .apply) pldm_p (fun t => t.journal.stage == 2) = true ∧
      gives (.pldmFirmwareUpdate .activate) pldm_v (fun t => decide (t.journal.trial = some true)) = true ∧
      pldm_x.contra = true ∧
      gives (.pldmFirmwareUpdate .apply) pldm_x (fun t => t.manage == pldm_x.manage && t.fget Reg.DD_REFUSED_COUNT == 1) = true ∧
      gives .firmwareConfirm pldm_x (fun t => t.manage == pldm_x.manage && t.fget Reg.DD_REFUSED_COUNT == 1) = true := by
  decide +kernel

/-- A token of key 0 for device 0. -/
def token (scope nonce : Nat) : Token :=
  { body := toBytes 3 0 ++ toBytes 1 scope ++ toBytes 8 nonce ++ toBytes 100 0, keyHash := 9, verifies := true }

def tokens_n := { base .ready with manage := { (base .ready).manage with nonce := some 5, lastNonce := some 5 } }
def tokens_k : Token := token 1 5
def tokens_bad : Token := token 1 6
def tokens_u := tokens_n.fsetb Reg.SC_DEBUG_UNLOCKED true

/-- TokensAndLogs. -/
theorem witness_tokens :
    Taken tokens_n order1 ∧ tokens_n.deviceId = 0 ∧ tokens_n.tokenGood tokens_k 2 = true ∧ tokens_n.tokenGood tokens_k 3 = true ∧
      tokens_n.tokenGood tokens_bad 2 = false ∧ tokens_n.tokenGood tokens_bad 3 = false ∧ tokens_k.scope.getLsbD 1 = false ∧
      gives (.dbgUnlock order1 tokens_k) tokens_n (fun t => t.flag Reg.SC_DEBUG_UNLOCKED && t.fget Reg.SC_DEBUG_SCOPE == 1 && decide (t.manage.nonce = none) &&
        decide (Ended t 0x1E order1 ok)) = true ∧
      gives (.dbgUnlock order1 tokens_bad) tokens_n (fun t => !t.flag Reg.SC_DEBUG_UNLOCKED && decide (t.manage = tokens_n.manage) &&
        decide (Ended t 0x1E order1 (.plain .refused 0x60))) = true ∧
      gives (.dbgRelock order1) tokens_u (fun t => !t.flag Reg.SC_DEBUG_UNLOCKED) = true ∧
      gives (.cnClear order1 tokens_k) tokens_n (fun t => t.log.west.recs.map (·.event) == [0x86] && t.log.east == tokens_n.log.east &&
        decide (t.manage.nonce = none)) = true ∧
      gives (.cnClear order1 tokens_bad) tokens_n (fun t => decide (t.manage = tokens_n.manage) && decide (Ended t 0x21 order1 (.plain .refused 0x61))) = true := by
  decide +kernel

/-- TokensAndLogs: a nonce, whose value is free. -/
theorem witness_nonce : ∃ t x, exec (.dbgNonce order1) tokens_n = .next t ∧ t.manage.nonce = some x := ⟨_, _, rfl, rfl⟩

def dump_s := ((base .ready).logOn 0 0x84 0 0 0 1).logOn 0 0x86 0 0 0 2
def dump_d := { ((base .ready).fsetb Reg.CN_CFG_PROFILE true).fset Reg.CN_CFG_INTERVAL 1 with time.wall := 1000000000 }

/-- TokensAndLogs: a dump of two records, and the dailies' interval. -/
theorem witness_dump :
    Taken dump_s order1 ∧ (0 : DWord).getLsbD 1 = false ∧ (dump_s.log.west.recs.map (·.event)) = [0x84, 0x86] ∧
      gives (.cnDump order1 0 0x1000 128) dump_s (fun t => t.out.contains (.hostWrite 0x1000 (dump_s.log.west.recs.flatMap (·.bytes))) && t.log == dump_s.log &&
        decide (Ended t 0x20 order1 { status := .ok, detail := 0, result := 1, codes := [] })) = true ∧
      dump_d.dailies = true ∧ (dump_d.dieLog 1).cur.wall + 1000000000 * dump_d.fget Reg.CN_CFG_INTERVAL ≤ dump_d.wallNow ∧
      gives (.dailiesInterval 1) dump_d (fun t => t.log.east.cur.index == 1 && t.log.east.closed.length == 1) = true := by
  decide +kernel

def record_s := base .loaded
def record_r := record_s.fset Reg.CN_REC_STATE 1
def record_e : RecEntry := { kind := 2, plan := 5, cut := 0, wall := 9, words := [], entries := [], data := [] }
def record_f : RecEntry := { record_e with kind := 7 }
def record_w :=
  { record_s.fsetb Reg.HI_MB_CTRL_EN true with log.entries := [record_e, record_f], log.recSize := 4096, log.recBase := 0x10000 }
def record_end := { record_w.fset Reg.CN_REC_HEAD_OFFSET 4080 with log.recOfs := 4080 }
def record_full := { record_w.fset Reg.CN_REC_HEAD_OFFSET 32 with log.recOfs := 0 }

/-- RecordAndReplay. -/
theorem witness_record :
    Taken record_s order1 ∧ (0x1000 : DWord).toNat % 4096 = 0 ∧
      gives (.recStart order1 0x1000 0x2000) record_s (fun t => t.recState == 1 && t.log.recBase == 0x1000 && t.log.recSize == 0x2000 &&
        decide (Ended t 0x22 order1 ok)) = true ∧
      gives (.recStart order1 0x1001 0x2000) record_s (fun t => t.recState == 0 && t.log == record_s.log) = true ∧
      gives (.recStart order1 0x1000 0) record_s (fun t => t.recState == 0) = true ∧
      (accepted record_r).recState = 1 ∧ (accepted record_r).recHeld + 32 ≤ 2 ^ 20 ∧
      gives (.recStart order1 0 0x2000) record_r (fun t => t.recState == 0 && t.log.entries.any (fun e => e.kind == 7) && decide (Ended t 0x22 order1 ok)) = true ∧
      gives (.recStop order1) record_r (fun t => t.recState == 0 && t.log.entries.any (fun e => e.kind == 7) && decide (Ended t 0x22 order1 ok)) = true ∧
      gives (.recStart order1 0 0) record_s (fun t => t.log == record_s.log && decide (Ended t 0x22 order1 ok)) = true ∧
      gives (.recStop order1) record_s (fun t => t.log == record_s.log && decide (Ended t 0x22 order1 ok)) = true ∧
      gives (.replay order1 [record_e, record_f]) record_s (fun t => t.log.replayArmed && t.log.stream == [record_e]) = true ∧
      record_w.hostUp = true ∧ record_e.size < record_w.recRoom ∧
      gives .recordEntryWrite record_w (fun t => t.log.entries == [record_f] && t.out.contains (.hostWrite 0x10000 record_e.bytes) &&
        t.log.recOfs == record_e.size) = true ∧
      gives .recordEntryWrite record_end (fun t => t.out.contains (.hostWrite 0x10FF0 (record_e.bytes.take 16)) &&
        t.out.contains (.hostWrite 0x10000 (record_e.bytes.drop 16)) && t.log.recOfs == 16) = true ∧
      record_full.recRoom ≤ record_e.size ∧ gives .recordEntryWrite record_full (fun t => t.log == record_full.log) = true := by
  decide +kernel

def mailbox_s := (base .ready).fsetb Reg.HI_MB_CTRL_EN true
def mailbox_m := ((mailbox_s.fsetb (Reg.HI_PX_DEV_VALID 0) true).fset (Reg.HI_PX_CFG_OQLOG 0) 4).fset (Reg.HI_PX_CFG_CQLOG 0) 4
def mailbox_c : Completion := mailbox_s.completion 9 1 7 ok
def mailbox_p := { mailbox_m with host.ready := [mailbox_c] }
def mailbox_g := { mailbox_m with host.posted := [.completion mailbox_c], host.reads := [⟨1, []⟩] }
def mailbox_b := mailbox_m.setBell 0 { oqTail := 0, oqHead := 0, cqHead := 0, cqTail := 3 }
def mailbox_full := mailbox_p.setBell 0 { oqTail := 0, oqHead := 0, cqHead := 0, cqTail := 16 }
def mailbox_x : Ctx := { Ctx.initial with st := .idle, wrote := 6, head := 2 }
def mailbox_r := ((mailbox_m.fset Reg.SV_CTRL_ROLE 1).fset Reg.SV_CTX_RANGE_HI 9).setCtx 9 mailbox_x
def mailbox_gate := (mailbox_m.fset Reg.HI_STATUS_HOSTROLE 2).fsetb (Reg.HI_PX_DEV_VALID 3) true

/-- Whether a dropped access left one notice and no queue touched. -/
def drops (c : Instr) (s : State) : Bool := gives c s fun t => decide (Noticed s t) && t.host == s.host && t.serve == s.serve

/-- MailboxQueues: posting and delivery. -/
theorem witness_mailbox :
    mailbox_p.hostUp = true ∧ mailbox_p.ownSlot = 0 ∧ mailbox_p.queueRoom = true ∧
      gives .completionPost mailbox_p (fun t => t.host.ready.isEmpty && t.host.posted == [.completion mailbox_c] &&
        t.out.contains (.hostWrite t.queueSlot (mailbox_c.bytes true)) == false && t.out.contains (.hostWrite mailbox_p.queueSlot (mailbox_c.bytes true)) &&
        (t.bell 0).cqTail == 1) = true ∧
      mailbox_full.queueRoom = false ∧ gives .completionPost mailbox_full (fun t => t.host == mailbox_full.host) = true ∧
      gives .deliveryReadComplete mailbox_g (fun t => t.host.posted.isEmpty && t.host.reads.isEmpty && t.out.contains (.delivered 1)) = true ∧
      gives .deliveryReadComplete mailbox_m (fun t => t.out.isEmpty) = true := by
  decide +kernel

/-- MailboxQueues: the doorbells at the edges of their queues. -/
theorem witness_doorbells :
    mailbox_m.pathOpen .pcie = true ∧ drops (.oqTail 0 5 .w64) mailbox_m = true ∧ drops (.cqHead 1 5 .w32) mailbox_m = true ∧
      drops (.ringHead 0 9 6 .other) mailbox_r = true ∧ drops (.oqTail 0 5 .w32) (mailbox_m.fsetb Reg.HI_MB_CTRL_EN false) = true ∧
      gives (.oqTail 0 16 .w32) mailbox_m (fun t => (t.bell 0).oqTail == 16 && t.out == [.hostRead 0 0 16]) = true ∧
      drops (.oqTail 0 17 .w32) mailbox_m = true ∧
      gives (.cqHead 0 3 .w32) mailbox_b (fun t => (t.bell 0).cqHead == 3) = true ∧ drops (.cqHead 0 4 .w32) mailbox_b = true ∧
      gives (.ringHead 0 9 6 .w32) mailbox_r (fun t => (t.ctx 9).head == 6) = true ∧ drops (.ringHead 0 9 7 .w32) mailbox_r = true ∧
      gives (.oqTail 3 1 .w32) mailbox_gate (fun t => t.host == mailbox_gate.host) = true ∧
      (let s := mailbox_m.fset Reg.HI_STATUS_HOSTROLE 3
       s.pathOpen .pcie = false ∧ gives (.oqTail 0 1 .w32) s (fun t => t.out.isEmpty && t.host == s.host) = true) := by
  decide +kernel

def reads_s := { base .ready with time.wall := 0x500000007 }
def reads_r := reads_s.fset (Reg.LK_MALFORMED_COUNT 2) 9
def reads_l := { reads_s with latches := [(latchKey .pcie (Reg.TB_WALL + 4), 6)] }

/-- RegisterReads: a 64-bit quantity, its latch, both at once, and an RC field. -/
theorem witness_reads :
    reads_s.pathOpen .pcie = true ∧ ((rowOf Reg.TB_WALL).map fun r => (r.words, r.high)) = some (2, 0) ∧
      ((rowOf (Reg.TB_WALL + 4)).map (·.high)) = some 1 ∧ reads_s.hiddenSlot Reg.TB_WALL = false ∧ reads_s.hiddenSlot (Reg.TB_WALL + 4) = false ∧
      gives (.lowWordRead .pcie .w32 Reg.TB_WALL) reads_s (fun t => t.out == [.readData .pcie 7] &&
        mapGet latchReset t.latches (latchKey .pcie (Reg.TB_WALL + 4)) == 5) = true ∧
      gives (.rcRead .pcie .w32 (Reg.TB_WALL + 4)) reads_l (fun t => t.out == [.readData .pcie 6]) = true ∧
      gives (.rcRead .pcie .w64 Reg.TB_WALL) reads_l (fun t => t.out == [.readData .pcie 0x500000007]) = true ∧
      gives (.rcRead .i3c .w32 (Reg.LK_MALFORMED 2)) reads_r (fun t => t.out == [.readData .i3c 9] && t.fget (Reg.LK_MALFORMED_COUNT 2) == 0) = true ∧
      gives (.rcRead .pcie .other (Reg.LK_MALFORMED 2)) reads_r (fun t => t.out == [.readData .pcie 0] && decide (Noticed reads_r t) &&
        t.fget (Reg.LK_MALFORMED_COUNT 2) == 9) = true := by
  decide +kernel

/-- RegisterReads: a reserved offset, a slot that is not mapped, OFF, and a closed path. -/
theorem witness_unread :
    (rowOf 0x3FFFFC).isNone = true ∧ reads_s.view 0x3FFFFC = 0 ∧
      gives (.rcRead .pcie .w32 0x3FFFFC) reads_s (fun t => t.out == [.readData .pcie 0] && t.regs == reads_s.regs) = true ∧
      (rowOf (Reg.CL_FLAGS 0 0)).isSome = true ∧ reads_s.hiddenSlot (Reg.CL_FLAGS 0 0) = true ∧
      gives (.rcRead .pcie .w32 (Reg.CL_FLAGS 0 0)) reads_s (fun t => t.out == [.readData .pcie 0]) = true ∧
      gives (.rcRead .i3c .w32 0) { reads_s with dev := .off } (fun t => t.out == [.readData .i3c 0]) = true ∧
      gives (.rcRead .pcie .w32 0) { reads_s with dev := .off } (fun t => t.out.isEmpty) = true := by
  decide +kernel

def writes_s := base .ready
def writes_t0 := base .running

/-- RegisterWrites: an RW field, a limit, a read-only field, write one to clear, a reserved offset, a closed path. -/
theorem witness_writes :
    gives (.registerWrite .regrd .w32 Reg.FC_CFG 0xFFFFFFFF) writes_s (fun t => (((rowOf Reg.FC_CFG).map (·.fields)).getD []).all fun f =>
        if writes_s.mayWrite f && decide (f.acc = .rw) then t.fget ⟨Reg.FC_CFG, f.hi, f.lo⟩ == 2 ^ (f.hi - f.lo + 1) - 1 else true) = true ∧
      ((((rowOf Reg.TB_CTRL).map (·.fields)).getD []).any fun f => decide (f.acc ≠ .ro) && !writes_t0.mayWrite f) = true ∧
      gives (.registerWrite .regrd .w32 Reg.TB_CTRL 0xFFFFFFFF) writes_t0 (fun t => decide (Noticed writes_t0 t) && (((rowOf Reg.TB_CTRL).map (·.fields)).getD []).all fun f =>
        writes_t0.mayWrite f || t.fget ⟨Reg.TB_CTRL, f.hi, f.lo⟩ == writes_t0.fget ⟨Reg.TB_CTRL, f.hi, f.lo⟩) = true ∧
      gives (.registerWrite .pcie .w32 (Reg.HM_STATUS 1) 0xFFFFFFFF) (writes_s.fsetb (Reg.HM_STATUS_WPROT 1) true) (fun t => !t.flag (Reg.HM_STATUS_WPROT 1)) = true ∧
      gives (.registerWrite .pcie .w32 4 0xFFFFFFFF) writes_s (fun t => t.view 4 == writes_s.view 4) = true ∧
      gives (.registerWrite .pcie .w32 0x3FFFFC 7) writes_s (fun t => t.regs == writes_s.regs) = true ∧
      gives (.registerWrite .pcie .w32 2 7) writes_s (fun t => decide (Noticed writes_s t)) = true ∧
      gives (.registerWrite .i3c .w32 Reg.FC_CFG 7) { writes_s with dev := .off } (fun t => t.regs == writes_s.regs) = true := by
  decide +kernel

def commands_s := { base .ready with time.stepLow := 0xFFFFFFF0 }
def commands_r := { base .running with time.stepLow := 1 }
def commands_t := (commands_s.fset Reg.TB_TRIG_STAT_EDGE 3).fset Reg.TB_TRIG_STAT_OVF 3

/-- RegisterCommands. -/
theorem witness_commands :
    commands_s.dev.inTake = false ∧ gives (.tbStep .pcie 0xFFFFFFFF) commands_s (fun t => t.time.wall == 4080 && !t.flag Reg.TB_STATUS_UNALIGNED) = true ∧
      gives (.registerWrite .pcie .w32 (Reg.TB_STEP + 4) 0xFFFFFFFF) commands_s (fun t => t.time.wall == 4080) = true ∧
      gives (.registerWrite .pcie .w32 Reg.TB_STEP 5) commands_s (fun t => t.time.stepLow == 5) = true ∧
      commands_r.dev.inTake = true ∧ gives (.tbStep .pcie 0) commands_r (fun t => t.time == commands_r.time && decide (Noticed commands_r t)) = true ∧
      ([Reg.TB_STEP, Reg.TB_STEP + 4, Reg.TB_TRIG_STAT, Reg.PW_LIMIT].all fun off =>
        gives (.registerWrite .pcie .w32 off 2000) commands_r (fun t => t.time == commands_r.time && decide (Noticed commands_r t))) = true ∧
      gives (.registerWrite .pcie .w32 Reg.TB_TRIG_STAT 0x12) commands_t (fun t => t.fget Reg.TB_TRIG_STAT_EDGE == 1 && t.fget Reg.TB_TRIG_STAT_OVF == 2) = true ∧
      commands_s.flag Reg.HI_MB_CTRL_EN = false ∧ commands_s.host.rewrite = [] ∧
      gives (.hiMbCtrlEn .pcie) commands_s (fun t => t.flag Reg.HI_MB_CTRL_EN && t.host.bells.isEmpty) = true ∧
      gives (.registerWrite .pcie .w32 Reg.HI_MB_CTRL 1) commands_s (fun t => t.flag Reg.HI_MB_CTRL_EN) = true ∧
      gives (.registerWrite .pcie .w32 Reg.HI_MB_CTRL 0) (commands_s.fsetb Reg.HI_MB_CTRL_EN true) (fun t => !t.flag Reg.HI_MB_CTRL_EN) = true ∧
      gives (.cnRecHead .pcie 77) commands_s (fun t => t.reg Reg.CN_REC_HEAD == 77) = true ∧
      gives (.registerWrite .pcie .w32 Reg.PW_LIMIT 1199) commands_s (fun t => decide (Noticed commands_s t) && t.fget Reg.PW_LIMIT_WATTS == commands_s.fget Reg.PW_LIMIT_WATTS) = true ∧
      gives (.registerWrite .pcie .w32 Reg.PW_LIMIT 1200) commands_s (fun t => t.fget Reg.PW_LIMIT_WATTS == 1200) = true ∧
      gives (.registerWrite .pcie .w32 Reg.TB_CTRL 1) commands_s (fun t => t.fget Reg.TB_STATUS_SOURCE == t.source) = true ∧
      gives (.cnRecHead .pcie 77) { commands_s with dev := .off } (fun t => t.reg Reg.CN_REC_HEAD == 0) = true := by
  decide +kernel

def requests_s := base .ready
def requests_used := { requests_s.fsetb (Reg.LK_STATUS_INUSE 2) true with dev := .running }
def requests_up := (requests_s.fset (Reg.LK_STATUS_STATE 2) stateUp).fset (Reg.LK_CABLE_RESULT 2) 1
def requests_off := requests_s.fset (Reg.LK_STATUS_STATE 2) stateDisabled
def requests_asleep := requests_s.fset (Reg.LK_STATUS_STATE 2) stateSleep
def requests_failed := requests_s.fset (Reg.LK_STATUS_STATE 2) stateFailed

/-- LinkRequests. -/
theorem witness_requests :
    requests_used.linkUsed 2 = true ∧ gives (.lkCtrlEn .pcie 2 false) requests_used (fun t => t.linkState 2 == requests_used.linkState 2 &&
        decide (Noticed requests_used t) && t.flag (Reg.LK_CTRL_EN 2) == requests_used.flag (Reg.LK_CTRL_EN 2)) = true ∧
      requests_up.linkUsed 2 = false ∧ gives (.lkCtrlEn .pcie 2 false) requests_up (fun t => t.linkState 2 == stateDisabled && !t.flag (Reg.LK_CTRL_EN 2)) = true ∧
      gives (.lkCtrlEn .pcie 2 true) requests_off (fun t => t.linkState 2 == stateDown && t.flag (Reg.LK_CTRL_EN 2)) = true ∧
      requests_up.linkOpen 2 = true ∧ gives (.retrain .pcie 2) requests_up (fun t => t.linkState 2 == stateTrain && t.out == [.trainSet 2 (requests_up.trainBody 2)]) = true ∧
      requests_up.matched 2 = true ∧ gives (.lkSleepRequest .pcie 2) requests_up (fun t => (t.link 2).sleepAsked && t.out == [.sleepSet 2 true false]) = true ∧
      gives (.lkSleepRequest .pcie 2) requests_off (fun t => !t.flag (Reg.LK_CTRL_SLEEP 2) && t.out.isEmpty) = true ∧
      gives (.retrain .pcie 2) requests_failed (fun t => t.linkState 2 == stateDown) = true ∧
      gives (.retrain .pcie 2) requests_off (fun t => t.linkState 2 == stateDisabled && t.flag (Reg.LK_CTRL_RETRAIN 2)) = true ∧
      gives (.wake .pcie 2) requests_asleep (fun t => t.linkState 2 == stateWake && t.out == [.wakeSignal 2]) = true ∧
      gives (.wake .pcie 2) requests_off (fun t => t.linkState 2 == stateDisabled && t.flag (Reg.LK_CTRL_WAKE 2)) = true ∧
      gives (.registerWrite .pcie .w32 (Reg.LK_CTRL 2) 0x301) requests_up (fun t => t.fget (Reg.LK_CTRL_LANEEN 2) == 3) = true ∧
      gives (.registerWrite .pcie .w32 (Reg.LK_CTRL 2) (BitVec.ofNat 64 (0x300 + b2n (requests_used.flag (Reg.LK_CTRL_EN 2))))) requests_used (fun t =>
        t.fget (Reg.LK_CTRL_LANEEN 2) == requests_used.fget (Reg.LK_CTRL_LANEEN 2) && decide (Noticed requests_used t)) = true ∧
      gives (.wake .i3c 2) { requests_asleep with dev := .off } (fun t => t.linkState 2 == stateSleep) = true := by
  decide +kernel

/-! ## Bundles and operations -/

/-- A core with registers to work on. -/
def core1 : Core :=
  { Core.initial with
    sregs := [(1, ⟨7, false⟩), (2, ⟨0xFFFFFFFFFFFFFFFD, false⟩), (4, ⟨5, true⟩)],
    preds := [(1, ⟨true, false⟩), (2, ⟨true, true⟩)],
    vregs := [(1, ⟨0x3F800000, 0⟩), (2, ⟨0x40000000, 0⟩), (3, ⟨0x40400000, 1⟩)] }

/-- A sequencer at its current bundle, in cycle 5. -/
def seq1 : Seq := { Seq.initial with running := true, at_ := 5, now := 5, dur := 1 }

/-- A running device whose cluster 0 has core slot 0 mapped, with that core and sequencer. -/
def cell (q : Seq) (c : Core) : State :=
  { withReel .running with seqs := [(0, q)], cores := [(0, c)] }.fsetb (Reg.CL_SLOT_ID_MAPPED 0 0) true

/-- That cluster with a stream of `n` plain bundles. -/
def streamed (n : Nat) (q : Seq) (c : Core) : State :=
  let r := { reel1 with clusters := [(0, { bundles := List.replicate n 0, shapes := [{ gates := 2, cues := [⟨0, 0, []⟩] }] })] }
  { cell q c with take.active := some r }

/-- The current bundle of cluster 0, unguarded. -/
def here : Issue := ⟨0, 0, 0⟩

/-- Whether an operation gives the core exactly these results on their way. -/
def pends (c : Instr) (s : State) (ws : List PendWrite) : Bool := gives c s fun t => (t.core 0).pend == ws

/-- A stream of four plain bundles but for the second one. -/
def streamWith (b : BitVec 512) (q : Seq) (c : Core) : State :=
  let r := { reel1 with clusters := [(0, { bundles := [0, b, 0, 0], shapes := [{ gates := 2, cues := [⟨0, 0, []⟩] }] })] }
  { cell q c with take.active := some r }

def issue_s := streamed 4 seq1 core1
def issue_a := streamed 4 { seq1 with pc := 1, stack := [.arm 2 3] } core1
def issue_f := streamed 4 { seq1 with pc := 2, fresh := true, dur := 0 } core1
def issue_u := (issue_s.issue here .s).1
def issue_v := (issue_s.issue ⟨0, 1, 0⟩ .s).1
def issue_w := (issue_a.issue ⟨0, 1, 0⟩ .v1).1
def issue_x := (issue_f.issue ⟨0, 1, 0⟩ .v1).1
def issue_due := streamed 4 seq1 { core1 with pend := [⟨6, 5, 0, .sreg 1 ⟨9, false⟩⟩, ⟨7, 5, 0, .sreg 2 ⟨9, false⟩⟩] }

/-- IssueOfABundle: the current bundle, the next one, behind both arms, a segment's first. -/
theorem witness_issue :
    issue_s.canIssue 0 = true ∧ (issue_s.issue here .s).2 = true ∧ (issue_u.seq 0).used.getLsbD Slot.s.bit = true ∧
      issue_s.canAdvance 0 = true ∧ (issue_s.seq 0).now ≤ (issue_s.seq 0).at_ + (issue_s.seq 0).dur ∧ issue_s.bundle 0 1 = some 0 ∧ issue_s.bundleCheck 0 1 = .clean ∧
      headBad 0 = false ∧ slotCauses 0 = [] ∧
      (issue_s.issue ⟨0, 1, 0⟩ .s).2 = true ∧ (issue_v.seq 0).pc = 1 ∧ (issue_v.seq 0).at_ = 6 ∧ (issue_v.seq 0).now = 6 ∧
      (issue_a.issue ⟨0, 1, 0⟩ .v1).2 = true ∧ (issue_w.seq 0).pc = 3 ∧ (issue_w.seq 0).stack = [] ∧ issue_w.fget (Reg.CL_SEQ_PC_PC 0) = 3 ∧
      (issue_f.issue ⟨0, 1, 0⟩ .v1).2 = true ∧ (issue_x.seq 0).pc = 2 ∧ (issue_x.seq 0).at_ = 5 ∧ issue_x.fget (Reg.CL_SEQ_PC_PC 0) = 2 ∧
      (((issue_due.issue ⟨0, 1, 0⟩ .s).1.core 0).pend.map (·.due)) = [7] := by
  decide +kernel

/-- IssueOfABundle: what does not issue, and what halts. -/
theorem witness_stays :
    (issue_u.issue here .s).2 = false ∧ (cell Seq.initial core1).canIssue 0 = false ∧
      ((streamed 4 { seq1 with wait := some ⟨3, 2, 50, 0, none⟩ } core1).issue ⟨0, 1, 0⟩ .s).2 = false ∧
      slotCauses (BitVec.ofNat 512 (0xFF * 2 ^ 104)) = [1] ∧ slotCauses (BitVec.ofNat 512 (2 ^ 32)) = [3] ∧
      (let t := ((streamWith (BitVec.ofNat 512 (0xFF * 2 ^ 104)) seq1 core1).issue ⟨0, 1, 0⟩ .s).1
       t.halted 0 = true ∧ t.fget (Reg.CL_SEQ_HALT_REASON 0) = 1) := by
  decide +kernel

def results_s := fun x => cell seq1 { core1 with pend := [⟨6, 5, 0, x⟩] }
def results_early := (results_s (.sreg 1 ⟨9, false⟩)).toCycle 0 5
def results_late := (results_s (.sreg 1 ⟨9, false⟩)).toCycle 0 6
def results_flag := (results_s (.pred 3 ⟨true, false⟩)).toCycle 0 6
def results_lanes := (results_s (.vreg 3 ⟨9, 0⟩)).toCycle 0 6
def results_held := (results_s (.acc 3 9 false)).toCycle 0 6
def results_stored := (results_s (.bytes 13 [1, 2, 3] [false])).toCycle 0 6

/-- ResultsReachTheirTargets: a result due in cycle 6. -/
theorem witness_results :
    (0 ∈ results_early.coresOf 0) ∧ results_early.sval 0 1 = ⟨7, false⟩ ∧ (results_early.core 0).pend.length = 1 ∧
      results_late.sval 0 1 = ⟨9, false⟩ ∧ results_late.sval 0 2 = ⟨0xFFFFFFFFFFFFFFFD, false⟩ ∧ (results_late.core 0).pend = [] ∧
      results_flag.predicate 0 3 = ⟨true, false⟩ ∧ results_lanes.vval 0 3 = ⟨9, 0⟩ ∧ results_held.accEntry 0 3 = AccEntry.fresh 9 false ∧
      results_stored.spadBytes 0 12 5 = [0, 1, 2, 3, 0] := by
  decide +kernel

def scalar_s := cell seq1 core1
def scalar_r := fun (lat : Nat) (v : DWord) => [(⟨5 + lat, 5, 0, .sreg 3 ⟨v, false⟩⟩ : PendWrite)]

/-- ScalarOperations: 7 and -3, the signed and the shifted corners, poison, guards. -/
theorem witness_scalar :
    (scalar_s.issue here .s).2 = true ∧ pgValid 0 = true ∧ readOnlyScalar 3 = false ∧ Clear (scalar_s.issue here .s).1 0 1 ∧ Clear (scalar_s.issue here .s).1 0 3 ∧
      pends (.add here 3 1 2) scalar_s (scalar_r 1 4) = true ∧ pends (.sub here 3 2 1) scalar_s (scalar_r 1 (-10)) = true ∧ pends (.mul here 3 1 2) scalar_s (scalar_r 3 (-21)) = true ∧
      pends (.and here 3 1 2) scalar_s (scalar_r 1 5) = true ∧ pends (.or here 3 1 2) scalar_s (scalar_r 1 (-1)) = true ∧ pends (.xor here 3 1 2) scalar_s (scalar_r 1 (-6)) = true ∧
      pends (.shl here 3 1 2) scalar_s (scalar_r 1 0xE000000000000000) = true ∧ pends (.shr here 3 2 1) scalar_s (scalar_r 1 0x1FFFFFFFFFFFFFF) = true ∧
      pends (.sar here 3 2 1) scalar_s (scalar_r 1 (-1)) = true ∧ pends (.min here 3 1 2) scalar_s (scalar_r 1 (-3)) = true ∧ pends (.max here 3 1 2) scalar_s (scalar_r 1 7) = true ∧
      pends (.addi here 3 1 0xFFFFFFFF) scalar_s (scalar_r 1 6) = true ∧ pends (.movi here 3 0x80000000) scalar_s (scalar_r 1 0xFFFFFFFF80000000) = true ∧
      pends (.movhi here 2 5) scalar_s [⟨6, 5, 0, .sreg 2 ⟨0x5FFFFFFFD, false⟩⟩] = true ∧
      pends (.add here 3 1 4) scalar_s [⟨6, 5, 0, .sreg 3 ⟨12, true⟩⟩] = true ∧
      pends (.add ⟨0, 0, 8⟩ 3 1 2) scalar_s [] = true ∧ pends (.add ⟨0, 0, 9⟩ 3 1 2) scalar_s (scalar_r 1 4) = true ∧
      pends (.add ⟨0, 0, 10⟩ 3 1 2) scalar_s [⟨6, 5, 0, .sreg 3 ⟨4, true⟩⟩] = true := by
  decide +kernel

def compare_s := cell seq1 core1
def compare_r := fun (v : Bool) => [(⟨6, 5, 0, .pred 3 ⟨v, false⟩⟩ : PendWrite)]

/-- ScalarOperations: the six conditions of CMP on -3 and 7. -/
theorem witness_compare :
    pends (.cmp here 3 2 0x100) compare_s (compare_r false) = true ∧ pends (.cmp here 3 2 0x101) compare_s (compare_r true) = true ∧
      pends (.cmp here 3 2 0x102) compare_s (compare_r true) = true ∧ pends (.cmp here 3 2 0x103) compare_s (compare_r false) = true ∧
      pends (.cmp here 3 2 0x104) compare_s (compare_r false) = true ∧ pends (.cmp here 3 2 0x105) compare_s (compare_r true) = true := by
  decide +kernel

def lds_c := { core1 with sregs := [(1, ⟨13, false⟩), (2, ⟨0x11223344, false⟩), (3, ⟨0x17FFFF8, false⟩)] }
def lds_s := { cell seq1 lds_c with spad := [(14, 0xAB), (15, 0xCD)] }
def lds_u := (lds_s.issue here .s).1

/-- ScalarMemory: two bytes at 13 + 1 and eight bytes at the top. -/
theorem witness_lds :
    BanksFree lds_u 0 ∧ Clear lds_u 0 6 ∧ Clear lds_u 0 2 ∧ CleanGranules lds_u 0 1 1 ∧ lds_u.writeBarred 0 14 2 = false ∧
      pends (.lds here 4 1 0x40000001) lds_s [⟨11, 5, 0, .sreg 4 ⟨0xCDAB, false⟩⟩] = true ∧
      pends (.sts here 2 1 0x40000001) lds_s [⟨7, 5, 0, .bytes 14 [0x44, 0x33] [false]⟩] = true := by
  decide +kernel

def control_q := { seq1 with pc := 10 }
def control_s := streamed 40 control_q { core1 with sregs := [(1, ⟨3, false⟩), (2, ⟨-1, false⟩)] }
def control_u := (control_s.issue here .s).1

/-- ControlFlow: both arms, a loop, one passed over and one with an empty body, a lull run, and the ends of a body. -/
theorem witness_control :
    control_u.controlVals 0 1 = [⟨3, false⟩] ∧ control_u.controlVals 0 0 = [⟨0, false⟩] ∧ (control_s.issue here .head).2 = true ∧
      (control_s.issue here .s).2 = true ∧ Clear control_u 0 1 ∧
      gives (.brb here 1 1 4) control_s (fun t => (t.seq 0).jump == some 11 && (t.seq 0).dur == 3 && (t.seq 0).stack == [.arm 15 19]) = true ∧
      gives (.brb here 1 0 4) control_s (fun t => (t.seq 0).jump == some 15 && (t.seq 0).stack == [.arm 19 19]) = true ∧
      gives (.brb here 2 2 4) control_s (fun t => (t.seq 0).jump == some 11) = true ∧
      gives (.loop here 1 5 2 3) control_s (fun t => (t.seq 0).jump == some 11 && (t.seq 0).stack == [.loop 11 2 2 3 3 5] &&
        (t.core 0).pend == [⟨6, 5, 0, .sreg 5 ⟨0, false⟩⟩]) = true ∧
      gives (.loop here 1 5 0 4) control_s (fun t => (t.seq 0).jump == some 11 && (t.seq 0).stack.isEmpty &&
        (t.core 0).pend == [⟨6, 5, 0, .sreg 5 ⟨2, false⟩⟩]) = true ∧
      gives (.loop here 0 5 2 4) control_s (fun t => (t.seq 0).jump == some 13 && (t.seq 0).skip == 8) = true ∧
      gives (.lullRun here 77 true) control_s (fun t => (t.seq 0).dur == 77 && (t.seq 0).lull) = true ∧
      flow 2 13 [.loop 11 2 1 3 4 5] 0 = (11, [.loop 11 2 0 3 4 5], 0, some (5, 2)) ∧ flow 2 13 [.loop 11 2 0 3 4 5] 0 = (13, [], 2, none) := by
  decide +kernel

def halts_s := cell seq1 { core1 with pipeFree := [6, 0] }
def halts_deep := cell { seq1 with stack := List.replicate 8 (.arm 1 2) } core1
def halts_two := { halts_s with cores := [(0, core1), (1, { core1 with sregs := [] })] }.fsetb (Reg.CL_SLOT_ID_MAPPED 0 1) true
def halts_pair := halts_two.fset (Reg.CL_SLOT_ID_VCORE 0 1) 1
def halts_bar := ((halts_s.fset (Reg.CL_REGION_KIND 0 0 0) 1).fset (Reg.CL_REGION_BASE 0 0 0) 0).fset (Reg.CL_REGION_LEN 0 0 0) 1

/-- Whether a command halts cluster 0 with a reason. -/
def haltsAt (c : Instr) (s : State) (r : Nat) : Bool := gives c s fun t => t.halted 0 && t.fget (Reg.CL_SEQ_HALT_REASON 0) == r

/-- HaltReasons. -/
theorem witness_halts :
    halts_s.halted 0 = false ∧ (halts_s.issue here .head).1.headReported 0 = false ∧ halts_bar.writeBarred 0 8 1 = true ∧
      haltsAt (.lullRun here 0 true) halts_s 2 = true ∧ haltsAt (.lullRun here 5 false) halts_s 2 = true ∧
      haltsAt (.add ⟨0, 0, 1⟩ 3 1 2) halts_s 3 = true ∧ haltsAt (.sts ⟨0, 0, 1⟩ 3 1 2) halts_s 3 = true ∧ haltsAt (.sub here 0 1 2) halts_s 4 = true ∧
      haltsAt (.movi here 31 2) halts_s 4 = true ∧
      haltsAt (.cmp here 3 1 6) halts_s 3 = true ∧ haltsAt (.brb here 1 0 3) halts_deep 8 = true ∧ haltsAt (.lds here 3 1 0x80000000) halts_s 0x22 = true ∧
      haltsAt (.sts here 3 1 0x80000000) halts_s 0x22 = true ∧ haltsAt (.sts here 3 1 1) halts_bar 0x23 = true ∧
      haltsAt (.brb here 4 0 3) halts_s 0x27 = true ∧ haltsAt (.brb here 1 0 3) halts_pair 0x43 = true ∧ haltsAt (.loop here 1 5 2 6) halts_s 0x26 = true ∧
      haltsAt (.vadd here 1 3 1 2 5) halts_s 6 = true ∧ haltsAt (.vcmp here 1 3 1 2 5) halts_s 3 = true ∧ haltsAt (.vsfu here 1 3 1 0 0) halts_s 7 = true ∧
      haltsAt (.vadd here 0 3 1 2 0) halts_s 0x48 = true ∧ haltsAt (.wait here 2048 1 5 0) halts_s 0x0B = true := by
  decide +kernel

/-! ## Vector, matrix, transfers -/

/-- Lane 0, its granule's poison, and the due cycle of the only result on its way, a vector. -/
def lane0 (c : Instr) (s : State) (due : Nat) (x : Nat) (poison : Bool) : Bool :=
  gives c s fun t => match (t.core 0).pend with
    | [⟨d, 5, 0, .vreg 3 v⟩] => d == due && v.lane 0 == x && v.lanePoison 0 == poison
    | _ => false

def vector_s := cell seq1 core1
def vector_u := (vector_s.issue here .v0).1

/-- VectorArithmetic: 1.0 and 2.0 in lane 0, and the poisoned 3.0. -/
theorem witness_vector :
    (vector_s.issue here .v0).2 = true ∧ (vector_s.issue here .v1).2 = true ∧ PipeReady vector_u 0 0 ∧ PipeReady vector_u 0 1 ∧ NoTraps vector_u 0 ∧ Clear vector_u 0 4 ∧ roundOf 0 = some .rne ∧
      lane0 (.vadd here 0 3 1 2 0) vector_s 9 0x40400000 false = true ∧ lane0 (.vsub here 1 3 1 2 1) vector_s 9 0xBF800000 false = true ∧
      lane0 (.vmul here 0 3 2 3 0) vector_s 9 0x40C00000 true = true ∧ lane0 (.vfma here 1 3 2 2 1 2) vector_s 9 0x40A00000 false = true ∧
      lane0 (.vmin here 0 3 1 2) vector_s 9 0x3F800000 false = true ∧ lane0 (.vmax here 0 3 1 2) vector_s 9 0x40000000 false = true := by
  decide +kernel

def select_s := cell seq1 core1
def select_u := (select_s.issue here .v0).1

/-- VectorSelection. -/
theorem witness_select :
    Clear select_u 0 2 ∧ Clear select_u 0 3 ∧
      lane0 (.vcmp here 0 3 1 2 0) select_s 7 0 false = true ∧ lane0 (.vcmp here 0 3 1 2 4) select_s 7 0 false = true ∧
      lane0 (.vsel here 0 3 1 2 0) select_s 7 0x40000000 false = true ∧ lane0 (.vsel here 0 3 1 2 3) select_s 7 0x3F800000 true = true ∧
      pends (.vpset here 0 3 1 0) select_s [⟨7, 5, 0, .pred 3 ⟨true, false⟩⟩] = true ∧
      pends (.vpset here 0 3 1 8) select_s [⟨7, 5, 0, .pred 3 ⟨false, false⟩⟩] = true ∧
      lane0 (.vperm here 0 3 1 0) select_s 8 0x3F800000 false = true := by
  decide +kernel

def functions_s := cell seq1 { core1 with vregs := [(1, ⟨0x40800000, 0⟩)], acc := [(128, AccEntry.fresh 1 false)] }
def functions_u := (functions_s.issue here .v0).1

/-- VectorFunctions: a sum in lane 0, the exact square root and reciprocal of 4, a W40 entry of the smallest magnitude. -/
theorem witness_functions :
    Clear functions_u 0 4 ∧ Clear functions_u 0 28 ∧ Clear functions_u 0 16 ∧ Clear functions_u 0 8 ∧ functions_u.checking 0 = false ∧ vcvtDecode 0 0 0 = [] ∧
      (∀ k ∈ upFrom 0 128, (functions_u.accEntry 0 (128 + k)).parityBad = false) ∧
      lane0 (.vred here 0 3 1 0 0) functions_s 33 0x40800000 false = true ∧ lane0 (.vsfu here 0 3 1 0 2) functions_s 21 0x3E800000 false = true ∧
      gives (.vacc here 0 3 0 1) functions_s (fun t => match (t.core 0).pend with
        | [⟨13, 5, 0, .vreg 3 v⟩] => v.lane 0 == (fmtF32.round .rne false 0 (fmtW40.decode 1)).1 && v.lane 1 == 0
        | _ => false) = true := by
  decide +kernel

def vld_c := { core1 with sregs := [(1, ⟨0x17FFE00, false⟩)] }
def vld_s := { cell seq1 vld_c with spad := [(0x17FFE00, 0x11), (0x17FFFFF, 0x22)] }
def vld_u := (vld_s.issue here .v0).1

/-- VectorMemory: the last 512 bytes. -/
theorem witness_vld :
    BanksFree vld_u 0 ∧ Clear vld_u 0 8 ∧ Clear vld_u 0 1 ∧ CleanGranules vld_u 0 (0x17FFE00 / 8) 64 ∧ 0x17FFE00 % 512 = 0 ∧ 0x17FFE00 + 512 ≤ spadSize ∧
      vld_u.writeBarred 0 0x17FFE00 512 = false ∧
      gives (.vld here 0 3 1 0) vld_s (fun t => match (t.core 0).pend with
        | [⟨13, 5, 0, .vreg 3 v⟩] => v.lane 0 == 0x11 && v.lane 127 == 0x22000000 && v.p == 0
        | _ => false) = true ∧
      gives (.vst here 0 1 1 0) vld_s (fun t => match (t.core 0).pend with
        | [⟨6, 5, 0, .bytes 0x17FFE00 b p⟩] => b.length == 512 && p.length == 64
        | _ => false) = true := by
  decide +kernel

/-- A dense 32 × 32 × 32 operation on four-bit blocks, results into the accumulators. -/
def mma1 : MmaBits :=
  { form := 0, sfmt := 0, afmt := 0, m := 0, k := 0, n := 0, sparse := 0, wit := 0, dest := 1, accum := 0, tfmt := 6, rnd := 0, sat := 0, fade := 0,
    sa := 0, sb := 0, so := 0, st := 0 }

/-- It runs since cycle 0, its first pass due on every array. -/
def run1 : MmaRun :=
  { bits := mma1, aAddr := 0, bAddr := 0, outAddr := 0, tensor := 0, off := false, poison := false, issue := 0, start := 0,
    next := [1, 0, 0, 0], slotAt := [5, 5, 5, 5], endAt := 500, tag := 0 }

def mma_s := cell seq1 core1
def mma_r := cell seq1 { core1 with running := some run1 }
def mma_w := cell seq1 { core1 with waiting := some run1 }

/-- MatrixIssue. -/
theorem witness_mma :
    mma1.decodeErrors = [] ∧ mma1.paramErrors = [] ∧ mma1.scalarErrors 0 0 0 = [] ∧ (mma_s.issue here .m).2 = true ∧ run1.allStarted = false ∧
      gives (.mma here mma1) mma_s (fun t => ((t.core 0).running.map fun mma_r => (mma_r.start, mma_r.slotAt)) ==
        some (5, [5 + max mma1.geo.load 32, 13 + max mma1.geo.load 32, 21 + max mma1.geo.load 32, 29 + max mma1.geo.load 32]) &&
        (t.core 0).warm == 15) = true ∧
      gives (.mma here mma1) mma_r (fun t => ((t.core 0).waiting.map (·.bits)) == some mma1 && (t.core 0).running == some run1) = true ∧
      gives (.mma here mma1) mma_w (fun t => t.halted 0 && t.fget (Reg.CL_SEQ_HALT_REASON 0) == 0x44) = true := by
  decide +kernel

def passes_c0 : CoreId := ⟨0, 0⟩
def passes_s := cell seq1 { core1 with running := some run1 }
def passes_over := { run1 with next := [1, 1, 1, 1], endAt := 6 }
def passes_e := cell seq1 { core1 with running := some passes_over }
def passes_w := cell seq1 { core1 with waiting := some { run1 with start := 6 } }
def passes_f := cell seq1 { core1 with fadeUntil := some 6, warm := 15 }
def passes_h := { cell seq1 { core1 with holdFaded := 15 } with time.hold := some ⟨0, 0, 1, false⟩ }

/-- MatrixProgress: a pass of an idle array, the end, the take-up, the fades. -/
theorem witness_passes :
    passes_s.duePass 0 0 = none ∧ ((passes_s.duePass 0 1).map (·.2.arr)) = some 1 ∧ (∀ x ∈ (passes_s.duePass 0 1).toList, passes_s.passChecks 0 x.1 x.2 = []) ∧
      gives (.passStart passes_c0 0 0) passes_s (fun t => (t.core 0).running == some run1) = true ∧
      gives (.passStart passes_c0 0 1) passes_s (fun t => ((t.core 0).running.map (·.next)) == some [1, 1, 0, 0]) = true ∧
      gives (.mmaComplete passes_c0 1) passes_e (fun t => (t.core 0).running == none) = true ∧
      gives (.mmaComplete passes_c0 0) passes_e (fun t => (t.core 0).running == some passes_over) = true ∧
      gives (.pendingTakeup passes_c0 1) passes_w (fun t => (t.core 0).waiting == none && (t.core 0).running.isSome) = true ∧
      gives (.fadeOutEnd passes_c0 1) passes_f (fun t => (t.core 0).warm == 0) = true ∧ gives (.fadeOutEnd passes_c0 0) passes_f (fun t => (t.core 0).warm == 15) = true ∧
      gives (.fadeIn passes_c0 2) passes_h (fun t => (t.core 0).warm == 4 && (t.core 0).holdFaded == 11) = true := by
  decide +kernel

/-- A descriptor: kind, FLAG, LANDOFS, DCORE, DADDR, SADDR, LEN, ROWS, strides of 64 bytes. -/
def descBits (kind dcore daddr saddr len rows : Nat) : BitVec 256 :=
  BitVec.ofNat 256 (kind * 2 ^ 252 + 2 ^ 251 + 100 * 2 ^ 200 + dcore * 2 ^ 176 + daddr * 2 ^ 128 + saddr * 2 ^ 88 + len * 2 ^ 64 +
    rows * 2 ^ 48 + 2 ^ 24 + 1)

/-- The running cell with one descriptor loaded, and data at 0x1000 of both memories. -/
def sender (d : BitVec 256) : State :=
  let r := { reel1 with cores := [(0, { descs := [(5, d)], regions := [], trapEn := 0, resident := [] })] }
  { cell seq1 core1 with take.active := some r, spad := [(0x1000, 1), (0x1040, 2)], hbm := [(0x1000, 3), (0x1040, 4)] }

/-- The rows of the only landing on its way. -/
def rowsOf (l : List Landing) : List (Nat × List Byte) := l.flatMap fun x => x.rows.map fun r => (r.1, r.2.1.take 1)

def transfers_a := sender (descBits 2 0 0x2000 0x1000 64 2)
def transfers_b := sender (descBits 0 0 0x2000 0x1000 64 2)
def transfers_c := sender (descBits 1 0 0x2000 0x1000 64 2)
def transfers_x := fun (ld : Bool) => Instr.xfer here ld 5 0 0 0 7

/-- Transfers: scratchpad to scratchpad, HBM to scratchpad, scratchpad to HBM, a foreign slot. -/
theorem witness_transfers :
    ((transfers_a.xferArgs 0 5 0 0 0 7 false).fits = true) ∧ ((transfers_b.xferArgs 0 5 0 0 0 7 false).fits = true) ∧ (transfers_c.xferArgs 0 5 0 0 0 7 false).fits = true ∧
      (transfers_a.coreOfDcore 0) = some 0 ∧ transfers_a.checking 0 = false ∧ transfers_b.manage.retired = [] ∧
      gives (transfers_x false) transfers_a (fun t => rowsOf (t.core 0).inflight == [(0x2000, [1]), (0x2040, [2])] && (t.core 0).inflight.map (·.p) == [107]) = true ∧
      gives (transfers_x true) transfers_b (fun t => rowsOf (t.core 0).inflight == [(0x2000, [3]), (0x2040, [4])]) = true ∧
      gives (transfers_x false) transfers_c (fun t => rowsOf (t.stack (stackOf 0x2000)).landing == [(0x2000, [1]), (0x2040, [2])]) = true ∧
      gives (transfers_x true) transfers_a (fun t => t.halted 0 && t.fget (Reg.CL_SEQ_HALT_REASON 0) == 0x0C) = true := by
  decide +kernel

/-- Transfers: granules and units without errors. -/
theorem witness_clean : (∀ g, (transfers_a.granMeta 0 g).check = .clean) ∧ (∀ g, (transfers_b.unitMeta g).check = .clean) :=
  ⟨fun _ => rfl, fun _ => rfl⟩

def others_g := sender (descBits 5 0 0x2000 0 64 2)
def others_k := sender (descBits 4 0 0x2000 0x1000 64 2)
def others_l := { sender (descBits 3 0 0x2000 0x1000 64 2) with take.labels := [(0, 0x8000000000000000)] }
def others_z := sender (descBits 7 0 0x2000 0x1000 64 2 ||| BitVec.ofNat 256 (others_l.deviceId * 2 ^ 182))
def others_x := fun (ld : Bool) => Instr.xfer here ld 5 0 0 0 7

/-- Transfers: a gather, a decoded block, a send to another device, a write through the drizzle port of this one. -/
theorem witness_others :
    ((others_g.xferArgs 0 5 0 0 0 7 false).fits = true) ∧ ((others_k.xferArgs 0 5 0 0 0 7 false).fits = true) ∧ (others_z.xferArgs 0 5 0 0 0 7 false).fits = true ∧
      labelSends (others_l.label none 0) = true ∧ (others_z.desc 0 5).ddev = others_z.deviceId ∧ others_z.coreOfDcore 0 = some 0 ∧
      gives (others_x true) others_g (fun t => (t.core 0).inflight.map (·.rows.length) == [2]) = true ∧
      gives (others_x true) others_k (fun t => (t.core 0).inflight.map (·.rows.length) == [2]) = true ∧
      gives (others_x false) others_l (fun t => (upFrom 0 64).any fun n => !(t.link n).vc2.isEmpty) = true ∧
      gives (others_x false) others_z (fun t => ((t.core 0).drizzle.flatMap fun r => writeData r.op) == others_z.spadBytes 0 0x1000 128) = true := by
  decide +kernel

def convert_s := cell seq1 { core1 with vregs := [(1, ⟨BitVec.ofNat 4096 (2 ^ 4096 - 1), 0⟩), (4, ⟨0x3C00, 2⟩)] }

/-- VectorFunctions: VCVT of an F32 register of NaNs and of a packed HF16 image, MIN and MAX reductions. -/
theorem witness_convert :
    vcvtDecode 0 0 7 = [] ∧ vcvtDecode 0x16 0 7 = [] ∧ (formatOf 6).isSome = true ∧ (formatOf 7).isSome = true ∧
      gives (.vcvt here 0 3 4 0x16 0 0 7) convert_s (fun t => match (t.core 0).pend with
        | [⟨9, 5, 0, .vreg 3 v⟩] => v.lane 0 == 0x3F800000 && v.p != 0
        | _ => false) = true ∧
      lane0 (.vred here 0 3 1 0 1) vector_s 33 0 false = true ∧ lane0 (.vred here 0 3 1 0 2) vector_s 33 0x3F800000 false = true := by
  decide +kernel

/-- The operation on a core guarded off, after a guard that is false. -/
def off1 : Issue := ⟨0, 0, 8⟩

/-- Whether an operation on that core waits, to run from `start`, its arrays starting at those cycles. -/
def waitsFrom (b : MmaBits) (k : Core) (start : Nat) (slots : List Nat) : Bool :=
  gives (.mma off1 b) (cell seq1 k) fun t => ((t.core 0).waiting.map fun r => (r.start, r.slotAt)) == some (start, slots)

def behind_fade := { core1 with fadeUntil := some 20, warm := 15 }
def behind_run := { core1 with running := some { run1 with bits := { mma1 with fade := 1 } }, warm := 15 }
def behind_form := { core1 with running := some { run1 with bits := { mma1 with form := 1 } }, warm := 15 }
def behind_done := { core1 with running := some { run1 with next := [1, 1, 1, 1], slotAt := [1, 2, 3, 4] }, warm := 15 }

/-- MatrixIssue: guarded off, behind a fade-out, a fading operation, one of another FORM, one of its own before and after its last pass. -/
theorem witness_behind :
    (((cell seq1 core1).issue off1 .m).1.guard 0 8).isNone = true ∧ behind_fade.fadeEnd 5 = some 20 ∧ behind_fade.runningAt 5 = none ∧
      waitsFrom mma1 behind_fade 20 (stagger (20 + max mma1.geo.load 32)) = true ∧
      waitsFrom mma1 behind_run 532 (stagger (532 + max mma1.geo.load 32)) = true ∧
      waitsFrom mma1 behind_form 512 (stagger (512 + mma1.geo.load)) = true ∧
      ((behind_done.runningAt 5).isSome = true) ∧
      gives (.mma off1 mma1) (cell seq1 behind_done) (fun t => ((t.core 0).waiting.map (·.slotAt.length)) == some 4) = true ∧
      gives (.mma off1 mma1) mma_r (fun t => ((t.core 0).waiting.map (·.slotAt.length)) == some 4) = true ∧
      gives (.mma off1 mma1) (cell seq1 { core1 with warm := 15 }) (fun t => ((t.core 0).running.map (·.slotAt)) ==
        some (stagger (5 + mma1.geo.load))) = true := by
  decide +kernel

/-- MatrixIssue: reserved codes, pairs and combinations that are not permitted, operands out of place. -/
theorem witness_mma_halts :
    haltsAt (.mma here { mma1 with sfmt := 8 }) mma_s 3 = true ∧ haltsAt (.mma here { mma1 with rnd := 7 }) mma_s 6 = true ∧
      haltsAt (.mma here { mma1 with afmt := 7 }) mma_s 0x21 = true ∧ haltsAt (.mma here { mma1 with m := 8 }) mma_s 0x20 = true ∧
      haltsAt (.mma here { mma1 with sa := 1 }) mma_s 0x22 = true ∧ haltsAt (.mma here { mma1 with so := 1 })
        (cell seq1 { core1 with sregs := [(1, ⟨45056, false⟩)] }) 0x2A = true := by
  decide +kernel

def run0 : MmaRun := { run1 with next := [0, 0, 0, 0] }
def pass0 : PassId := { mc := 0, rd := 0, kc := 0, arr := 0, at_ := 5 }
def first_s := cell seq1 { core1 with running := some run0 }
def first_o := cell seq1 { core1 with running := some { run0 with bits := { mma1 with dest := 0 } } }
def hold1 : HoldState := { tick := 0, wallAt := 0, frames := 100, pause := false }
def ends_f := cell seq1 { core1 with running := some { run1 with next := [1, 1, 1, 1], endAt := 4, bits := { mma1 with fade := 1 } } }
def ends_h := { cell seq1 { core1 with running := some { run1 with next := [1, 1, 1, 1], endAt := 4 }, warm := 15 } with time.hold := some hold1 }
def early_h := { cell seq1 { core1 with holdFaded := 15 } with time.hold := some hold1 }

/-- MatrixProgress: a pass of an array with a slice, the fade of an operation and of a hold, a ramp that is not yet due. -/
theorem witness_first :
    first_s.duePass 0 0 = some (run0, pass0) ∧ first_s.passChecks 0 run0 pass0 = [] ∧ 0 < run0.bits.slices ∧ (first_s.core 0).uses = [] ∧
      (first_s.seq 0).sieve = none ∧ (first_o.duePass 0 0).isSome = true ∧
      gives (.mmaComplete passes_c0 0) ends_f (fun t => (t.core 0).fadeUntil == some 36 && (t.core 0).running == none) = true ∧
      gives (.mmaComplete passes_c0 0) ends_h (fun t => (t.core 0).fadeUntil == some 37 && (t.core 0).holdFaded == 15) = true ∧
      early_h.wallNow + early_h.rampTicks < hold1.wallAt + 512 * hold1.frames ∧
      gives (.fadeIn passes_c0 2) early_h (fun t => (t.core 0).warm == 0 && (t.core 0).holdFaded == 15) = true := by
  decide +kernel

/-- The sender with these bytes in its HBM. -/
def fromHbm (d : BitVec 256) (spad hbm : List (Nat × Byte)) : State := { sender d with spad := spad, hbm := hbm }

/-- Bytes and poison of the rows on their way to core 0. -/
def landing0 (c : Instr) (s : State) : List (Nat × List Byte × List Bool) :=
  match exec c s with
  | .next t => (t.core 0).inflight.flatMap (·.rows)
  | _ => []

def index_d := descBits 6 0 0x2000 0x100 32 4 &&& ~~~(BitVec.ofNat 256 (0xFFFF * 2 ^ 24))
def index_s := { fromHbm index_d [(1, 1), (15, 128), (20, 128)] [(0x200, 9)] with
  spadMeta := [(3, { poison := true, check := .clean })] }
def page_s := fromHbm (descBits 5 0 0x2000 0 32 1) [(64, 1)] [(0x10000004, 2), (0x10000007, 128), (0, 8)]
def page_none := fromHbm (descBits 5 0 0x2000 0 32 1) [(64, 1)] []
def coded_s := fromHbm (descBits 4 0 0x2000 0x1000 64 1) [] [(0x1000, 9)]

/-- Transfers: gathered, null and poisoned entries and one beyond HBM; a mapped and an unmapped page; a block that does not decode. -/
theorem witness_rows :
    ((index_s.xferArgs 0 5 0 0 0 7 false).fits = true) ∧ ((page_s.xferArgs 0 5 0 0 0 7 false).fits = true) ∧
      (landing0 (.xfer here true 5 0 0 0 7) index_s).map (fun r => (r.1, r.2.2.any id)) =
        [(0x2000, false), (0x2040, false), (0x2080, true), (0x20C0, true)] ∧
      ((landing0 (.xfer here true 5 0 0 0 7) index_s).take 2).map (fun r => r.2.1.take 1) = [[9], [0]] ∧
      (landing0 (.xfer here true 5 0 0 0 7) page_s).map (fun r => r.2.2.any id) = [false] ∧
      (landing0 (.xfer here true 5 0 0 0 7) page_none).map (fun r => r.2.2.any id) = [true] ∧
      (landing0 (.xfer here true 5 0 0 0 7) coded_s).map (fun r => r.2.2.any id) = [true] := by
  decide +kernel

def other_dev := descBits 7 0 0x2000 0x1000 64 2 ||| BitVec.ofNat 256 (7 * 2 ^ 182)
def other_s := { sender other_dev with take.labels := [(0, 0x8000000000000000)] }
def none_s := sender (descBits 3 0 0x2000 0x1000 64 2)
def beyond_s := sender (descBits 2 0 0x17FFFC0 0x1000 64 2)

/-- Transfers: VC0 to another device, labels that name no path, a guarded-off request, addresses that do not fit. -/
theorem witness_paths :
    (other_s.desc 0 5).ddev ≠ other_s.deviceId ∧ (other_s.lowPath 0).isSome = true ∧ other_s.mustHold 7 0 = false ∧ 0 < other_s.lowData 0 ∧
      gives (.xfer here false 5 0 0 0 7) other_s (fun t => (t.link 0).vc0.map (fun q => (q.pkt.pkind, q.pkt.ddev)) == [(2, 7), (2, 7)]) = true ∧
      labelSends (none_s.label none 0) = false ∧
      gives (.xfer here false 5 0 0 0 7) none_s (fun t => decide (t.links = none_s.links) && !decide (t.log = none_s.log)) = true ∧
      gives (.xfer here false 5 0 0 0 7) (sender other_dev) (fun t => decide (t.links = none_s.links)) = true ∧
      gives (.xfer off1 false 5 0 0 0 7) other_s (fun t => decide (t.links = other_s.links)) = true ∧
      haltsAt (.xfer here false 5 0 0 0 7) beyond_s 0x29 = true ∧ haltsAt (.xfer here false 5 0 0 0 7) coded_s 0x0C = true := by
  decide +kernel

/-! ## Counters, reductions, the sieve, cues -/

def counters_s := { cell { seq1 with cueTick := 100 } core1 with time.wall := 150 }
def counters_a : Sched := { ctr := 3, set := false, val := 5, due := 120 }
def counters_b : Sched := { ctr := 3, set := true, val := 0xFFFFFFFE, due := 120 }
def counters_one := { counters_s with take.sched := [counters_a, { counters_a with ctr := 4 }] }
def counters_set := { counters_s with take.sched := [counters_b] }
def counters_both := { counters_s with take.sched := [counters_a, counters_b] }
def counters_wait := { counters_s with take.sched := [counters_a], seqs := [(0, { seq1 with wait := some ⟨3, 2, 50, 100, none⟩ })] }
def counters_late := { counters_s with take.sched := [{ counters_a with due := 151 }] }

/-- CountersScheduled: SIG over the executing cores, SETC before an increment of its tick, and the wrap. -/
theorem witness_counters :
    (counters_s.issue here .sy).2 = true ∧
      gives (.sig here 3 5 20) counters_s (fun t => t.take.sched == [counters_a]) = true ∧
      gives (.sig ⟨0, 0, 8⟩ 3 5 20) counters_s (fun t => t.take.sched == [{ counters_a with val := 0 }]) = true ∧
      gives (.setc here 3 0xFFFFFFFE 20) counters_s (fun t => t.take.sched == [counters_b]) = true ∧
      gives (.sigDue 3) counters_one (fun t => t.counter 3 == 5 && t.counter 4 == 0 && t.take.sched.length == 1) = true ∧
      gives (.setcDue 3) counters_set (fun t => t.counter 3 == 0xFFFFFFFE && t.take.sched.isEmpty) = true ∧
      gives (.sigDue 3) counters_both (fun t => t.counter 3 == 3) = true ∧
      gives (.setcDue 3) counters_late (fun t => t.counter 3 == 0 && t.take.sched.length == 1) = true ∧
      gives (.sigDue 3) counters_late (fun t => t.counter 3 == 0 && t.take.sched.length == 1) = true ∧
      gives (.sigDue 3) counters_wait (fun t => ((t.seq 0).wait.map (·.met)) == some (some 120)) = true := by
  decide +kernel

def wait_s := streamed 4 seq1 core1
def wait_w : WaitState := { ctr := 3, target := 2, tmo := 50, since := 4000, met := none }
def wait_x :=
  fun (m : Option Int) (wall : DWord) => { streamed 4 { seq1 with wait := some { wait_w with met := m } } core1 with time.wall := wall }

/-- WaitStopsIssue. -/
theorem witness_wait :
    gives (.wait here 3 1 9 5) wait_s (fun t => ((t.seq 0).wait.map (·.target)) == some 12 && !(t.issue ⟨0, 1, 0⟩ .s).2) = true ∧
      gives (.wait here 3 1 9 5) (wait_s.fset (syncField 3) 12) (fun t => ((t.seq 0).wait.map (·.met)) == some (some t.planNow)) = true ∧
      (((wait_x (some 4001) 4096).settleDue 4096).seq 0).wait = some { wait_w with met := some 4001 } ∧
      gives (.waitSatisfied 0) (wait_x (some 4001) 4096) (fun t => (t.seq 0).wait == none) = true ∧
      gives (.waitTimeout 0) (wait_x (some 4001) 4096) (fun t => (t.seq 0).wait.isSome && !t.halted 0) = true ∧
      gives (.waitSatisfied 0) (wait_x none 4096) (fun t => (t.seq 0).wait == some wait_w) = true ∧
      gives (.waitSatisfied 0) (wait_x (some 4051) 4096) (fun t => (t.seq 0).wait.isSome) = true ∧
      gives (.waitTimeout 0) (wait_x none 4049) (fun t => !t.halted 0) = true ∧
      haltsAt (.waitTimeout 0) (wait_x none 4050) 0x42 = true ∧ haltsAt (.waitTimeout 0) (wait_x (some 4051) 4096) 0x42 = true := by
  decide +kernel

def reduce_two := { cell seq1 core1 with cores := [(0, core1), (1, { core1 with sregs := [(1, ⟨2, false⟩)] })] }
def reduce_s := (reduce_two.fsetb (Reg.CL_SLOT_ID_MAPPED 0 1) true).fset (Reg.CL_SLOT_ID_VCORE 0 1) 1
def reduce_g : RedGroup := { rop := 0, members := [(reduce_s.deviceId, 0), (reduce_s.deviceId, 1)] }
def reduce_r := { reduce_s with seqs := [(0, { seq1 with cueTick := 4050 })], take.active := some { reel1 with groups := [(9, reduce_g)] } }
def reduce_part : RedxState := { grp := 9, sd := 3, p := 4000, issued := true, flags := 0, parts := [(1, ⟨5, false⟩), (0, ⟨9, false⟩)] }
def reduce_full := { reduce_r with seqs := [(0, { seq1 with redx := [reduce_part] })] }
def reduce_lack := { reduce_r with seqs := [(0, { seq1 with redx := [{ reduce_part with parts := [(0, ⟨9, false⟩)] }] })] }

/-- Reductions: two cores of one cluster, and a group of two clusters. -/
theorem witness_reduce :
    reduce_s.controlVals 0 1 = [⟨7, false⟩, ⟨2, false⟩] ∧ Clear (reduce_s.issue here .sy).1 0 16 ∧
      gives (.redc here 3 1 0) reduce_s (fun t => (t.core 1).pend.map (·.target) == [.sreg 3 ⟨9, false⟩, .flags 0]) = true ∧
      gives (.redc here 3 1 1) reduce_s (fun t => ((t.core 0).pend.map (·.target)).head? == some (.sreg 3 ⟨2, false⟩)) = true ∧
      reduce_r.group 9 = some reduce_g ∧ reduce_r.rankIn reduce_g 0 = some 0 ∧
      gives (.redx here 3 1 0 9 50) reduce_r (fun t => (t.seq 0).redx.map (·.parts) == [[(0, ⟨9, false⟩)]] && (t.seq 1).redx.map (·.parts) == [[(0, ⟨9, false⟩)]]) = true ∧
      gives (.redx here 3 1 0 8 50) reduce_r (fun t => t.halted 0 && t.fget (Reg.CL_SEQ_HALT_REASON 0) == 0x2B) = true ∧
      partsInOrder reduce_part.parts 0 2 = some [⟨9, false⟩, ⟨5, false⟩] ∧
      gives (.redxResult 0) reduce_full (fun t => (t.seq 0).redx.isEmpty && t.sval 1 3 == ⟨14, false⟩) = true ∧
      gives (.redxResult 0) reduce_lack (fun t => t.halted 0 && t.fget (Reg.CL_SEQ_HALT_REASON 0) == 0x47) = true := by
  decide +kernel

def fold_x := fun (rop : Nat) => (foldAll rop [⟨7, false⟩, ⟨-3, true⟩, ⟨5, false⟩]).1

/-- Reductions: the folds of 7, a poisoned −3 and 5, and the F32 sum, minimum and maximum of 1.0 and 2.0. -/
theorem witness_folds :
    (upFrom 0 5).map fold_x = [⟨9, true⟩, ⟨-3, true⟩, ⟨7, true⟩, ⟨5, true⟩, ⟨-1, true⟩] ∧
      (upFrom 5 3).map (fun rop => (foldAll rop [⟨0x3F800000, false⟩, ⟨0x40000000, false⟩]).1.v) = [0x40400000, 0x3F800000, 0x40000000] ∧
      haltsAt (.redx here 3 1 0 9 50) { reduce_s with take.active := some { reel1 with groups := [(9, { reduce_g with members := [] })] } } 0x2B = true := by
  decide +kernel

def trigger_x : Trigger := { Trigger.initial with vis := some { edge := true, ovf := false, holdover := true, cap := 77, ts := 0 } }
def trigger_s := { cell seq1 core1 with time.trigs := [(1, trigger_x)] }
def trigger_r :=
  { trigger_s with cores := [(0, { core1 with sregs := [(1, ⟨63, false⟩), (2, ⟨64, false⟩)] })], take.active := some { reel1 with nshape := 64 } }

/-- TriggerAndShape. TRIG's latency is a free value. -/
theorem witness_trigger :
    (∀ key ∈ trigger_s.coresOf 0, (trigger_s.core key).pend = []) ∧
      gives (.trig here 3 1 0) trigger_s (fun t => (t.core 0).pend.map (·.target) == [.sreg 3 ⟨0xA00000000000004D, false⟩]) = true ∧
      gives (.trig here 3 2 1) trigger_s (fun t => (t.core 0).pend.map (·.target) == [.sreg 3 ⟨0, false⟩] && (t.trig 2).clear == some 8192) = true ∧
      trigger_r.nshape = 64 ∧ gives (.ssel here 1) trigger_r (fun t => t.flag (Reg.CL_SEQ_SSEL_VALID 0) && t.fget (Reg.CL_SEQ_SSEL_INDEX 0) == 63) = true ∧
      gives (.ssel here 2) trigger_r (fun t => t.halted 0 && t.fget (Reg.CL_SEQ_HALT_REASON 0) == 0x28) = true := by
  decide +kernel

/-- A sieve entry of one row over four experts, two choices, two slots per rank, areas of 512 bytes from 0. -/
def entryBits : BitVec 256 :=
  BitVec.ofNat 256 (0 * 2 ^ 240 + 2 ^ 224 + 2 * 2 ^ 208 + 3 * 2 ^ 192 + 3 * 2 ^ 170 + 2 ^ 166 + 2 * 2 ^ 154 + 2 * 2 ^ 142 + 2 * 2 ^ 130 +
    2 * 2 ^ 78 + 4 * 2 ^ 52)

/-- A cluster with that entry, and scores 1.0, 2.0, 2.0, −1.0. -/
def sifter (q : Seq) : State :=
  { cell q core1 with
    take.active := some { reel1 with sieve := [(7, entryBits)] },
    spad := [(2, 0x80), (3, 0x3F), (7, 0x40), (11, 0x40), (14, 0x80), (15, 0xBF)] }

def sieve_s := sifter seq1
def sieve_u := (sieve_s.issue here .sy).1
def sieve_e := sieve_u.sieveEntry 0 7
def sieve_v : SieveState := { func := 0, from_ := 0, until_ := 6, banks := [], tags := [] }
def sieve_b := sifter { seq1 with sieve := some sieve_v }
def sieve_w := sifter { seq1 with sieve := some sieve_v, stalled := [.topk here 7 1] }
def sieve_fine :=
  fun f => match sieve_u.sieveCore 0 f sieve_e 1 with
    | .ok (ts, w) => decide (w.spadMeta = []) && ts.all fun x => !sieve_u.targetBarred 0 x
    | _ => false

/-- SieveOperations. -/
theorem witness_sieve :
    BanksFree sieve_u 0 ∧ sieve_fine .topk = true ∧ sieve_fine .send = true ∧ sieve_fine .dispatch = true ∧ sieve_fine .pages = true ∧
      gives (.topk here 7 1) sieve_s (fun t => (t.core 0).pend == [⟨30, 5, 0, granTarget (512, [(1 * 2 ^ 32 + 0x40000000, false), (2 * 2 ^ 32 + 0x40000000, false)])⟩] &&
        (((t.seq 0).sieve.map (·.until_)) == some 30)) = true ∧
      gives (.pages here 7 1) sieve_b (fun t => (t.seq 0).stalled == [.pages here 7 1] && !t.canAdvance 0) = true ∧
      gives (.sieveFree 0 1) sieve_b (fun t => (t.seq 0).sieve == none && (t.seq 0).now == 6) = true ∧
      gives (.sieveFree 0 0) sieve_b (fun t => (t.seq 0).sieve == some sieve_v) = true ∧
      gives (.sieveFree 0 1) sieve_w (fun t => (t.seq 0).stalled.isEmpty && (t.seq 0).now == 6 &&
        ((t.seq 0).sieve.map fun v => (v.func, v.from_, v.until_)) == some (SieveFunc.topk.code, 6, 31)) = true := by
  decide +kernel

/-- SieveOperations: equal scores in ascending expert, NaN last, a budget of one page, no row beyond the capacities. -/
theorem witness_choices :
    topkRow 2 [(0, 0x40000000, false), (1, 0x7FC00000, false), (2, 0x40000000, false)] = [(0x40000000, false), (2 * 2 ^ 32 + 0x40000000, false)] ∧
      scoreRank (0, 0x7FC00000, false) < scoreRank (0, 0xFF800000, false) ∧ scoreRank (0, 0, false) = scoreRank (0, 0x80000000, false) ∧
      selectPages { sieveEntryOf 0 with budget := 1, recent := 1 } 2 [(0, 0x40000000, false), (1, 0, false)] = [1] ∧
      fixedPages { sieveEntryOf 0 with budget := 1, recent := 1 } 2 = [1] := by
  decide +kernel

/-- The example of PAGES behind R215: pages 0, 1, 2, 3, 7, 10 and 11. -/
theorem test_pages :
    selectPages { sieveEntryOf 0 with budget := 7, sink := 1, recent := 2, npg := 12 } 12
      [(0, 0x3F666666, false), (1, 0x40800000, false), (2, 0x40200000, false), (3, 0x40800000, false), (4, 0xBF800000, false),
       (5, 0x40200000, false), (6, 0x7FC00000, false), (7, 0x40466666, false), (8, 0x40200000, false), (9, 0x3E4CCCCD, false),
       (10, 0x3F8CCCCD, false), (11, 0, false)] = [0, 1, 2, 3, 7, 10, 11] := by
  decide +kernel

def dispatch_e := { sieveEntryOf 0 with e := 16, c := 30, o := 2, x := 32, nsrc := 2, rank := 1 }
def dispatch_map := (upFrom 0 16).map fun x => if x = 5 ∨ x = 9 then 1024 else 0
def dispatch_tag := fun (x : Nat) => (2 ^ 63 + x * 2 ^ 49, false)
def dispatch_tags :=
  List.replicate 29 (dispatch_tag 5) ++ [dispatch_tag 9, (0, false), (0, false), dispatch_tag 5, dispatch_tag 9, dispatch_tag 5, dispatch_tag 5, dispatch_tag 5, dispatch_tag 5] ++ List.replicate 26 (0, false)
def dispatch_y :=
  DispState.tags dispatch_e dispatch_map [] 0 dispatch_tags { cnt := [], pool := 0, total := [], dropped := 0, rows := [], ret := [] }

/-- The example of DISPATCH behind R212 (Table 07.9): rank 1 hosts experts 5 and 9, C = 30, O = 2. -/
theorem test_dispatch :
    (mapGet (fun _ => 0) dispatch_y.total 5, mapGet (fun _ => 0) dispatch_y.total 9, dispatch_y.pool, dispatch_y.dropped) = (32, 2, 2, 2) ∧
      dispatch_y.rows.drop 29 = [((9, 0), 29), ((5, 29), 32), ((9, 1), 33), ((5, 30), 34), ((5, 31), 35)] := by
  decide +kernel

def cue_r :=
  fun (n : Nat) => { reel1 with clusters := [(0, { bundles := [0, 0x11 <<< 104], shapes := [{ gates := 2, cues := [⟨9, 0, []⟩, ⟨20, 0, [(3, n)]⟩] }] })] }
def cue_x :=
  fun (n : Nat) (q : Seq) (wall : DWord) => { withReel .running with take.active := some (cue_r n), time.wall := wall, seqs := [(0, q)] }
def cue_z := { Seq.initial with pc := 1 }
def cue_gate : PendGate := { gate := 0, frames := 1, reasons := 2 }
def cue_e := { seq1 with ended := true }

/-- CuesAndCheckpoints. -/
theorem witness_cue :
    (cue_x 0 cue_z 9).cueEntry 0 0 = some ⟨9, 0, []⟩ ∧ ((cue_x 0 cue_z 9).beforeCue 0 9).halted 0 = false ∧
      gives (.cue 0) (cue_x 0 cue_z 9) (fun t => (t.seq 0).running && (t.seq 0).fresh && (t.seq 0).cueTick == 9) = true ∧
      gives (.cue 0) (cue_x 0 cue_z 8) (fun t => !(t.seq 0).running) = true ∧
      gives (.cue 0) { cue_x 0 cue_z 9 with dev := .fenced } (fun t => !(t.seq 0).running) = true ∧
      gives (.cue 0) { cue_x 0 cue_z 9 with time.gates := [cue_gate] } (fun t => !(t.seq 0).running) = true ∧
      gives (.cue 0) (cue_x 0 cue_e 20) (fun t => (t.seq 0).cueIdx == 1 && (t.seq 0).cueTick == 20) = true ∧
      gives (.cue 0) (cue_x 1 cue_e 20) (fun t => t.halted 0 && t.fget (Reg.CL_SEQ_HALT_REASON 0) == 0x40) = true ∧
      gives (.cue 0) (cue_x 0 seq1 20) (fun t => t.halted 0 && t.fget (Reg.CL_SEQ_HALT_REASON 0) == 0x41) = true := by
  decide +kernel

def forecast_r :=
  fun (n : BitVec 512) => { reel1 with clusters := [(0, { bundles := [0, 0x80000000 + n, 0x20000000], shapes := [{ gates := 3, cues := [⟨0, 0, []⟩, ⟨4100, 0, []⟩] }] })] }
def forecast_s := fun (n : BitVec 512) => { cell seq1 core1 with take.active := some (forecast_r n), time.wall := 100 }
def forecast_fit := ((forecast_s 9).issue here .head).1
def forecast_late := ((forecast_s 16384).issue here .head).1
def forecast_fin := forecast_late.finishTick 44 (forecast_late.segmentBundles 0 - (forecast_late.seq 0).begun) 0

/-- CuesAndCheckpoints: a segment in time, and one of 16,385 cycles that is not. -/
theorem witness_forecast :
    (∀ x ∈ forecast_fit.regionsOf 0, forecast_fit.stretching x = false) ∧
      (∀ x ∈ forecast_fit.regionsOf 0, forecast_fit.finishTick x (forecast_fit.segmentBundles 0 - (forecast_fit.seq 0).begun) 0 ≤ forecast_fit.nextCueTick 0) ∧
      gives (.checkpoint here) (forecast_s 9) (fun t => t.time.gates.isEmpty && t.faults.queue.isEmpty) = true ∧
      forecast_late.nextCueTick 0 < forecast_fin ∧ forecast_fin ≤ forecast_late.nextCueTick 0 + 512 * 255 ∧ 0 ≤ forecast_late.planNow ∧ forecast_late.planNow < forecast_late.eligibleGate ∧
      forecast_late.eligibleGate ≤ forecast_late.nextCueTick 0 ∧ forecast_late.time.gates.length < 4 ∧ forecast_late.faults.queue.length + 12 ≤ 64 ∧
      forecast_late.dev.inTake = true ∧ forecast_late.stopped = false := by
  decide +kernel

/-- Reserved opcodes and reserved bits of the slots (R167, Tables 06.7 to 06.10): the worked example of R179 is well formed; opcode 0x0C
of the S slot is reserved, as is 0x14 of a V half-slot; bit 3 of an MMA and bit 0 of a no-op are reserved bits. -/
theorem test_slot_causes :
    (slotCauses (0x010800067FC0A2214C70 <<< 192), slotCauses (0x0C <<< 104 ||| 0x14 <<< 146), slotCauses (0x010800067FC0A2214C78 <<< 192),
      slotCauses (1 <<< 432), bundleEmpty 0x20000000, bundleEmpty (0x11 <<< 104)) = ([], [0x01, 0x01], [0x03], [0x03], true, false) := by
  decide +kernel

def empty_bundles_r :=
  { reel1 with clusters := [(0, { bundles := [0x11 <<< 104, 0, 0x20000000, 0x0C <<< 104], shapes := [{ gates := 2, cues := [⟨9, 0, []⟩, ⟨20, 0, []⟩] }] })] }
def empty_bundles_s :=
  fun (q : Seq) => { withReel .running with take.active := some empty_bundles_r, time.wall := 20, seqs := [(0, { q with cueTick := 9, winLo := 162, winHi := 216 })] }

/-- A segment whose last bundles hold nothing to issue has ended at its next cue (R43, R45); one that reaches a reserved opcode after
them has halted. -/
theorem test_empty_bundles :
    gives (.cue 0) (empty_bundles_s seq1) (fun t => !t.halted 0 && (t.seq 0).cueIdx == 1 && (t.seq 0).fresh) = true ∧
      gives (.cue 0) (empty_bundles_s { seq1 with pc := 2 }) (fun t => t.halted 0 && t.fget (Reg.CL_SEQ_HALT_REASON 0) == 0x01) = true ∧
      ((empty_bundles_s { seq1 with pc := 2 }).issue ⟨0, 1, 0⟩ .v0).1.halted 0 = true := by
  decide +kernel

/-! ## Landings, gates, cuts -/

/-- A stored row of 8 bytes on its way to address 16 of core 0, at plan tick 4000, with a flag. -/
def row1 : Landing :=
  { p := 4000, kind := 2, flag := true, sync := 9, srcDev := 0, srcCore := 0, seq := 0, base := 16, rows := [(16, [1, 2, 3, 4, 5, 6, 7, 8], [true])],
    need := 8, got := 0, arrived := false, released := false, left := [], decodeErr := false, awaited := [] }

/-- The slot of core 0. -/
def core0 : CoreId := ⟨0, 0⟩

def arrival_s := { cell seq1 { core1 with inflight := [row1] } with time.wall := 3999 }
def expect1 : Expect := { srcDev := 0, srcCore := 0, p := 4000, bytes := 8 }
def row3 := { row1 with kind := 3 }
def arrival_tight := { arrival_s with cores := [(0, { core1 with inflight := [row1], landing := List.replicate 512 { row1 with rows := [], arrived := true } })] }
def arrival_lack := { arrival_s with time.wall := 4000, cores := [(0, { core1 with landing := [row1] })] }
def arrival_short := { arrival_s with time.wall := 4000, cores := [(0, { core1 with landing := [{ row3 with arrived := true, got := 8 }] })] }
def arrival_late := { arrival_s with time.wall := 4000 }
def arrival_r : Landing := { row1 with rows := [(64, List.replicate 32 7, [false, false, false, false])], need := 32 }
def arrival_m := { cell seq1 core1 with hbmStacks := [(1, { Stack.initial with landing := [arrival_r] })] }
def arrival_d := { arrival_m with hbmStacks := [(1, { Stack.initial with landing := [{ arrival_r with arrived := true }] })] }

/-- ArrivalAndLateness: into a core and into stack 1. -/
theorem witness_arrival :
    stageRoom (arrival_s.core 0).landing row1.bytes = true ∧
      gives (.landingArrival (some core0) 0) arrival_s (fun t => (t.core 0).landing == [{ row1 with arrived := true, got := 8 }] && (t.core 0).inflight.isEmpty) = true ∧
      arrival_late.halted 0 = false ∧
      gives (.landingRelease (some core0) ⟨0, none⟩) arrival_late (fun t => t.halted 0 && t.fget (Reg.CL_SEQ_HALT_REASON 0) == 0x47) = true ∧
      gives (.landingArrival none 65536) arrival_m (fun t => (t.stack 1).landing == [{ arrival_r with arrived := true, got := 32 }] && t.hbm.isEmpty) = true ∧
      gives (.landingArrival (some core0) 0) arrival_tight (fun t => ((t.core 0).landing.drop 512).map (fun l => (l.arrived, l.rows)) == [(false, [])]) = true ∧
      gives (.landingRelease (some core0) ⟨0, none⟩) arrival_s (fun t => (t.core 0).inflight == [row1]) = true ∧
      haltsAt (.landingRelease (some core0) ⟨0, none⟩) arrival_lack 0x47 = true ∧ expect1.names row3 = true ∧
      haltsAt (.landingRelease (some core0) ⟨0, some { expect1 with bytes := 16 }⟩) arrival_short 0x47 = true ∧
      haltsAt (.landingRelease (some core0) ⟨0, some expect1⟩) (cell seq1 core1) 0x47 = true ∧
      gives (.landingRelease (some core0) ⟨0, some { expect1 with p := 4097 }⟩) (cell seq1 core1) (fun t => !t.halted 0) = true ∧
      haltsAt (.landingRelease none ⟨65536, none⟩) arrival_m 0x47 = true ∧
      gives (.landingRelease none ⟨65536, none⟩) { arrival_m with time.wall := 3999 } (fun t => !t.halted 0) = true ∧
      arrival_d.inWeights 64 32 = false ∧ arrival_d.isRetired 64 32 = false ∧
      gives (.landingRelease none ⟨65536, none⟩) arrival_d (fun t => memRead t.hbm 63 34 == [0] ++ List.replicate 32 7 ++ [0] && t.counter 9 == 1) = true := by
  decide +kernel

def visible_l := { row1 with arrived := true }
def visible_s := { cell seq1 { core1 with landing := [visible_l] } with time.wall := 4000 }
def visible_v :=
  { cell seq1 { core1 with landing := [{ visible_l with released := true, left := [2] }] } with spad := [(16, 1)] }

def visible_b := { cell { seq1 with nowAt := 4096 } { core1 with landing := [{ visible_l with released := true, left := [2] }], uses := [⟨5, bankOf 16, 1, 0, 0, 0, .result 1⟩] } with
  spad := [(16, 1)] }
def visible_o := { visible_l with srcDev := 7, released := true, left := [2] }
def visible_two := { cell seq1 { core1 with landing := [visible_o, visible_l] } with time.wall := 4000, spad := [(16, 9)] }

/-- LandingVisibleAtItsTick. -/
theorem witness_visible :
    visible_s.landClash 0 visible_l = false ∧ visible_s.writeBarred 0 16 8 = false ∧
      gives (.landingRelease (some core0) ⟨0, none⟩) visible_s (fun t => memRead t.spad (spadAddr 0 15) 10 == [0, 1, 2, 3, 4, 5, 6, 7, 8, 0] && t.counter 9 == 1 &&
        t.granMeta 0 2 == ⟨true, .clean⟩) = true ∧
      gives (.landingRelease (some core0) ⟨0, none⟩) { visible_s with time.wall := 3999 } (fun t => t.spad.isEmpty) = true ∧
      gives (.landingWriteback core0 2) visible_v (fun t => t.spad == visible_v.spad && (t.core 0).landing.all fun m => !m.left.contains 2) = true ∧
      visible_b.bankTaken 0 (bankOf 16) 1 = true ∧ gives (.landingWriteback core0 2) visible_b (fun t => decide (t.cores = visible_b.cores)) = true ∧
      expect1.names { visible_l with kind := 3 } = true ∧
      visible_o.prevails visible_l = true ∧ gives (.landingRelease (some core0) ⟨1, none⟩) visible_two (fun t => t.spadBytes 0 16 2 == [9, 0]) = true := by
  decide +kernel

def drizzle_q : DrizzleReq :=
  { op := .write 8 [1, 2, 3, 4, 5, 6, 7, 8] [] none, done := 0, since := 1, reported := false, got := [], order := none, last := true, signals := none, inLink := none }
def drizzle_s :=
  { (base .ready).fsetb (Reg.CL_SCRUB_BUSY 0 0) false with cores := [(0, { core1 with drizzle := [drizzle_q] })] }
def drizzle_r :=
  { drizzle_s with cores := [(0, { core1 with drizzle := [{ drizzle_q with op := .read 8 8 0x1000 }] })], spad := [(9, 5)] }
def drizzle_w := drizzle_s.fset (Reg.CL_DRZ_CFG_WDOG 0 0) 7
def drizzle_e := { base .ready with cores := [(0, { core1 with eccq := [⟨4, true⟩] })] }
def drizzle_b := { cell { seq1 with nowAt := 4096 } { core1 with drizzle := [drizzle_q], eccq := [⟨1, true⟩], uses := [⟨5, bankOf 8, 1, 0, 0, 0, .result 1⟩] } with dev := .ready }

/-- DrizzlePort. -/
theorem witness_drizzle :
    gives (.drizzleRequest core0 (.write 0x17FFFFF [1] [] none)) drizzle_s (fun t => (t.core 0).drizzle.length == 2) = true ∧
      drizzle_s.scrubbing 0 = false ∧ drizzle_s.dev.intake = false ∧
      gives (.drizzleAccess core0) drizzle_s (fun t => memRead t.spad 7 10 == [0, 1, 2, 3, 4, 5, 6, 7, 8, 0]) = true ∧
      ({ drizzle_s with dev := .running }).inWindow 0 8 8 = false ∧
      gives (.drizzleAccess core0) { drizzle_s with dev := .running } (fun t => t.spad.isEmpty) = true ∧
      gives (.drizzleAccess core0) drizzle_r (fun t => t.out == [.hostWrite 0x1000 [0, 5, 0, 0, 0, 0, 0, 0]]) = true ∧
      gives (.drizzleWatchdog core0) drizzle_w (fun t => t.flag (Reg.CL_DRZ_STAT_STARVED 0 0)) = true ∧
      gives (.drizzleWatchdog core0) { drizzle_w with time.wall := 4095 } (fun t => !t.flag (Reg.CL_DRZ_STAT_STARVED 0 0)) = true ∧
      gives (.eccWriteback core0) drizzle_e (fun t => (t.core 0).eccq.isEmpty && t.granMeta 0 4 == ⟨true, .clean⟩) = true ∧
      drizzle_b.drizzleWaits 0 = true ∧ gives (.drizzleAccess core0) drizzle_b (fun t => t.spad.isEmpty && (t.core 0).drizzle == [drizzle_q]) = true ∧
      gives (.eccWriteback core0) drizzle_b (fun t => (t.core 0).eccq == [⟨1, true⟩]) = true ∧ drizzle_s.drizzleWaits 0 = false ∧
      gives (.drizzleAccess core0) (drizzle_s.fsetb (Reg.CL_SCRUB_BUSY 0 0) true) (fun t => t.spad.isEmpty) = true ∧
      gives (.drizzleWatchdog core0) { drizzle_w with cores := [(0, { core1 with drizzle := [{ drizzle_q with reported := true }] })] }
        (fun t => !t.flag (Reg.CL_DRZ_STAT_STARVED 0 0)) = true := by
  decide +kernel

def holds_g : PendGate := { gate := 1, frames := 3, reasons := 4 }
def holds_s := { withReel .running with time.gates := [holds_g] }
def holds_long := holds_s.fset Reg.TB_HOLD_LIMIT_STEPMAX 2
def holds_open1 :=
  { withReel .running with time.gates := [{ holds_g with reasons := 64 }], cores := [(0, { core1 with inflight := [row1] })] }
def holds_held :=
  { withReel .holding with time.hold := some ⟨4096, 4096, 3, false⟩, time.frozen := some 4096, time.wall := 5632 }

/-- HoldsAtGates: three frames at gate 1, too many, and a replay stop; the end of the hold. -/
theorem witness_holds :
    holds_s.planRuns = true ∧ holds_g.open_ = false ∧ holds_s.time.held + holds_g.frames ≤ holds_s.fget Reg.TB_HOLD_LIMIT_STEPMAX ∧
      gives .gate holds_s (fun t => t.dev == .holding && t.planNow == 4096 && ((t.time.hold.map fun h => (h.frames, h.wallAt)) == some (3, 4096)) && t.time.gates.isEmpty &&
        t.fget Reg.TB_HOLD_STAT_LASTLEN == 3) = true ∧
      gives .gate { holds_s with time.wall := 4095 } (fun t => t.dev == .running && t.time.gates == [holds_g]) = true ∧
      holds_long.fget Reg.TB_HOLD_LIMIT_STEPMAX < holds_long.time.held + holds_g.frames ∧ ({ holds_g with reasons := 64 } : PendGate).open_ = true ∧
      gives .replayStop holds_open1 (fun t => t.dev == .holding && ((t.time.stop.map (·.tick)) == some 4096) && (t.core 0).inflight.isEmpty) = true ∧
      holds_held.flag Reg.PW_STATUS_BRAKE = false ∧
      gives .holdEnd holds_held (fun t => t.dev == .running && t.time.offset == 1536 && t.planNow == 4096) = true ∧
      gives .replayStop holds_s (fun t => t.time.gates == [holds_g]) = true ∧ gives .gate holds_open1 (fun t => t.dev == .running) = true ∧
      gives .holdEnd { holds_held with time.wall := 5631 } (fun t => t.dev == .holding) = true := by
  decide +kernel

def replay_st : StopState := { tick := 4096, wallAt := 4096, order := none, sent := false, wr := 65536 }
def replay_s :=
  { withReel .holding with time.stop := some replay_st, time.frozen := some 4096, time.wall := 8192, take.active := some { reel1 with leadDev := (withReel .holding).deviceId } }
def replay_mine :=
  { withReel .holding with time.stop := some { replay_st with order := some replay_s.cutOrder, sent := true }, time.frozen := some 4096, time.wall := 65536, take.shape := replay_s.take.shape }
def replay_none1 := { replay_mine with time.stop := some { replay_st with sent := true } }
def replay_armed := { withReel .armed with take.lastCut := 4096 }

/-- ReplayAndStart. -/
theorem witness_replay :
    replay_s.isLead = true ∧ replay_s.fget Reg.FC_STATUS_REPLAYS ≤ replay_s.fget Reg.FC_CFG_REPLAYMAX ∧
      gives .replayOrderSend replay_s (fun t => decide (t.time.stop = some { replay_st with sent := true, order := some replay_s.cutOrder })) = true ∧
      gives .replayOrderSend { replay_s with time.wall := 8191 } (fun t => decide (t.time.stop = some replay_st)) = true ∧
      replay_mine.cutOrder = replay_s.cutOrder ∧
      gives .resumeTick replay_mine (fun t => t.dev == .running && t.time.offset == 65536 && decide (t.time.stop = none) && t.planNow == 0) = true ∧
      replay_none1.faults.queue.length < 64 ∧ replay_none1.dev.inTake = true ∧
      gives .resumeTick { replay_none1 with dev := .fenced } (fun t => t.dev == .running) = true ∧
      gives .resumeTick { replay_mine with time.wall := 65535 } (fun t => t.dev == .holding) = true ∧
      gives .takeStart replay_armed (fun t => t.dev == .running) = true ∧ gives .takeStart { replay_armed with time.wall := 4095 } (fun t => t.dev == .armed) = true := by
  decide +kernel

def signals_s := (base .running).fset Reg.TB_TRIG_CFG_IN 0xA0
def signals_edge := gives (.triggerEdge 1 true 20) signals_s
def signals_l : Latch := { edge := true, ovf := false, holdover := true, cap := 100, ts := 4096 }
def signals_full :=
  { (signals_s.fset Reg.TB_TRIG_STAT_EDGE 2).fset (Reg.TB_TRIG_TS_TS 1) 4096 with time.trigs := [(1, { Trigger.initial with cap := 100 })] }
def signals_seen := signals_full.latch 1
def signals_o := { (base .ready).fsetb Reg.TB_PULSE_CFG_OUTEN true with time.wall := 0x300000 }
def signals_i := ((base .ready).fsetb Reg.TB_PULSE_CFG_INEN true).fset Reg.TB_CTRL_ROOTSRC 2

/-- TriggersAndTimeSignals. -/
theorem witness_signals :
    signals_s.edgeQualifies 1 true 20 = true ∧ signals_s.latch 1 = none ∧
      signals_edge (fun t => ((t.latch 1).map (·.cap)) == some 4096) = true ∧ signals_seen.isSome = true ∧
      gives (.triggerEdge 1 true 20) signals_full (fun t => ((t.latch 1).map (·.ovf)) == some true && ((t.latch 1).map (·.cap)) == some 100) = true ∧
      19 < (signals_s.fset Reg.TB_TRIG_CFG_DEGLITCH 20).fget Reg.TB_TRIG_CFG_DEGLITCH ∧
      gives (.triggerEdge 1 true 19) (signals_s.fset Reg.TB_TRIG_CFG_DEGLITCH 20) (fun t => t.latch 1 == none) = true ∧
      gives (.triggerVisible 1) { signals_full with time.wall := 8191 } (fun t => (t.trig 1).vis == none) = true ∧
      gives (.triggerVisible 1) { signals_full with time.wall := 8192 } (fun t => (t.trig 1).vis == signals_seen) = true ∧
      gives .framePulseOut signals_o (fun t => t.out == [.pulse 0x300000]) = true ∧ signals_i.hasParent = false ∧
      gives .framePulseIn signals_i (fun t => t.fget Reg.TB_STATUS_SOURCE == 3 && !t.holdover) = true ∧
      gives (.triggerVisible 1) { signals_full with time.trigs := [(1, { Trigger.initial with cap := 100, clear := some 4096 })] }
        (fun t => t.latch 1 == none && (t.trig 1).clear == none) = true ∧
      gives .framePulseOut { signals_o with time.wall := 0x300001 } (fun t => t.out.isEmpty) = true ∧ gives .framePulseIn signals_s (fun t => t.out.isEmpty) = true ∧
      gives .framePulseIn { signals_i with time.wall := 0x300001 } (fun t => t.time.wall == 0x300001) = true ∧
      gives .framePulseIn { signals_i with time.wall := 0x310000 } (fun t => t.time.wall == 0x300000) = true ∧
      gives .holdoverOscillatorFailure signals_s (fun t => t.dev == .running) = true ∧
      gives .lossOfReference signals_s (fun t => t.time.refLost && t.flag Reg.TB_STATUS_LOR) = true := by
  decide +kernel

/-- A take of one link, number 2, whose step of two gates runs. -/
def linked : State :=
  (((withReel .running).fsetb (Reg.LK_STATUS_INUSE 2) true).fset (Reg.LK_STATUS_STATE 2) stateUp).fset (Reg.LK_CABLE_RESULT 2) 1

def message_w := { linked with take.active := some { reel1 with leadDev := linked.deviceId } }
def message_m : CutMsg := { gate := 2, shape := 0, digest := 0, adopt := 0 }
def message_st : StopState := { tick := 4096, wallAt := 4096, order := none, sent := false, wr := 65536 }
def message_p := { message_w with time.stop := some message_st, time.frozen := some 4096, dev := .holding }

/-- CutMessages. -/
theorem witness_message :
    message_w.isLead = true ∧ message_w.stepRuns = true ∧ message_w.cutTick = 8192 ∧ message_w.takeLinks = [2] ∧ message_w.ownMessage = some message_m ∧
      gives .cutMessageSend { message_w with time.wall := 8192 } (fun t => t.take.cutMsg == some message_m && t.take.msgSent && t.out.contains (.cutMsg 2 5 2 0 0 0 2)) = true ∧
      linked.linkOpen 2 = true ∧ linked.matched 2 = true ∧ 2 ≠ linked.cutOrder.1 ∧
      gives (.cutMessageReceive ⟨2, 0⟩ linked.takeTag 2 0 0 0) linked (fun t => t.take.cutMsg == some message_m) = true ∧
      gives (.cutMessageReceive ⟨2, 0⟩ message_p.takeTag 0 0 0 0) message_p (fun t => ((t.time.stop.bind (·.order)) == some (0, 0, 0))) = true ∧
      gives (.cutMessageReceive ⟨3, 0⟩ linked.takeTag 2 0 0 0) linked (fun t => decide (t = linked)) = true ∧
      gives (.cutMessageReceive ⟨2, 0⟩ 99 2 0 0 0) linked (fun t => decide (t.take = linked.take)) = true ∧
      gives (.cutMessageReceive ⟨2, 0⟩ linked.takeTag 7 0 0 0) linked (fun t => decide (t.take = linked.take)) = true ∧
      gives (.cutMessageReceive ⟨2, 0⟩ linked.takeTag 2 0 0 0) message_p (fun t => ((t.time.stop.bind (·.order)) == none)) = true ∧
      gives (.cutMessageReceive ⟨2, 0⟩ linked.takeTag 2 0 0 0) linked (fun t => (t.link 2).further 1 [4, linked.takeTag, 2, 0, 0, 0]) = true := by
  decide +kernel

def cut_s :=
  { withReel .running with time.wall := 8192, take.cutMsg := some { gate := 2, shape := 0, digest := 0, adopt := 0 } }
def cut_digest := { cut_s with take.cutMsg := some { gate := 2, shape := 0, digest := 5, adopt := 0 } }
def cut_v := { withReel .running with time.wall := 8192, take.active := some { reel1 with shapePlan := false } }
def cut_n := { withReel .running with time.wall := 8192 }
def cut_settles := cut_v.fset Reg.SV_CTRL_ROLE 1
def cut_p :=
  { withReel .running with time.hold := some ⟨4096, 4096, 3, true⟩, time.frozen := some 4096, time.wall := 8192, take.pauseTo := some 8192 }

/-- SettleAndCut: at the first cut, with and without a message; the settle; the pause's end. -/
theorem witness_cut :
    cut_s.stepRuns = true ∧ cut_s.cutTick ≤ cut_s.planNow ∧ cut_s.beforeCut.recState ≠ 2 ∧ cut_n.beforeCut.shapesServed = false ∧
      gives .cut cut_s (fun t => t.take.lastCut == 8192 && t.take.cutMsg == none && t.fget Reg.SV_CUTS_CUTS == 1) = true ∧
      gives .cut { cut_s with time.wall := 8191 } (fun t => t.take.lastCut == 0) = true ∧
      cut_n.stepRuns = true ∧ cut_n.cutTick ≤ cut_n.planNow ∧ cut_n.beforeCut.take.cutMsg = none ∧
      (cut_digest.beforeCut.take.cutMsg.map (·.digest)) = some 5 ∧ cut_digest.beforeCut.shapesServed = false ∧
      gives .exchangePauseEnd { cut_p with time.wall := 8191 } (fun t => decide (t.take.pauseTo = some 8192)) = true ∧
      cut_settles.stepRuns = true ∧ cut_settles.shapesServed = true ∧ cut_settles.settleTick ≤ cut_settles.planNow ∧ cut_settles.serve.pend = none ∧
      gives .exchangePauseEnd cut_p (fun t => t.time.offset == 1536 && t.planNow == 6656 && decide (t.take.pauseTo = none)) = true := by
  decide +kernel

/-- A packet that arrives undamaged, with the sequence number that its link expects, is whole. -/
theorem whole_clean {s : State} {l : Nat} (p : Packet) (h : s.carries l = true) : Whole s l (p.clean (s.link l).rxSeq) p := by
  simp only [Whole, Rx.crcOk, Rx.hcrcOk, Packet.clean, decide_true, h, and_self]

def rings_r : RingRecord :=
  { type := 1, ctx := 3, seq := 0, token := 5, pos := 0, wall := 0, cut := 0, meter := 0, detail := 0, tag := 0, holdover := false,
    base := 0x4000, log := 2, vector := 1, fresh := true, stamp := 0 }
def rings_x : Ctx := { Ctx.initial with st := .active, ringBase := 0x4000, ringLog := 2, ready := [rings_r] }
def rings_h := ((base .ready).fsetb Reg.HI_MB_CTRL_EN true).fset Reg.HI_STATUS_HOSTROLE 1
def rings_s := rings_h.setCtx 3 rings_x
def rings_d := rings_h.setCtx 3 { rings_x with ready := [], tailDirty := true, irqDirty := true, wrote := 4 }
def rings_late := rings_h.setCtx 3 { rings_x with ready := [], tailDirty := true, irqDirty := true, lastTail := 4090, tailco := 100, lastIrq := 4090, irqco := 100 }
def rings_m := { base .running with serve.mirrorQueue := [⟨1, [], [], []⟩, ⟨2, [], [], []⟩] }
def rings_k : Packet :=
  { vc := 1, pkind := 6, nflit := 1, flag := false, sync := 0, ddev := linked.deviceId, sdev := 0, dcore := 0, score := 0, route := 255, remt := 0,
    pland := 0, daddr := 0, take := 0, data := [0], poison := [false], hdrPoison := false }
def rings_a := { linked with serve.unacked := [1, 2] }

/-- RingsAndMirror. -/
theorem witness_rings :
    rings_s.hostUp = true ∧ rings_s.nextRecord = some 3 ∧ rings_s.host.rewrite = [] ∧
      gives (.ringRecordWrite 3) rings_s (fun t => t.out.contains (.hostWrite 0x4000 (rings_r.bytes rings_r.phase)) && (t.ctx 3).ready.isEmpty && t.host.posted == [.record rings_r]) = true ∧
      gives (.tailWrite 3) rings_d (fun t => t.out.contains (.hostWrite 0x4100 [4, 0, 0, 0]) && !(t.ctx 3).tailDirty) = true ∧
      gives (.tailWrite 3) rings_d (fun t => t.out.contains (.msix 0) && !(t.ctx 3).irqDirty) = true ∧
      gives .mirrorSend rings_m (fun t => t.serve.unacked == [1] && t.serve.mirrorQueue.length == 1) = true ∧
      rings_a.carries 2 = true ∧ (rings_a.link 2).rxSeq = 0 ∧ (match rings_a.fate 2 rings_k with | .route .deliver => true | _ => false) = true ∧
      gives (.ringRecordWrite 4) rings_s (fun t => decide (t = rings_s)) = true ∧ gives (.ringRecordWrite 3) (base .off) (fun t => t.out.isEmpty) = true ∧
      gives (.tailWrite 3) rings_late (fun t => t.out.isEmpty) = true ∧ gives .mirrorSend rings_a (fun t => t.serve.unacked == [1, 2]) = true ∧
      gives .mirrorSend (rings_m.fset (Reg.LK_STATUS_STATE 2) stateUp) (fun t => t.out.contains (.mirrorSent 1 0 [] [] [])) = true := by
  decide +kernel

/-- RingsAndMirror: an acknowledgement of a mirrored cut. -/
theorem witness_mirrored : Whole rings_a 2 (rings_k.clean (rings_a.link 2).rxSeq) rings_k := whole_clean rings_k (by decide +kernel)

/-! ## An image at an address that the spec leaves open -/

/-- HBM with the low byte of the cut index where the next buffer's image begins, and no take tag. -/
def imaged : State :=
  { withReel .running with take.active := some { reel1 with take := 0, shapePlan := false }, hbm := [(Config.areaOffset 1 + 8, 1)] }

/-- SettleAndCut: an image of the next cut in the next buffer. -/
theorem witness_image : imaged.stepRuns = true ∧ imaged.serve.prepared = none ∧ imaged.imageCurrent imaged.nextImage = true := by
  refine ⟨by decide +kernel, rfl, ?_⟩
  have ha : imaged.imageAddr imaged.nextBuffer = Config.areaOffset 1 := by
    have h0 : imaged.fget Reg.SV_AREA_BASE = 0 := by decide +kernel
    have h1 : imaged.nextBuffer = 1 := by decide +kernel
    rw [State.imageAddr, h0, h1, Nat.zero_add]
  have hm : ∀ k, memGet imaged.hbm (Config.areaOffset 1 + k) = if k = 8 then 1 else 0 := by
    intro k
    simp only [imaged, memGet, mapGet, mapFind]
    by_cases h : k = 8
    · simp [h]
    · simp [h, byteDefault]
      rw [if_neg (fun e => h e.symm)]
      rfl
  have ht : imaged.takeTag = 0 := by decide +kernel
  have hc : imaged.fget Reg.SV_CUTS_CUTS = 0 := by decide +kernel
  have h16 : memRead imaged.hbm (Config.areaOffset 1) 16 = [0, 0, 0, 0, 0, 0, 0, 0, 1, 0, 0, 0, 0, 0, 0, 0] := by
    have h0 := hm 0
    simp only [Nat.add_zero] at h0
    simp [memRead, hm, h0, Nat.add_assoc]
  have hr : imaged.nextImage = memRead imaged.hbm (Config.areaOffset 1) 16 ++ memRead imaged.hbm (Config.areaOffset 1 + 16) 147584 := by
    rw [State.nextImage, ha, ← memRead_add]
  rw [State.imageCurrent, ht, hc, hr, h16]
  rfl

/-! ## Links, memory upkeep, power, boot -/

/-- A packet of 8 bytes to core 0 of the linked device. -/
def packet1 (vc kind : Nat) : Packet :=
  { vc := vc, pkind := kind, nflit := 1, flag := false, sync := 0, ddev := linked.deviceId, sdev := 5, dcore := 0, score := 0, route := 255, remt := 0,
    pland := 9000, daddr := 64, take := 5, data := [1, 2, 3, 4, 5, 6, 7, 8], poison := [false], hdrPoison := false }

/-- A device with link 2 open and a link controller in a state. -/
def withLink (k : Link) : State := { linked with links := [(2, k)] }

def leave_p := TxPacket.fresh (packet1 2 0) 4096 0
def leave_q := TxPacket.fresh (packet1 1 4) 0 0
def leave_s := withLink { Link.initial with vc2 := [leave_p], vc1 := [leave_q] }
def leave_b := withLink { Link.initial with vc1 := [leave_q] }

def leave_r := withLink { Link.initial with toSend := [{ leave_q with seq := some 7 }], vc1 := [leave_q] }
def leave_x := withLink { Link.initial with vc1 := [{ leave_q with bad := true }] }

/-- PacketsLeave. -/
theorem witness_leave :
    leave_s.carries 2 = true ∧ leave_s.ready 2 2 = some (leave_p, []) ∧ leave_b.ready 2 1 = some (leave_q, []) ∧ leave_b.ready 2 2 = none ∧ leave_p.bad = false ∧
      gives (.vc2Launch 2) leave_s (fun t => (t.link 2).vc2.isEmpty && (t.link 2).txSeq == 1 && t.out == [.packet 2 0 (packet1 2 0)]) = true ∧
      gives (.packetSend 2) leave_s (fun t => (t.link 2).vc2.isEmpty && (t.link 2).vc1.length == 1) = true ∧
      gives (.packetSend 2) leave_b (fun t => (t.link 2).vc1.isEmpty && (t.link 2).sent == [0, leave_q.pkt.flits, 0]) = true ∧
      gives (.packetSend 2) leave_r (fun t => (t.link 2).toSend.isEmpty && (t.link 2).replay.map (·.seq) == [some 7] && (t.link 2).vc1.length == 1) = true ∧
      gives (.packetSend 2) { leave_s with dev := .off } (fun t => t.out.isEmpty) = true ∧
      gives (.packetSend 2) (withLink Link.initial) (fun t => t.out.isEmpty) = true ∧ gives (.vc2Launch 2) leave_b (fun t => t.out.isEmpty) = true ∧
      gives (.packetSend 2) leave_x (fun t => t.out == [.stomp 2 0 (packet1 1 4)]) = true ∧
      leave_s.vcOpen 2 2 = true ∧ leave_p.pkt.data.length ≤ leave_s.maxData 2 2 ∧ leave_p.pkt.flits ≤ (leave_s.link 2).credits 2 ∧
      gives (.vc2Launch 2) { withLink { Link.initial with vc2 := [{ leave_p with entry := some 0 }] } with time.wall := 4095 } (fun t => (t.link 2).vc2.length == 1) = true := by
  decide +kernel

def ack_p := fun n => { TxPacket.fresh (packet1 1 4) 0 0 with seq := some n }
def ack_s := withLink { Link.initial with replay := [ack_p 0, ack_p 1, ack_p 2] }
def ack_m := withLink { Link.initial with replay := [ack_p 0, ack_p 1, { ack_p 2 with rewinds := 255 }] }
def ack_c := { withLink { Link.initial with accepted := [4, 5, 6] } with time.wall := 0x200000 }
def ack_h :=
  { linked with take.vc0Held := [(9, { packet1 0 2 with ddev := 9, route := 0 })], take.labels := [(0, 0x8000000000000000)] }

/-- AcknowledgeAndReplay. -/
theorem witness_ack :
    splitAck 1 (ack_s.link 2).replay = some ([ack_p 0, ack_p 1], [ack_p 2]) ∧
      gives (.ack 2 1 3 0) ack_s (fun t => (t.link 2).replay == [ack_p 2] && (t.link 2).toSend.isEmpty) = true ∧
      gives (.nak 2 1 3 0) ack_s (fun t => (t.link 2).replay.isEmpty && (t.link 2).toSend == [{ ack_p 2 with rewinds := 1 }]) = true ∧
      splitAck 9 (ack_s.link 2).replay = none ∧ gives (.ack 2 9 1 4) ack_s (fun t => (t.link 2).partnerFreed == [0, 4, 0]) = true ∧
      gives (.replayTimeout 2) { ack_s with time.wall := 0x400000 } (fun t => (t.link 2).toSend.length == 3 && (t.link 2).replay.isEmpty) = true ∧
      gives (.replayTimeout 2) { ack_s with time.wall := 0 } (fun t => (t.link 2).replay.length == 3) = true ∧
      gives (.discard 2 0) ack_s (fun t => (t.link 2).rxSeq == 1) = true ∧
      gives (.creditExchange 2) ack_c (fun t => t.out == [.creditSet 2 [0, 0, 0] [0, 0, 0]]) = true ∧
      gives (.credit 2 [4, 5, 7] [1, 2, 3]) ack_c (fun t => (t.link 2).accepted == [4, 5, 7] && (t.link 2).partnerFreed == [1, 2, 3] &&
        t.fget (Reg.LK_CREDMIS_COUNT 2) == 1) = true ∧
      gives (.ack 2 0 3 0) { ack_s with dev := .off } (fun t => (t.link 2).replay.length == 3) = true ∧
      gives (.nak 2 9 3 0) ack_s (fun t => (t.link 2).toSend.length == 3) = true ∧
      gives (.nak 2 0 3 0) ack_m (fun t => (t.link 2).toSend.length == 1 && t.out == [.discardSet 2 2]) = true ∧
      gives (.discard 2 5) ack_s (fun t => (t.link 2).rxSeq == 0) = true ∧
      gives (.creditExchange 2) { ack_c with time.wall := 0x1FFFFF } (fun t => t.out.isEmpty) = true ∧
      gives (.credit 2 [4, 5, 6] [0, 0, 0]) ack_c (fun t => (t.link 2).accepted == [4, 5, 6] && t.out.isEmpty) = true ∧
      gives (.udrainExpiry 9) { ack_h with take.vc0Last := [(9, (3, 5000))] } (fun t => t.take.vc0Held.length == 1) = true ∧
      (ack_h.lowPath 0).isSome = true ∧ gives (.udrainExpiry 9) ack_h (fun t => t.take.vc0Held.isEmpty) = true := by
  decide +kernel

def packets_s := linked.fsetb (Reg.CL_SLOT_ID_MAPPED 0 0) true
def packets_a := { packets_s with take.labels := [(labelKey (some 2) 1, 0xC000000000000000)] }
def packets_d := { packet1 2 0 with route := 1 }

/-- Whether a packet on link 2 is delivered here. -/
def delivers (s : State) (p : Packet) : Bool :=
  match s.fate 2 p with
  | .route .deliver => s.carries 2
  | _ => false

def packets_f := { packets_s with take.labels := [(labelKey (some 2) 1, 0x8305000000000000)] }
def packets_e := { packets_a with cores := [(0, { core1 with landing := [{ row1 with kind := 3, p := 9000, srcDev := 5, sync := 0, flag := false, base := 0 }] })] }

/-- PacketsArrive: at the slot's core, of a new and of a known transfer, in time and late; forwarded; malformed; out of sequence. -/
theorem witness_packets :
    delivers packets_a packets_d = true ∧ (packets_a.link 2).rxSeq = 0 ∧ packets_a.coreOfDcore 0 = some 0 ∧
      packets_a.planNow ≤ packets_a.extendTick 9000 ∧ stageRoom (packets_a.core 0).landing 8 = true ∧ (packets_a.core 0).landing = [] ∧
      (packets_e.core 0).landing.length = 1 ∧ (∀ y ∈ (packets_e.core 0).landing, packets_d.landsIn (packets_e.extendTick 9000) y = true ∧ y.awaited = []) ∧
      packets_a.extendTick 4095 < packets_a.planNow ∧ packets_a.halted 0 = false ∧ delivers packets_a { packets_d with pland := 4095 } = true ∧
      delivers packets_s (packet1 0 2) = true ∧ delivers packets_a { packets_d with pkind := 1 } = true ∧
      (match packets_s.fate 2 { packet1 1 4 with nflit := 0, pkind := 15 } with | .malformed => true | _ => false) = true ∧
      (match packets_f.fate 2 packets_d with | .route (.forward 3 5 0) => true | _ => false) = true ∧
      linked.carries 3 = false ∧ gives (.unscheduledSend 3 ⟨0, 0, 0, false, []⟩ (packet1 0 2)) linked (fun t => decide (t = linked)) = true ∧
      (packets_s.link 2).nakSent = false ∧ 1 ≠ (packets_s.link 2).rxSeq := by
  decide +kernel

def proxy_g :=
  ((((linked.fset Reg.HI_STATUS_HOSTROLE 2).fsetb (Reg.HI_PX_DEV_VALID 5) true).fset (Reg.HI_PX_DEV_DEVICE 5) 5).fset (Reg.HI_PX_WINLO_ADDR 5) 0x1000).fset (Reg.HI_PX_WINHI_ADDR 5) 0x1007
def proxy_c : Completion := linked.completion 9 1 7 ok
def proxy_x := { linked.fset Reg.HI_STATUS_HOSTROLE 3 with host.posted := [.completion proxy_c] }

/-- PacketsArrive: a gateway, an address inside the window and one outside; a proxied device. -/
theorem witness_proxy :
    proxy_g.hostRole = 2 ∧ proxy_g.flag (Reg.HI_PX_DEV_VALID 5) = true ∧ proxy_g.fget (Reg.HI_PX_DEV_DEVICE 5) = 5 ∧
      proxy_g.fget (Reg.HI_PX_WINLO_ADDR 5) ≤ 0x1000 ∧ 0x1000 + 8 ≤ proxy_g.fget (Reg.HI_PX_WINHI_ADDR 5) + 1 ∧
      ¬ 0x1001 + 8 ≤ proxy_g.fget (Reg.HI_PX_WINHI_ADDR 5) + 1 ∧ delivers proxy_g (packet1 0 3) = true ∧ proxy_x.hostRole = 3 ∧ proxy_x.gateway = 0 ∧
      proxy_x.host.resetAfter = none ∧ delivers proxy_x { packet1 1 4 with sdev := 0 } = true := by
  decide +kernel

def training_st := fun n k => { (base .ready).fset (Reg.LK_STATUS_STATE 2) n with links := [(2, k)], time.wall := 60000000 }
def training_b : TrainBody := { device := 7, slot := 1, role := 1, link := 2, grade := 0, lanes := 15 }
def training_tr := training_st stateTrain { Link.initial with trains := [training_b, training_b], txSeq := 9 }
def training_k := { Link.initial with stateTick := 10000001, codeTick := 59983616 }

/-- LinkTraining. -/
theorem witness_training :
    (training_st stateDown training_k).listens = true ∧ 2 ≤ laneCount (3 &&& (training_st stateDown training_k).laneEnable 2) ∧
      gives (.signalDetect 2 3) (training_st stateDown training_k) (fun t => t.linkState 2 == stateTrain && !t.out.isEmpty) = true ∧
      gives (.signalDetect 2 4) (training_st stateDown training_k) (fun t => t.linkState 2 == stateDown) = true ∧
      gives (.train 2 training_b) (training_st stateTrain training_k) (fun t => (t.link 2).trains == [training_b]) = true ∧
      gives (.trainingComplete 2 15) training_tr (fun t => t.linkState 2 == stateAlign && (t.link 2).txSeq == 0 && t.fget (Reg.LK_PARTNER_ID_DEVICE 2) == 7) = true ∧
      gives (.train 2 training_b) (training_st stateUp training_k) (fun t => (t.link 2).trains.isEmpty) = true ∧
      gives (.trainingComplete 2 15) (training_st stateTrain { training_k with trains := [training_b, { training_b with lanes := 7 }] }) (fun t => t.linkState 2 == stateTrain) = true ∧
      gives (.linkDead 2) (training_st stateDown training_k) (fun t => t.linkState 2 == stateDown) = true ∧
      gives (.failedTimeout 2) (training_st stateFailed { training_k with stateTick := 59999999 }) (fun t => t.linkState 2 == stateFailed) = true ∧
      gives (.trainingTimeout 2) (training_st stateTrain training_k) (fun t => t.linkState 2 == stateTrain) = true ∧
      gives (.trainingTimeout 2) (training_st stateTrain { training_k with stateTick := 10000000 }) (fun t => t.linkState 2 == stateDown) = true ∧
      gives (.linkDead 2) (training_st stateUp training_k) (fun t => t.linkState 2 == stateFailed) = true ∧
      gives (.linkDead 2) (training_st stateUp { training_k with codeTick := 59983617 }) (fun t => t.linkState 2 == stateUp) = true ∧
      gives (.lossOfSignal 2) (training_st stateAlign training_k) (fun t => t.linkState 2 == stateFailed) = true ∧
      gives (.failedTimeout 2) (training_st stateFailed training_k) (fun t => t.linkState 2 == stateDown) = true := by
  decide +kernel

def lanes_k := { Link.initial with rxMask := 15, txMask := 15 }
def lanes_st :=
  fun n lanes_k => { ((base .ready).fset (Reg.LK_STATUS_STATE 2) n).fset (Reg.LK_CABLE_RESULT 2) 1 with links := [(2, lanes_k)], time.wall := 0x20000000 }
def lanes_i := (lanes_st stateUp lanes_k).fset (Reg.LK_CFG_IDLETO 2) 1
def lanes_w := lanes_st stateWake { lanes_k with stateTick := 0x20000000 - 20000, slept := true }

/-- LanesAndSleep. -/
theorem witness_lanes :
    gives (.laneLockLoss 2 1) (lanes_st stateUp lanes_k) (fun t => (t.link 2).rxMask == 13 && t.out.contains (.lanesSet 2 13)) = true ∧
      gives (.laneLockLoss 2 1) (lanes_st stateUp { lanes_k with rxMask := 3 }) (fun t => t.linkState 2 == stateFailed) = true ∧
      gives (.laneErrorLimit 2 0 1000000) (lanes_st stateUp lanes_k) (fun t => (t.link 2).rxMask == 14) = true ∧
      gives (.laneErrorLimit 2 0 0) (lanes_st stateUp lanes_k) (fun t => (t.link 2).rxMask == 15) = true ∧
      gives (.lanes 2 12) (lanes_st stateUp lanes_k) (fun t => (t.link 2).newMask == some 12 && (t.link 2).txMask == 15) = true ∧
      gives (.laneMaskSwitch 2) (lanes_st stateUp { lanes_k with newMask := some 12 }) (fun t => (t.link 2).txMask == 12 && t.fget (Reg.LK_STATUS_LANES 2) == 2) = true ∧
      gives (.laneMaskSwitch 2) (lanes_st stateUp { lanes_k with newMask := some 12, maskDue := 2 ^ 40 }) (fun t => (t.link 2).txMask == 15) = true ∧
      gives (.laneMaskSwitch 2) (lanes_st stateUp lanes_k) (fun t => t.out.isEmpty) = true ∧
      gives (.lanes 2 15) (lanes_st stateUp lanes_k) (fun t => (t.link 2).newMask == none) = true ∧
      gives (.laneLockLoss 2 1) (lanes_st stateDown lanes_k) (fun t => (t.link 2).rxMask == 15) = true ∧
      gives (.idleTimeout 2) (lanes_i.fset (Reg.LK_CABLE_RESULT 2) 2) (fun t => !(t.link 2).sleepAsked) = true ∧
      gives (.idleTimeout 2) (lanes_st stateUp lanes_k) (fun t => !(t.link 2).sleepAsked) = true ∧
      gives (.sleep 2 true false) linked (fun t => t.linkState 2 == stateUp) = true ∧
      gives (.sleep 2 false false) (lanes_st stateUp { lanes_k with sleepAsked := true }) (fun t => !(t.link 2).sleepAsked && t.linkState 2 == stateUp) = true ∧
      gives (.sleep 2 true false) (lanes_st stateTrain lanes_k) (fun t => t.linkState 2 == stateTrain) = true ∧
      gives (.partnerWakeSignal 2) (lanes_st stateUp lanes_k) (fun t => t.linkState 2 == stateUp) = true ∧
      gives (.wakeComplete 2 0) (lanes_st stateWake { lanes_k with stateTick := 0x20000000 - 20001 }) (fun t => t.linkState 2 == stateWake) = true ∧
      gives (.wakeTimeout 2) (lanes_st stateWake { lanes_k with stateTick := 0x20000000 - 19999 }) (fun t => t.linkState 2 == stateWake) = true ∧
      gives (.idleTimeout 2) lanes_i (fun t => (t.link 2).sleepAsked) = true ∧ lanes_i.linkUsed 2 = false ∧
      gives (.sleep 2 true false) (lanes_st stateUp lanes_k) (fun t => t.linkState 2 == stateSleep) = true ∧
      gives (.sleep 2 false true) (lanes_st stateUp { lanes_k with sleepAsked := true }) (fun t => t.linkState 2 == stateSleep) = true ∧
      gives (.partnerWakeSignal 2) (lanes_st stateSleep lanes_k) (fun t => t.linkState 2 == stateWake) = true ∧
      gives (.wakeComplete 2 0) lanes_w (fun t => t.linkState 2 == stateAlign && !(t.link 2).slept) = true ∧
      gives (.wakeTimeout 2) lanes_w (fun t => t.linkState 2 == stateDown) = true := by
  decide +kernel

def slates_a := linked.fset (Reg.LK_STATUS_STATE 2) stateAlign
def slates_s := { linked with time.wall := 0x100000 }
def slates_m : PendGate := { gate := 3, frames := 2, reasons := 8 }
def slates_p := { linked with time.gates := [slates_m] }
def slates_e := { slates_a with time.wall := 1100 }

/-- SlatesAndMarkers. -/
theorem witness_slates :
    slates_s.listens = true ∧ slates_s.linkOpen 2 = true ∧ (slates_s.link 2).slateTick + 512 * slates_s.fget Reg.TB_SLATE_CFG_INTERVAL ≤ slates_s.wallNow ∧
      gives (.slateSend 2) slates_s (fun t => t.out == [.slate 2 0x100000 0 0 slates_s.deviceId slates_s.holdover (slates_s.flag Reg.TB_STATUS_UNALIGNED) 0] && (t.link 2).slateTick == 0x100000) = true ∧
      gives (.slate 2 77 0 0 5 false false) linked (fun t => (t.link 2).lastTsend == 77 && t.linkState 2 == stateUp) = true ∧
      slateResult 1000 1050 1050 1100 = (50, 0) ∧ slates_e.hasParent = false ∧
      gives (.slate 2 1050 1000 1050 5 false false) slates_e (fun t => t.linkState 2 == stateUp && (t.link 2).delay == 50) = true ∧
      linked.stopped = false ∧ linked.planNow < (resolveGate linked.planNow 3 : Int) * 4096 ∧
      gives (.holdMarker ⟨2, 0⟩ 5 3 2 3 9) linked (fun t => t.time.gates == [slates_m]) = true ∧
      gives (.holdMarker ⟨2, 0⟩ 6 3 2 3 9) linked (fun t => t.time.gates.isEmpty) = true ∧
      gives (.slateSend 2) { slates_s with time.wall := 511 } (fun t => t.out.isEmpty) = true ∧
      gives (.slate 3 77 0 0 5 false false) linked (fun t => decide (t = linked)) = true ∧
      gives (.holdMarker ⟨3, 0⟩ 5 3 2 3 9) linked (fun t => decide (t = linked)) = true ∧
      gives (.holdMarker ⟨2, 0⟩ 5 3 2 7 9) linked (fun t => t.time.gates.isEmpty) = true ∧
      gives (.holdMarker ⟨2, 0⟩ 5 3 2 3 9) slates_p (fun t => t.time.gates == [slates_m]) = true ∧
      gives (.holdMarker ⟨2, 0⟩ 5 3 1 3 9) slates_p (fun t => t.time.gates == [slates_m]) = true ∧
      gives (.holdMarker ⟨2, 0⟩ 5 3 4 1 9) slates_p (fun t => t.time.gates == [{ slates_m with frames := 4, reasons := 10 }]) = true ∧
      (slates_p.receiveSet 2 0 [3, 5, 3, 2, 3, 9]).time.gates = [slates_m] ∧
      ((linked.receiveSet 2 0 [3, 5, 3, 2, 3, 9]).link 2).further 1 [3, 5, 3, 2, 3, 9] = true := by
  decide +kernel

/-- `n` multiplications by α. -/
def doubled : Nat → Sym → Sym
  | 0, x => x
  | n + 1, x => gfDouble (doubled n x)

theorem alpha_add (n : Nat) : ∀ m, gfAlpha (n + m) = doubled m (gfAlpha n)
  | 0 => rfl
  | m + 1 => congrArg gfDouble (alpha_add n m)

/-- The field has 1,023 nonzero elements. -/
theorem alpha_1023 : gfAlpha 1023 = 1 := by
  rw [show 1023 = 256 + 256 + 256 + 255 from rfl, alpha_add, alpha_add, alpha_add, show gfAlpha 256 = 270 by decide +kernel,
    show doubled 256 270 = 532 by decide +kernel, show doubled 256 532 = 67 by decide +kernel]
  decide +kernel

/-- SlatesAndMarkers: a word whose one symbol is wrong. -/
theorem witness_corrected : rsCorrect [1] = some ([0], [0]) ∧ (codewordOf [0]).type ≠ 3 := by
  have h : rsError 1 (rsSyndromes [1]) (rsLocate (rsSyndromes [1])) 0 = some 1 := by
    simp only [rsError, Nat.sub_zero, Nat.sub_self, alpha_1023]
    decide +kernel
  have hs : (rsSyndromes [1]).all (· == 0) = false := by decide +kernel
  have hk : (rsLocate (rsSyndromes [1])).order = 1 := by decide +kernel
  have hr : (List.map (rsError 1 (rsSyndromes [1]) (rsLocate (rsSyndromes [1]))) (upFrom 0 1)) = [some 1] := by
    show [rsError 1 (rsSyndromes [1]) (rsLocate (rsSyndromes [1])) 0] = _
    rw [h]
  simp only [rsCorrect, hs, List.length_singleton, hr, hk, Bool.false_eq_true, if_false]
  decide +kernel

/-- A multiple of the code's generator, highest power first. -/
def multiple (c : Sym) : List Sym := (rsGenerator 12).reverse.map (gfMul c)

/-- SlatesAndMarkers: a codeword of the reserved TYPE, and an ordered set of a reserved type. -/
theorem witness_codewords :
    rsCorrect (multiple 5) = some (multiple 5, []) ∧ (codewordOf (multiple 5)).type = 3 ∧ rsCorrect (multiple 4) = some (multiple 4, []) ∧
      (codewordOf (multiple 4)).type = 1 ∧ reservedSet (codewordOf (multiple 4)).osType = true ∧
      gives (.uncorrectableCodeword 2 ⟨0, multiple 5, true⟩) linked (fun t => t.fget (Reg.LK_FEC_UNC_COUNT 2) == 1 && t.fget (Reg.LK_SLATELOST_COUNT 2) == 1) = true ∧
      gives (.uncorrectableCodeword 2 ⟨0, multiple 4, false⟩) linked (fun t => t.fget (Reg.LK_MALFORMED_COUNT 2) == 1) = true := by
  decide +kernel

def upkeep_s :=
  { (base .ready).fset (Reg.HM_PATROL_PERIOD 1) 1 with hbmStacks := [(1, { Stack.initial with pwb := [2 ^ 31 + 4] })], hbm := [(2 ^ 36, 5)], spad := [(9, 1)] }
def upkeep_t0 := upkeep_s.fsetb (Reg.HM_SCRUB_BUSY 1) false

def upkeep_bad := { upkeep_t0 with hbmMeta := [(2 ^ 31, ⟨false, .uncorrectable⟩)] }
def upkeep_last := { upkeep_t0 with hbmStacks := [(1, { Stack.initial with patrol := 2 ^ 31 - 1, found := some (9, true) })] }

/-- MemoryUpkeep. -/
theorem witness_upkeep :
    upkeep_s.scrubbing 0 = true ∧ upkeep_s.running? 0x02 = none ∧
      gives (.scrubComplete (some core0) 1) upkeep_s (fun t => t.spad.isEmpty && t.flag (Reg.CL_SCRUB_DONE 0 0) && t.hbm.length == 1) = true ∧
      upkeep_s.flag (Reg.HM_SCRUB_BUSY 1) = true ∧
      gives (.scrubComplete none 1) upkeep_s (fun t => t.hbm.isEmpty && t.flag (Reg.HM_SCRUB_DONE 1) && t.spad.length == 1) = true ∧
      upkeep_t0.patrols 1 = true ∧ gives (.patrolRead 1) upkeep_t0 (fun t => (t.stack 1).patrol == 1) = true ∧
      gives (.poisonWriteback 1) upkeep_s (fun t => t.unitMeta (2 ^ 31 + 4) == ⟨true, .clean⟩) = true ∧
      gives (.refreshWindow 1 31) upkeep_s (fun t => mapGet (fun _ => 0) (t.stack 1).windows 31 == 4097) = true ∧
      gives (.temperatureSample 1 94) upkeep_s (fun t => t.fget (Reg.HM_STATUS_TEMP 1) == 94 && t.flag (Reg.HM_STATUS_DOUBLE 1) && !t.flag (Reg.HM_STATUS_OVERTEMP 1)) = true ∧
      gives (.scrubComplete (some core0) 1) (upkeep_s.fsetb (Reg.CL_SCRUB_BUSY 0 0) false) (fun t => t.spad.length == 1) = true ∧
      gives (.scrubComplete none 1) upkeep_t0 (fun t => t.hbm.length == 1) = true ∧ gives (.patrolRead 1) (base .off) (fun t => (t.stack 1).patrol == 0) = true ∧
      (upkeep_bad.unitMeta (2 ^ 31)).check = .uncorrectable ∧
      gives (.patrolRead 1) upkeep_last (fun t => (t.stack 1).patrol == 0 && t.fget (Reg.HM_PATROL_PASSES 1) == 1 && t.unitMeta 9 == ⟨true, .clean⟩) = true ∧
      gives (.poisonWriteback 2) upkeep_s (fun t => (t.stack 1).pwb == [2 ^ 31 + 4]) = true ∧
      gives (.refreshWindow 1 31) { upkeep_s with hbmStacks := [(1, { Stack.initial with windows := [(31, 4097)] })] } (fun t => mapGet (fun _ => 0) (t.stack 1).windows 31 == 4097) = true ∧
      gives (.temperatureSample 1 83) upkeep_s (fun t => !t.flag (Reg.HM_STATUS_DOUBLE 1)) = true := by
  decide +kernel

def power_s := base .ready
def power_ptp :=
  ((((power_s.fset Reg.FE_PORT_P0 3).fset Reg.FE_PTP_STAT_STATE 3).fsetb Reg.FE_PTP_CFG_EN true).fset Reg.FE_PTP_CFG_PORTS 3).fset Reg.TB_CTRL_ROOTSRC 1
def power_b := { power_s.fsetb Reg.PW_STATUS_BRAKE true with manage.overTicks := 3072 }

def ptp_h : PtpHead := { port := 0, domain := 0, transport := 0, sender := 9, seq := 5 }
def ptp_c : PtpClock := { priority1 := 128, clockClass := 6, accuracy := 33, variance := 0, priority2 := 128, gm := 77, steps := 0, utc := none }
def ptp_s := { power_ptp with time.ptp.chosen := some (0, 9), time.ptp.masters := [((0, 9), ptp_c)], time.ptp.delay := some 10 }

/-- ClocksAndPower. -/
theorem witness_power :
    power_s.regionPresent 56 = true ∧ power_s.fget (Reg.PW_BARO_BAND 56) = 0 ∧ power_s.fget (Reg.PW_BARO_RATIO 56) < 320 ∧
      gives (.clockRaise 56) power_s (fun t => t.fget (Reg.PW_BARO_RATIO 56) == power_s.fget (Reg.PW_BARO_RATIO 56) + 1) = true ∧
      gives (.barometerBand 56 .narrow) power_s (fun t => t.fget (Reg.PW_BARO_RATIO 56) == 256 && t.fget (Reg.PW_BARO_BAND 56) == 1) = true ∧
      power_s.fget Reg.PW_LIMIT_WATTS * (256 + power_s.fget Reg.PW_BRAKE_CFG_MARGIN) < 256 * 4000 ∧
      256 * 1200 ≤ power_s.fget Reg.PW_LIMIT_WATTS * (256 + power_s.fget Reg.PW_BRAKE_CFG_MARGIN) ∧ gives (.brakeEngage .power 1200) power_s (fun t => !t.flag Reg.PW_STATUS_BRAKE) = true ∧
      power_b.hotStack = false ∧ gives .brakeRelease power_b (fun t => !t.flag Reg.PW_STATUS_BRAKE) = true ∧
      gives .brakeRelease { power_b with time.wall := 4095 } (fun t => t.flag Reg.PW_STATUS_BRAKE) = true ∧
      power_s.flag Reg.PW_STATUS_TRIP = false ∧
      gives (.frontEndFrameDrop 1) power_s (fun t => t.fget Reg.FE_DROP_COUNT == 1) = true ∧
      gives (.frontEndLinkChange 1 true true) power_s (fun t => t.portUp 1) = true ∧ power_ptp.hasParent = false ∧ power_ptp.ptpTakes ptp_h = true ∧
      power_s.ptpTakes ptp_h = false ∧ ptp_c.steps < 255 ∧
      gives (.ptpMessage (.announce ptp_h ptp_c)) power_ptp (fun t => t.time.ptp.chosen == some (0, 9) && t.fget Reg.FE_PTP_STAT_STATE == 2 &&
        t.fget Reg.FE_PTP_GM_CLOCKID == 77) = true ∧ ptp_s.ptpChosen ptp_h = true ∧
      gives (.ptpMessage (.sync ptp_h (some 4080))) ptp_s (fun t => t.out == [.delayReq 0 0 0 0]) = true ∧
      gives (.ptpMessage (.sync ptp_h none)) ptp_s (fun t => t.time.ptp.pair == some (5, 4096)) = true ∧
      gives (.ptpMessage (.followUp ptp_h 4000)) { ptp_s with time.ptp.pair := some (5, 4090) } (fun t => t.fget Reg.FE_PTP_OFS_OFS == 80) = true ∧
      gives (.ptpMessage (.delayResp ptp_h 4130)) { ptp_s with time.ptp.ask := some (5, 4100), time.ptp.last := some (4000, 4020) }
        (fun t => t.time.ptp.delay == some 25 && t.time.ptp.ask == none) = true ∧
      gives (.clockRaise 56) (power_s.fset (Reg.PW_BARO_RATIO 56) 320) (fun t => t.fget (Reg.PW_BARO_RATIO 56) == 320) = true ∧
      gives (.barometerBand 56 .ample) power_s (fun t => t.fget (Reg.PW_BARO_BAND 56) == 0) = true ∧
      gives (.thermalTrip 104 90 94) power_s (fun t => t.dev == .ready && !t.flag Reg.PW_STATUS_BRAKE) = true := by
  decide +kernel

def elect_s := base .ready
def elect_busy : PeriodLoad := { fault := 800, mailbox := 100, serving := 100, telemetry := 1000, lost := 1 }
def elect_calm : PeriodLoad := { fault := 0, mailbox := 0, serving := 0, telemetry := 100, lost := 0 }
def elect_settled :=
  { elect_s with manage := { elect_s.manage with procW := { Processor.initial with estate := .settled, missed := 2 } } }

def elect_div := ({ elect_s with manage.procW := { Processor.initial with good := 15 } } : State).fset (Reg.DD_MP_TDIV 0) 3
def elect_back := { elect_s with manage.procW := { Processor.initial with estate := .isolated, got := 9 } }
def elect_alone := { elect_s with manage.procW := { Processor.initial with estate := .isolated, got := 8 } }

/-- ProcessorsElect. -/
theorem witness_elect :
    elect_calm.sampled = true ∧ elect_busy.sampled = false ∧ elect_s.fget (Reg.DD_MP_TDIV 0) = 0 ∧ elect_s.dirmap ≠ 3 ∧
      gives (.managementPeriod 0 elect_calm) elect_s (fun t => t.fget (Reg.DD_MP_TDIV 0) == 0) = true ∧
      gives (.managementPeriod 0 elect_busy) elect_s (fun t => t.fget (Reg.DD_MP_TDIV 0) == 1) = true ∧
      gives (.heartbeat 1 false) elect_s (fun t => (t.proc 1).estate == .settled) = true ∧
      gives (.heartbeat 1 true) elect_s (fun t => (t.proc 1).estate == .contra && t.out.contains (.ibi 1)) = true ∧
      gives (.heartbeatMissed 0) elect_settled (fun t => (t.proc 0).estate == .isolated) = true ∧
      gives (.managementPeriod 0 elect_calm) elect_div (fun t => t.fget (Reg.DD_MP_TDIV 0) == 2 && (t.proc 0).good == 0) = true ∧
      gives (.managementPeriod 0 elect_calm) { elect_div with manage.procW := { Processor.initial with good := 14 } } (fun t => t.fget (Reg.DD_MP_TDIV 0) == 3 && (t.proc 0).good == 15) = true ∧
      gives (.heartbeat 0 false) elect_back (fun t => (t.proc 0).estate == .settled) = true ∧ gives (.heartbeat 0 false) elect_alone (fun t => (t.proc 0).estate == .isolated) = true ∧
      gives (.heartbeatMissed 0) elect_s (fun t => (t.proc 0).missed == 1 && (t.proc 0).estate == .undecided) = true ∧
      gives (.heartbeat 0 false) (base .off) (fun t => (t.proc 0).estate == .undecided) = true ∧
      gives (.strapSample 1 true) elect_s (fun t => t.strapOf 1 && t.flag Reg.DD_STATUS_STRAPE) = true := by
  decide +kernel

def boot_o := base .off
def boot_s := { base .ready with hbm := [(1, 1)] }
def boot_p : Straps := { slot := 3, role := 1, dirW := false, dirE := false }
def boot_r : ScreenResult := { badSlots := [], repaired := [], spareLeft := [], retired := [], usableLinks := 64, degradedLinks := 0 }
def boot_f : BootFacts := { slotAValid := true, slotBValid := false, screen := boot_r, dirW := false, dirE := false }
def boot_b := base .boot
def boot_map3 := { boot_b with manage.sheets := [some { sheet0 with dirmap := 3 }, none] }
def boot_x := { boot_b.writeJournal { boot_b.journal with trial := some true, trials := 3 } with time.wall := 20000000000 }

/-- PowerAndBoot: a boot without firmware, one that works, a trial that does not. -/
theorem witness_boot :
    gives (.mainPowerGood boot_p) boot_o (fun t => t.dev == .boot && t.manage.straps == boot_p) = true ∧
      gives (.powerLost true) boot_s (fun t => t.dev == .off && t.hbm.isEmpty) = true ∧
      gives .i3cReset boot_s (fun t => t.dev == .boot && t.hbm.isEmpty) = true ∧
      gives .hostInterfaceReset boot_s (fun t => t.flag Reg.HI_STATUS_RSTSEEN && t.dev == .ready) = true ∧
      boot_b.contra = false ∧ ({ boot_f with slotAValid := false }).settle boot_b.chooseSlot.1 = none ∧ (boot_f.settle boot_b.chooseSlot.1).isSome = true ∧ 9 ≤ boot_b.countGood 0 ∧
      gives (.bootComplete boot_f) boot_b (fun t => t.dev == .ready) = true ∧
      gives .trialTimeout { boot_x with time.wall := 19999999999 } (fun t => t.journal.trials == 3) = true ∧
      gives .i3cReset boot_o (fun t => t.dev == .off) = true ∧ gives (.bootComplete boot_f) boot_s (fun t => t.dev == .ready) = true ∧
      gives (.mainPowerGood boot_p) boot_s (fun t => t.dev == .ready) = true ∧ (boot_map3.chosenSheet.map (·.dirmap)) = some 3 ∧
      (∀ n, boot_o.statAsserted n = false) ∧ (base .failed).statAsserted 2 = true ∧
      gives .trialTimeout boot_x (fun t => t.dev == .boot && t.journal.trials == 2) = true := by
  decide +kernel

/-! ## Well-formedness: one ill-formed command per check -/

/-- An undamaged packet as a receiver finds it, its checks not computed. -/
def plain : Rx := { seq := 0, crc := 0, hcrc := 0, bad := false, fixed := [] }

theorem test_wf_good : ([.load order1 reel1, .callsheet order1 (List.replicate 1024 0), .ack 2 4095 3 255,
    .scheduledSendPacket 2 plain (packet1 2 0), .credit 2 [0, 0, 0] [0, 0, 0], .unload order1].all Instr.wellFormed) = true := by decide +kernel

theorem test_wf_orders : ([.load order1 { reel1 with take := 0x10000 }, .stage order1 { reel1 with dir := [⟨256, 0, 0, 0, true⟩] },
    .copyout order1 0 0 0 ⟨0, 2 ^ 32⟩, .cnDump order1 0 0 (2 ^ 32), .dbgUnlock order1 ⟨[], 0, true⟩, .cnClear order1 ⟨[1], 0, true⟩,
    .malformedOrder [] 0].any Instr.wellFormed) = false := by decide +kernel

theorem test_wf_buses : ([.registerWrite .pcie .w32 (2 ^ 26) 0, .rcRead .pcie .w32 (2 ^ 26), .lowWordRead .pcie .w32 (2 ^ 26)].any
    Instr.wellFormed) = false := by decide +kernel

theorem test_wf_sets : ([.cutMessageReceive ⟨0, 0⟩ 0x10000 0 0 0 0, .cutMessageReceive ⟨0, 0⟩ 0 (2 ^ 20) 0 0 0, .cutMessageReceive ⟨0, 0⟩ 0 0 64 0 0,
    .cutMessageReceive ⟨0, 3⟩ 0 0 0 0 0, .holdMarker ⟨0, 0⟩ 0 0 256 0 0, .holdMarker ⟨0, 0⟩ 0 0 0 16 0, .holdMarker ⟨0, 0⟩ 0 0 0 0 (2 ^ 18),
    .holdMarker ⟨0, 3⟩ 0 0 0 0 0, .slate 0 0 0 0 (2 ^ 18) false false, .uncorrectableCodeword 0 ⟨0, [], false⟩,
    .ack 0 4096 0 0, .nak 0 0 4 0, .nak 0 0 0 256, .discard 0 4096, .credit 0 [0, 0] [0, 0, 0], .credit 0 [0, 0, 0] [0],
    .train 0 ⟨2 ^ 18, 0, 0, 0, 0, 0⟩, .train 0 ⟨0, 256, 0, 0, 0, 0⟩, .udrainExpiry (2 ^ 18)].any Instr.wellFormed) = false := by decide +kernel

theorem test_wf_packets : ([.scheduledSendPacket 0 { plain with seq := 4096 } (packet1 2 0), .unscheduledSend 0 plain (packet1 4 0),
    .proxiedResponse 0 plain (packet1 1 16), .redxContribution 0 plain (packet1 2 1) 256 0 0 false,
    .proxiedRequest 0 plain { packet1 0 3 with poison := [] } .write 0, .mirrorAcknowledgement 0 plain { packet1 1 6 with route := 256 } 0,
    .mirrorWrite 0 plain { packet1 0 5 with daddr := 2 ^ 40 } 0 ⟨0, 0, [], none⟩ [] false true].any Instr.wellFormed) = false := by decide +kernel

/-- The rows of the table give no bits. -/
theorem test_no_bits : decodeTableWord 16 0xFFFF = none := by decide

end Sys2Proof.Tests
end

section
/-! # Arming: what ARM leaves of the take and of plan time (R34, R356, R357, R391) -/

namespace Sys2Proof.Machine

open Sys2Proof.Claims

/-! ## The log and the device state -/

/-- Logging changes the log only. -/
theorem State.logOn_eq (s : State) (d ev cls kind unit detail : Nat) :
    ∃ l, s.logOn d ev cls kind unit detail = { s with log := l } := by
  have die : ∀ l, ∃ x, s.setDieLog d l = { s with log := x } := by
    intro l
    unfold State.setDieLog
    split <;> exact ⟨_, rfl⟩
  unfold State.logOn
  dsimp only
  split
  · exact die _
  · split
    · split <;> exact die _
    · exact die _

theorem State.logEvent_eq (s : State) (ev cls kind unit detail : Nat) :
    ∃ l, s.logEvent ev cls kind unit detail = { s with log := l } := s.logOn_eq _ _ _ _ _ _

/-- Entering a device state changes that state, the log and what goes out. -/
theorem State.setDev_eq (s : State) (d : DevState) : ∃ l x, s.setDev d = { s with dev := d, log := l, out := x } := by
  unfold State.setDev
  split
  · next h => exact ⟨s.log, s.out, by rw [← h]⟩
  · obtain ⟨l, h⟩ := s.logEvent_eq 0x83 0 0 0 (s.dev.code * 16 + d.code)
    exact ⟨l, s.out ++ [_], by dsimp only; rw [h]; rfl⟩

/-! ## The checks of Table 12.10 -/

/-- A check that fails makes its list fail, with the code of one of the list's checks. -/
theorem firstFail_of_mem {code item : Nat} : ∀ {cs : List (Nat × Option Nat)}, (code, some item) ∈ cs →
    ∃ f, firstFail cs = some f ∧ ∃ c ∈ cs, c.1 = f.1
  | (c, some i) :: _, _ => ⟨(c, i), rfl, _, List.mem_cons_self, rfl⟩
  | (c, none) :: cs, h => by
    obtain ⟨f, hf, x, hx, he⟩ := firstFail_of_mem (cs := cs) (by simpa using h)
    exact ⟨f, hf, x, List.mem_cons_of_mem _ hx, he⟩

/-- A first cue off the multiples of 4,096 fails a check, with a code above 0 (R34). -/
theorem State.armChecks_fail_of_unaligned (s : State) (r : Reel) {first : Nat} (h : first % 4096 ≠ 0) :
    ∃ code item, firstFail (s.armChecks r first) = some (code, item) ∧ 0 < code := by
  have hfail : failIf (decide (first % 4096 ≠ 0) || decide (first < s.wallNow + 1048576)) = some 0 := by
    rw [decide_eq_true h]; rfl
  have hm : (0x03, some 0) ∈ s.armChecks r first := by
    unfold State.armChecks
    rw [hfail]
    exact List.mem_append_left _ (.tail _ (.tail _ (.head _)))
  have hpos : ∀ c ∈ s.armChecks r first, 0 < c.1 := by simp [State.armChecks, State.reelChecks]
  obtain ⟨⟨code, item⟩, hf, c, hc, he⟩ := firstFail_of_mem hm
  have hc0 : 0 < c.1 := hpos c hc
  exact ⟨code, item, hf, by rwa [he] at hc0⟩

@[simp] theorem State.showArm_dev (s : State) (r : Reel) (f : Option (Nat × Nat)) : (s.showArm r f).dev = s.dev := by
  unfold State.showArm
  split
  · rw [State.setReg_dev, State.fset_dev, State.fset_dev, State.fsetb_dev]
  · dsimp only
    split
    · rw [State.setReg_dev, State.fset_dev, State.fset_dev, State.fsetb_dev]
    · rw [State.fset_dev, State.fset_dev, State.fset_dev, State.fsetb_dev, State.fset_dev, State.fset_dev, State.fsetb_dev]

/-- A failed check shows its code in HI_ARM. -/
theorem State.showArm_code (s : State) (r : Reel) (code item : Nat) :
    (s.showArm r (some (code, item))).fget Reg.HI_ARM_CODE = code % 256 := by
  have hcode : ∀ u : State, (u.fset Reg.HI_ARM_CODE code).fget Reg.HI_ARM_CODE = code % 256 := fun u =>
    u.fget_fset_same (by decide) code
  have hset : ∀ (u : State) w, (u.setReg Reg.TB_ARM_CHECK w).fget Reg.HI_ARM_CODE = u.fget Reg.HI_ARM_CODE := fun u w => by
    rw [State.fget_oneWord _ (by decide), State.fget_oneWord _ (by decide), State.reg_setReg_ne _ _ (by decide)]
  unfold State.showArm
  dsimp only
  split
  · exact (hset _ _).trans (hcode _)
  · have hchk : ∀ (u : State) (f : Fld) v, Reg.HI_ARM_CODE.wordsApart f = true →
        (u.fset f v).fget Reg.HI_ARM_CODE = u.fget Reg.HI_ARM_CODE := fun u f v h => u.fget_fset_words h v
    simp only [State.fsetb]
    rw [hchk _ Reg.TB_ARM_CHECK_SHORT _ (by decide), hchk _ Reg.TB_ARM_CHECK_KIND _ (by decide),
      hchk _ Reg.TB_ARM_CHECK_LINK _ (by decide), hchk _ Reg.TB_ARM_CHECK_FAIL _ (by decide)]
    exact hcode _

/-! ## What the rest of an arm keeps -/

/-- What an arm has fixed of the plan offset, joining, admission and the cut index stands. -/
structure ArmKeeps (s t : State) : Prop where
  offset : t.time.offset = s.time.offset
  joined : t.take.joined = s.take.joined
  admission : t.faults.admission = s.faults.admission
  cuts : t.fget Reg.SV_CUTS_CUTS = s.fget Reg.SV_CUTS_CUTS

namespace ArmKeeps

theorem refl (s : State) : ArmKeeps s s := ⟨rfl, rfl, rfl, rfl⟩

theorem trans {s t u : State} (h : ArmKeeps s t) (h' : ArmKeeps t u) : ArmKeeps s u :=
  ⟨h'.offset.trans h.offset, h'.joined.trans h.joined, h'.admission.trans h.admission, h'.cuts.trans h.cuts⟩

theorem foldl {α : Type} {f : State → α → State} (h : ∀ s x, ArmKeeps s (f s x)) :
    ∀ (xs : List α) (s : State), ArmKeeps s (xs.foldl f s)
  | [], s => refl s
  | x :: xs, s => (h s x).trans (foldl h xs _)

end ArmKeeps

/-- A register field of other words than SV_CUTS. -/
theorem State.fset_armKeeps (s : State) {f : Fld} (v : Nat) (h : Reg.SV_CUTS_CUTS.wordsApart f = true) : ArmKeeps s (s.fset f v) :=
  ⟨by simp, by simp, by simp, s.fget_fset_words h v⟩

theorem State.armTrigs_keeps (s : State) : ArmKeeps s s.armTrigs :=
  ArmKeeps.foldl (f := fun s n => s.setTrig n { s.trig n with
    cap := s.planNow, vis := none, clear := none, atCut := none, atCutVis := none })
    (fun _ _ => ⟨rfl, rfl, rfl, State.fget_congr _ rfl⟩) _ _

theorem State.joinServing_keeps (s : State) (r : Reel) : ArmKeeps s (s.joinServing r) := by
  have h := s.fset_armKeeps (f := Reg.SV_POOL_FREE_FREE) s.serve.freeList.length (by decide)
  unfold State.joinServing
  dsimp only
  split
  · exact h
  · exact h.trans ⟨rfl, rfl, rfl, State.fget_congr _ rfl⟩

theorem State.armServing_keeps (s : State) (r : Reel) : ArmKeeps s (s.armServing r) := by
  unfold State.armServing
  dsimp only
  refine ArmKeeps.trans ?_ (State.fset_armKeeps _ _ (by decide))
  split <;> exact ⟨rfl, rfl, rfl, State.fget_congr _ rfl⟩

theorem State.armShape_keeps (s : State) (r : Reel) (join : Bool) : ArmKeeps s (s.armShape r join).2 := by
  unfold State.armShape
  cases join <;> exact ⟨rfl, rfl, rfl, State.fget_congr _ rfl⟩

/-- The words of the sync counters are not those of SV_CUTS, whatever the counter's number. -/
theorem cuts_apart_syncField (ctr : Nat) : Reg.SV_CUTS_CUTS.wordsApart (syncField ctr) = true := by
  have hk : ctr % 2048 < 2048 := Nat.mod_lt _ (by decide)
  have h : 0xE00048 + 4 * (63 / 32) < 0x204000 + 0x100000 * (ctr / 2048) + 4 * (ctr % 2048) ∨
      0x204000 + 0x100000 * (ctr / 2048) + 4 * (ctr % 2048) + 4 * (31 / 32) < 0xE00048 := by omega
  rw [Fld.wordsApart, Bool.or_eq_true, decide_eq_true_eq, decide_eq_true_eq]
  exact h.symm

theorem State.setCounter_keeps (s : State) (ctr n : Nat) (t : Int) : ArmKeeps s (s.setCounter ctr n t) :=
  (s.fset_armKeeps _ (cuts_apart_syncField ctr)).trans ⟨rfl, rfl, rfl, State.fget_congr _ rfl⟩

@[simp] theorem State.setCounter_take (s : State) (ctr n : Nat) (t : Int) : (s.setCounter ctr n t).take = s.take := by
  unfold State.setCounter State.onSeq
  simp

theorem State.reg_mapClear (s : State) (lo n a : Nat) (h : a < lo ∨ lo + n ≤ a) :
    ({ s with regs := mapClear s.regs lo n } : State).reg a = s.reg a := by
  have find : ∀ m : SMap Word, mapFind (mapClear m lo n) a = mapFind m a := by
    intro m
    induction m with
    | nil => rfl
    | cons e m ih =>
      obtain ⟨k, v⟩ := e
      unfold mapClear at ih ⊢
      rw [List.filter_cons]
      by_cases hk : k = a
      · subst hk
        have hout : (!(decide (lo ≤ k) && decide (k < lo + n))) = true := by
          simp only [Bool.not_eq_true', Bool.and_eq_false_iff, decide_eq_false_iff_not]; omega
        rw [if_pos hout]
        simp only [mapFind, if_true]
      · split
        · simp only [mapFind, hk, if_false, ih]
        · simp only [mapFind, hk, if_false, ih]
  simp only [State.reg, mapGet, find]

/-- Clearing the sync counters of the four clusters. -/
theorem State.clearSync_keeps (s : State) (c : Nat) :
    ArmKeeps s { s with regs := mapClear s.regs (Reg.CL_SYNC c 0) 8192 } := by
  refine ⟨rfl, rfl, rfl, ?_⟩
  unfold State.fget
  rw [State.quantity_congr _ s]
  intro i hi
  apply State.reg_mapClear
  simp only [Reg.SV_CUTS_CUTS, Reg.SV_CUTS, Reg.CL_SYNC] at hi ⊢
  omega

theorem State.initCounters_keeps (s : State) : ArmKeeps s s.initCounters := by
  unfold State.initCounters
  dsimp only
  have h := ArmKeeps.foldl (fun s c => State.clearSync_keeps s c) (upFrom 0 4) s
  split
  · exact h.trans (ArmKeeps.foldl (fun s _ => s.setCounter_keeps _ _ _) _ _)
  · exact h

/-- A fold of updates that each leave the take alone. -/
theorem State.foldl_take {α : Type} {f : State → α → State} (h : ∀ s x, (f s x).take = s.take) :
    ∀ (xs : List α) (s : State), (xs.foldl f s).take = s.take
  | [], _ => rfl
  | x :: xs, s => (State.foldl_take h xs (f s x)).trans (h s x)

theorem State.initCounters_take (s : State) : s.initCounters.take = s.take := by
  have h : ((upFrom 0 4).foldl (fun (s : State) c => { s with regs := mapClear s.regs (Reg.CL_SYNC c 0) 8192 }) s).take = s.take :=
    State.foldl_take (f := fun s c => { s with regs := mapClear s.regs (Reg.CL_SYNC c 0) 8192 }) (fun _ _ => rfl) _ _
  unfold State.initCounters
  dsimp only
  split
  · exact (State.foldl_take (fun s _ => s.setCounter_take _ _ _) _ _).trans h
  · exact h

theorem State.beginStep_keeps (s : State) (shape : Nat) (tick : Int) : ArmKeeps s (s.beginStep shape tick) :=
  ArmKeeps.trans (t := { s with
      cores := mapAll (fun _ => Core.initial) (·.clearWritten) s.cores
      seqs := mapAll (fun _ => Seq.initial) (·.stepStart) s.seqs
      written := [], epoch := s.epoch + 1
      take.shape := shape, take.lastCut := tick, take.cutMsg := none, take.msgSent := false })
    ⟨rfl, rfl, rfl, State.fget_congr _ rfl⟩ (State.initCounters_keeps _)

theorem State.beginStep_lastCut (s : State) (shape : Nat) (tick : Int) : (s.beginStep shape tick).take.lastCut = tick := by
  unfold State.beginStep
  rw [State.initCounters_take]

theorem State.armReplay_keeps (s : State) : ArmKeeps s s.armReplay := by
  unfold State.armReplay
  split
  · exact ArmKeeps.trans (t := { s with log.replayArmed := false }) ⟨rfl, rfl, rfl, State.fget_congr _ rfl⟩
      (State.fset_armKeeps _ (f := Reg.CN_REC_STATE) _ (by decide))
  · exact ArmKeeps.refl s

@[simp] theorem State.armReplay_take (s : State) : s.armReplay.take = s.take := by
  unfold State.armReplay
  split <;> simp

/-- The last act of an arm: the device is ARMED, and says so. -/
theorem State.enterArmed (s : State) (tag : Nat) :
    ((s.setDev .armed).logReel 3 tag).dev = .armed ∧ ((s.setDev .armed).logReel 3 tag).take = s.take ∧
      ArmKeeps s ((s.setDev .armed).logReel 3 tag) := by
  obtain ⟨l, x, h⟩ := s.setDev_eq .armed
  obtain ⟨l', h'⟩ := (s.setDev .armed).logEvent_eq 0x84 0 0 0 (3 * 2 ^ 28 + tag)
  unfold State.logReel
  rw [h', h]
  exact ⟨rfl, rfl, rfl, rfl, rfl, State.fget_congr _ rfl⟩

/-! ## The arm -/

theorem State.armTake_joined (s : State) (o : Order) (r : Reel) (join : Option (Nat × Int)) :
    (s.armTake o r join).take.joined = join.isSome := by
  unfold State.armTake
  simp

theorem State.armTake_cuts (s : State) (o : Order) (r : Reel) (join : Option (Nat × Int)) :
    (s.armTake o r join).fget Reg.SV_CUTS_CUTS = (join.map (·.1)).getD 0 % 2 ^ 64 := by
  unfold State.armTake
  exact (State.fget_fset_words _ (by decide) _).trans (State.fget_fset_64 _ _ _)

/-- What an arm at wall tick `first` leaves: the state ARMED, plan time `tick` and cut index `cuts` there, and an admission that
completed joined. -/
structure Armed (s t : State) (first : DWord) (tick : Int) (cuts : Nat) (join : Bool) : Prop where
  dev : t.dev = .armed
  offset : t.time.offset = first - BitVec.ofInt 64 tick
  lastCut : t.take.lastCut = tick
  joined : t.take.joined = join
  cuts : t.fget Reg.SV_CUTS_CUTS = cuts % 2 ^ 64
  admission : s.admitted join = true → t.faults.admission = .joined

theorem State.armed_armed (s : State) (o : Order) (r : Reel) (first : DWord) (join : Option (Nat × Int)) :
    Armed s (s.armed o r first join) first ((join.map (·.2)).getD 0) ((join.map (·.1)).getD 0) join.isSome := by
  unfold State.armed
  dsimp only
  generalize State.emptyLandings _ = a
  generalize (join.map (·.2)).getD 0 = tick
  generalize hb : ((a.armTake o r join).armTime (first - BitVec.ofInt 64 tick)).armTrigs = b
  have hab : ArmKeeps ((a.armTake o r join).armTime (first - BitVec.ofInt 64 tick)) b := hb ▸ State.armTrigs_keeps _
  generalize hc : (if s.admitted join.isSome then { b with faults.admission := .joined }.joinServing r else b.armServing r) = c
  have hbc : c.time.offset = b.time.offset ∧ c.take.joined = b.take.joined ∧
      c.fget Reg.SV_CUTS_CUTS = b.fget Reg.SV_CUTS_CUTS ∧
      (s.admitted join.isSome = true → c.faults.admission = .joined) := by
    subst hc
    split
    · have h := State.joinServing_keeps { b with faults.admission := .joined } r
      exact ⟨h.offset, h.joined, h.cuts.trans (State.fget_congr _ rfl), fun _ => h.admission⟩
    · next hadm =>
      have h := b.armServing_keeps r
      exact ⟨h.offset, h.joined, h.cuts, fun hadm' => absurd hadm' hadm⟩
  obtain ⟨hoff, hjoin, hcuts, hadm⟩ := hbc
  generalize hd : (c.armShape r join.isSome).2.beginStep (c.armShape r join.isSome).1 tick = d
  have hcd : ArmKeeps c d := hd ▸ (c.armShape_keeps r _).trans (State.beginStep_keeps _ _ _)
  have hcut : d.take.lastCut = tick := hd ▸ State.beginStep_lastCut _ _ _
  obtain ⟨hdev, htake, hde⟩ := d.armReplay.enterArmed r.take
  have hend : ArmKeeps c ((d.armReplay.setDev .armed).logReel 3 r.take) := (hcd.trans d.armReplay_keeps).trans hde
  exact
    { dev := hdev
      offset := hend.offset.trans (hoff.trans hab.offset)
      lastCut := by rw [htake, State.armReplay_take, hcut]
      joined := hend.joined.trans (hjoin.trans (hab.joined.trans (a.armTake_joined o r join)))
      cuts := by
        rw [hend.cuts, hcuts, hab.cuts, ← a.armTake_cuts o r join]
        exact State.fget_congr _ rfl
      admission := fun h => hend.admission.trans (hadm h) }

/-- Plan time at the wall tick of the first cue. -/
theorem Armed.planAt {s t : State} {first : DWord} {tick : DWord} {cuts : Nat} {join : Bool}
    (h : Armed s t first tick.toInt cuts join) :
    ({ t with time := { t.time with wall := first, frozen := none } } : State).planNow = tick.toInt := by
  simp only [State.planNow, h.offset, BitVec.ofInt_toInt]
  congr 1
  bv_omega

section
variable {s : State} {o : Order} {r : Reel} {first : DWord} (hs : s.dev = .loaded) (hr : s.take.active = some r)
  (hrun : s.running? 0x13 = none)
include hs hr hrun

theorem State.arm_passed (hf : firstFail (s.armChecks r first.toNat) = none) (join : Option (Nat × Int)) :
    s.arm o first join = (s.armed o r first join).done 0x04 o ok := by
  simp [State.arm, hrun, hr, hs, failIf, firstFail, hf, ok]

theorem State.arm_refused {code item : Nat} (hf : firstFail (s.armChecks r first.toNat) = some (code, item))
    (join : Option (Nat × Int)) :
    s.arm o first join = (s.showArm r (some (code, item))).done 0x04 o (.plain .refused code) := by
  simp [State.arm, hrun, hr, hs, failIf, firstFail, hf]

end

section
variable {s : State} {o : Order} (ht : Taken s o)
include ht

theorem exec_arm_taken (first : DWord) : exec (.arm o first) s = .next ((accepted s).arm o first none) := by
  change execArm o first s = _
  rw [execArm, State.receive_runs ht _ _ _ rfl (by simp [farOrders])]

/-- ARM with bit 0 of ARG1 and no reserved bit joins. -/
theorem exec_armJoin_taken (first : DWord) {arg1 : DWord} (arg2 : DWord) (h0 : bitsOf 7 1 arg1.toNat = 0)
    (h1 : bitOf arg1.toNat 0 = true) :
    exec (.armJoin o first arg1 arg2) s =
      .next ((accepted s).arm o first (some (bitsOf 63 8 arg1.toNat, arg2.toInt))) := by
  change execArmJoin o first arg1 arg2 s = _
  rw [execArmJoin, State.receive_runs ht _ _ _ rfl (by simp [farOrders])]
  simp [h0, h1]

end

end Sys2Proof.Machine

open Sys2Proof Sys2Proof.Machine Sys2Proof.Claims

/-- Settles O9: an arm that passes its checks leaves `Armed`, one that fails shows and answers the failed check's code, and a first
cue off the multiples of 4,096 fails a check. -/
theorem arming : Obligations.Arming := by
  unfold Obligations.Arming
  intro s o r ht hdev hact hrun
  have hdev' : (accepted s).dev = .loaded := by rw [accepted_dev, hdev]
  have hact' : (accepted s).take.active = some r := by rw [accepted_take, hact]
  have refused : ∀ (first : DWord) code item join, firstFail ((accepted s).armChecks r first.toNat) = some (code, item) →
      ((accepted s).arm o first join).dev = .loaded ∧ ((accepted s).arm o first join).fget Reg.HI_ARM_CODE = code % 256 ∧
        Ended ((accepted s).arm o first join) 0x04 o (.plain .refused code) := by
    intro first code item join hf
    rw [State.arm_refused hdev' hact' hrun hf join]
    refine ⟨?_, ?_, State.done_ended _ _ _ _⟩
    · rw [State.done_dev, State.showArm_dev, hdev']
    · rw [State.done_fget, State.showArm_code]
  refine ⟨?_, ?_, ?_, ?_⟩
  · intro first hf
    have h := (accepted s).armed_armed o r first none
    refine ⟨_, exec_arm_taken ht first, ?_⟩
    rw [State.arm_passed hdev' hact' hrun hf none]
    refine ⟨h.dev, ?_, h.lastCut, h.planAt (tick := 0), ?_, State.done_ended _ _ _ _⟩
    · rw [State.done_time, h.offset]
      simp
    · rw [State.done_fget, h.cuts]
      rfl
  · intro first hcue
    obtain ⟨code, item, hf, hpos⟩ := (accepted s).armChecks_fail_of_unaligned r hcue
    obtain ⟨hd, -, he⟩ := refused first code item none hf
    exact ⟨_, code, exec_arm_taken ht first, hd, hpos, he⟩
  · intro first code item hf
    exact ⟨_, exec_arm_taken ht first, refused first code item none hf⟩
  · intro first arg1 arg2 h0 h1
    refine ⟨?_, ?_⟩
    · intro hf
      have h := (accepted s).armed_armed o r first (some (bitsOf 63 8 arg1.toNat, arg2.toInt))
      refine ⟨_, exec_armJoin_taken ht first arg2 h0 h1, ?_⟩
      rw [State.arm_passed hdev' hact' hrun hf _]
      refine ⟨h.dev, ?_, h.planAt, h.lastCut, h.joined, ?_, ?_, State.done_ended _ _ _ _⟩
      · rw [State.done_time, h.offset]
        simp
      · rw [State.done_fget, h.cuts]
        have := bitsOf_lt 63 8 arg1.toNat
        exact Nat.mod_eq_of_lt (by simp only [Option.map_some, Option.getD_some]; omega)
      · intro hadm
        exact h.admission (by simpa [State.admitted] using hadm)
    · intro code item hf
      exact ⟨_, exec_armJoin_taken ht first arg2 h0 h1, refused first code item _ hf⟩
end

section
/-! # Trigger inputs and time signals (R33, R69, R74, R75, R187, R367, R454) -/

namespace Sys2Proof.Machine

/-! ## Single bits of a field -/

theorem bitOf_eq_testBit (x n : Nat) : bitOf x n = x.testBit n := by
  rw [Nat.testBit_eq_decide_div_mod_eq]
  rfl

/-- Taking a set bit out of a number is replacing it by 0. -/
theorem sub_two_pow_eq_putField {x n : Nat} (h : bitOf x n = true) : x - 2 ^ n = putField n n 0 x := by
  have hs := split_field n n x le_rfl
  have hb : bitsOf n n x = 1 := by simpa [bitOf, bitsOf] using h
  rw [hb] at hs
  rw [putField, Nat.zero_mod, Nat.zero_mul]
  omega

/-- The bits of a number in which one bit is replaced. -/
theorem bitOf_put (x n k : Nat) (b : Bool) :
    bitOf (if b then x ||| 2 ^ n else x - (if bitOf x n then 2 ^ n else 0)) k = if k = n then b else bitOf x k := by
  cases b with
  | true =>
    simp only [if_true, bitOf_eq_testBit, Nat.testBit_or, Nat.testBit_two_pow]
    by_cases hk : k = n
    · simp [hk]
    · simp [hk, Ne.symm hk]
  | false =>
    by_cases hn : bitOf x n = true
    · simp only [hn, if_true, Bool.false_eq_true, if_false, sub_two_pow_eq_putField hn]
      rcases Nat.lt_trichotomy k n with hk | hk | hk
      · have hlow := congrArg (·.testBit k) (putField_low n n 0 x le_rfl)
        simp only [Nat.testBit_mod_two_pow, hk, decide_true, Bool.true_and] at hlow
        rw [if_neg (by omega), bitOf_eq_testBit, bitOf_eq_testBit, hlow]
      · have hmid := putField_mid n n 0 x le_rfl
        simp only [bitsOf, Nat.add_sub_cancel_left, Nat.zero_mod, Nat.pow_one] at hmid
        rw [if_pos hk, hk, bitOf, hmid]
        rfl
      · obtain ⟨j, rfl⟩ : ∃ j, k = n + 1 + j := ⟨k - (n + 1), by omega⟩
        have hhigh := congrArg (·.testBit j) (putField_high n n 0 x le_rfl)
        simp only [Nat.testBit_div_two_pow] at hhigh
        rw [if_neg (by omega), bitOf_eq_testBit, bitOf_eq_testBit, Nat.add_comm, hhigh]
    · have hn' : bitOf x n = false := by simpa using hn
      by_cases hk : k = n
      · simp [hk, hn']
      · simp [hk, hn']

/-- A bit of a field reads as it was written; the field's other bits keep their values. -/
theorem State.bitOf_fbit (s : State) {f : Fld} (h : f.oneWord = true) (n : Nat) (b : Bool) {k : Nat} (hk : k < f.hi + 1 - f.lo) :
    bitOf ((s.fbit f n b).fget f) k = if k = n then b else bitOf (s.fget f) k := by
  unfold State.fbit
  dsimp only
  rw [State.fget_fset_same _ h, bitOf_eq_testBit, Nat.testBit_mod_two_pow, decide_eq_true hk, Bool.true_and, ← bitOf_eq_testBit,
    bitOf_put]

@[simp] theorem State.fbit_dev (s : State) (f : Fld) (n : Nat) (b : Bool) : (s.fbit f n b).dev = s.dev := State.fset_dev _ _ _
@[simp] theorem State.fbit_time (s : State) (f : Fld) (n : Nat) (b : Bool) : (s.fbit f n b).time = s.time := State.fset_time _ _ _
@[simp] theorem State.fbit_trig (s : State) (f : Fld) (n : Nat) (b : Bool) (k : Nat) : (s.fbit f n b).trig k = s.trig k :=
  State.fset_trig _ _ _ _

@[simp] theorem State.setTrig_fget (s : State) (n : Nat) (x : Trigger) (f : Fld) : (s.setTrig n x).fget f = s.fget f :=
  State.fget_congr f rfl

/-! ## The registers of a latch -/

/-- A field of TB_TRIG_STAT. -/
def Fld.trigStat (f : Fld) : Bool := decide (f.off = Reg.TB_TRIG_STAT) && f.oneWord

theorem Fld.trigStat_oneWord {f : Fld} (h : f.trigStat = true) : f.oneWord = true := (Bool.and_eq_true_iff.mp h).2

theorem Fld.trigStat_apart_ts {f : Fld} (h : f.trigStat = true) (n : Nat) :
    f.wordsApart (Reg.TB_TRIG_TS_TS n) = true ∧ (Reg.TB_TRIG_TS_TS n).wordsApart f = true := by
  simp only [Fld.trigStat, Fld.oneWord, Bool.and_eq_true, decide_eq_true_eq] at h
  obtain ⟨hoff, -, hhi⟩ := h
  have hn : 0x100054 + 4 * (f.hi / 32) < 0x100058 + 8 * n := by omega
  unfold Fld.wordsApart
  rw [hoff, Bool.or_eq_true, Bool.or_eq_true, decide_eq_true_eq, decide_eq_true_eq]
  exact ⟨.inr hn, .inl hn⟩

theorem State.fget_stat_fsetTs (s : State) {f : Fld} (h : f.trigStat = true) (n v : Nat) :
    (s.fset (Reg.TB_TRIG_TS_TS n) v).fget f = s.fget f := s.fget_fset_words (Fld.trigStat_apart_ts h n).1 v

theorem State.fget_ts_fbit (s : State) {f : Fld} (h : f.trigStat = true) (n : Nat) (b : Bool) (k : Nat) :
    (s.fbit f n b).fget (Reg.TB_TRIG_TS_TS k) = s.fget (Reg.TB_TRIG_TS_TS k) :=
  s.fget_fset_words (Fld.trigStat_apart_ts h k).2 _

theorem State.fget_stat_fbit (s : State) {f g : Fld} (hf : f.trigStat = true) (hg : g.trigStat = true) (h : f.apart g = true)
    (n : Nat) (b : Bool) : (s.fbit g n b).fget f = s.fget f :=
  s.fget_fset_apart (Fld.trigStat_oneWord hf) (Fld.trigStat_oneWord hg) h _

theorem State.fget_ts_fsetTs (s : State) (n k : Nat) {v : Nat} (hv : v < 2 ^ 64) :
    (s.fset (Reg.TB_TRIG_TS_TS n) v).fget (Reg.TB_TRIG_TS_TS k) = if k = n then v else s.fget (Reg.TB_TRIG_TS_TS k) := by
  split
  · next h =>
    subst h
    exact (s.fget_fset_64 _ v).trans (Nat.mod_eq_of_lt hv)
  · next h =>
    have hapart : 0x100058 + 8 * n + 4 * (63 / 32) < 0x100058 + 8 * k ∨ 0x100058 + 8 * k + 4 * (63 / 32) < 0x100058 + 8 * n := by
      omega
    apply State.fget_fset_words
    rw [Fld.wordsApart, Bool.or_eq_true, decide_eq_true_eq, decide_eq_true_eq]
    exact hapart

/-! ## Latches -/

/-- The bits of a trigger input in TB_TRIG_STAT: EDGE, OVF and HOLDOVER. -/
def State.trigBits (s : State) (k : Nat) : Bool × Bool × Bool :=
  (bitOf (s.fget Reg.TB_TRIG_STAT_EDGE) k, bitOf (s.fget Reg.TB_TRIG_STAT_OVF) k, bitOf (s.fget Reg.TB_TRIG_STAT_HOLDOVER) k)

/-- A latch is what its bits, its capture tick and its timestamp say. -/
theorem State.latch_eq (s : State) (k : Nat) :
    s.latch k = if (s.trigBits k).1 then
      some { edge := true, ovf := (s.trigBits k).2.1, holdover := (s.trigBits k).2.2, cap := (s.trig k).cap,
             ts := s.fget (Reg.TB_TRIG_TS_TS k) } else none := rfl

theorem State.trigBits_edge (s : State) (n : Nat) (b : Bool) {k : Nat} (hk : k < 4) :
    (s.fbit Reg.TB_TRIG_STAT_EDGE n b).trigBits k = (if k = n then b else (s.trigBits k).1, (s.trigBits k).2) := by
  unfold State.trigBits
  rw [State.bitOf_fbit _ (by decide) _ _ hk, State.fget_stat_fbit _ (by decide) (by decide) (by decide),
    State.fget_stat_fbit _ (by decide) (by decide) (by decide)]

theorem State.trigBits_ovf (s : State) (n : Nat) (b : Bool) {k : Nat} (hk : k < 4) :
    (s.fbit Reg.TB_TRIG_STAT_OVF n b).trigBits k =
      ((s.trigBits k).1, if k = n then b else (s.trigBits k).2.1, (s.trigBits k).2.2) := by
  unfold State.trigBits
  rw [State.bitOf_fbit _ (by decide) _ _ hk, State.fget_stat_fbit _ (by decide) (by decide) (by decide),
    State.fget_stat_fbit _ (by decide) (by decide) (by decide)]

theorem State.trigBits_holdover (s : State) (n : Nat) (b : Bool) {k : Nat} (hk : k < 4) :
    (s.fbit Reg.TB_TRIG_STAT_HOLDOVER n b).trigBits k =
      ((s.trigBits k).1, (s.trigBits k).2.1, if k = n then b else (s.trigBits k).2.2) := by
  unfold State.trigBits
  rw [State.bitOf_fbit _ (by decide) _ _ hk, State.fget_stat_fbit _ (by decide) (by decide) (by decide),
    State.fget_stat_fbit _ (by decide) (by decide) (by decide)]

@[simp] theorem State.trigBits_fsetTs (s : State) (n v k : Nat) :
    (s.fset (Reg.TB_TRIG_TS_TS n) v).trigBits k = s.trigBits k := by
  unfold State.trigBits
  rw [State.fget_stat_fsetTs _ (by decide), State.fget_stat_fsetTs _ (by decide), State.fget_stat_fsetTs _ (by decide)]

@[simp] theorem State.trigBits_setTrig (s : State) (n : Nat) (x : Trigger) (k : Nat) :
    (s.setTrig n x).trigBits k = s.trigBits k := by
  simp [State.trigBits]

/-- What storing a latch leaves in the registers of every input. -/
theorem State.setLatch_some_regs (s : State) (n : Nat) {l : Latch} (hl : l.ts < 2 ^ 64) {k : Nat} (hk : k < 4) :
    (s.setLatch n (some l)).trigBits k = (if k = n then (l.edge, l.ovf, l.holdover) else s.trigBits k) ∧
      (s.setLatch n (some l)).fget (Reg.TB_TRIG_TS_TS k) = if k = n then l.ts else s.fget (Reg.TB_TRIG_TS_TS k) := by
  refine ⟨?_, ?_⟩
  · simp only [State.setLatch, State.trigBits_setTrig, State.trigBits_fsetTs, State.trigBits_holdover _ _ _ hk,
      State.trigBits_ovf _ _ _ hk, State.trigBits_edge _ _ _ hk]
    split <;> rfl
  · simp only [State.setLatch, State.setTrig_fget, State.fget_ts_fsetTs _ n k hl]
    rw [State.fget_ts_fbit _ (by decide), State.fget_ts_fbit _ (by decide), State.fget_ts_fbit _ (by decide)]

/-- A latch that was stored is held. -/
theorem State.latch_setLatch_same (s : State) {n : Nat} (hn : n < 4) {l : Latch} (he : l.edge = true) (hl : l.ts < 2 ^ 64) :
    (s.setLatch n (some l)).latch n = some l := by
  obtain ⟨hbits, hts⟩ := s.setLatch_some_regs n hl hn
  have hcap : ((s.setLatch n (some l)).trig n).cap = l.cap := by
    unfold State.setLatch
    dsimp only
    rw [State.trig_setTrig_same]
  rw [State.latch_eq, hbits, hts, hcap]
  simp only [if_true, he]
  rw [← he]

/-- Storing a latch leaves the others. -/
theorem State.latch_setLatch_ne (s : State) {n k : Nat} (hk : k < 4) (h : k ≠ n) {l : Latch} (hl : l.ts < 2 ^ 64) :
    (s.setLatch n (some l)).latch k = s.latch k := by
  obtain ⟨hbits, hts⟩ := s.setLatch_some_regs n hl hk
  have htrig : (s.setLatch n (some l)).trig k = s.trig k := by
    unfold State.setLatch
    dsimp only
    rw [State.trig_setTrig_ne _ _ h]
    simp
  rw [State.latch_eq, hbits, hts, htrig, if_neg h, if_neg h, ← State.latch_eq]

/-- A further edge on a latch. -/
theorem State.latch_setOvf (s : State) (n : Nat) {k : Nat} (hk : k < 4) :
    (s.fbit Reg.TB_TRIG_STAT_OVF n true).latch k =
      if k = n then (s.latch k).map (fun l => { l with ovf := true }) else s.latch k := by
  rw [State.latch_eq, State.latch_eq, State.trigBits_ovf _ _ _ hk, State.fget_ts_fbit _ (by decide), State.fbit_trig]
  dsimp only
  split <;> split <;> simp

/-- A cleared input has no latch, neither in its register nor as the plan sees it, and no clear asked for. -/
theorem State.clearTrig_clear (s : State) {n : Nat} (hn : n < 4) :
    (s.clearTrig n).latch n = none ∧ ((s.clearTrig n).trig n).vis = none ∧ ((s.clearTrig n).trig n).clear = none := by
  unfold State.clearTrig
  refine ⟨?_, ?_, ?_⟩
  · rw [State.latch_eq, State.trigBits_setTrig]
    simp only [State.setLatch, State.trigBits_holdover _ _ _ hn, State.trigBits_ovf _ _ _ hn, State.trigBits_edge _ _ _ hn,
      if_true, Bool.false_eq_true, if_false]
  · rw [State.trig_setTrig_same]
  · rw [State.trig_setTrig_same]

theorem State.clearTrig_recState (s : State) (n : Nat) : (s.clearTrig n).recState = s.recState := by
  have hbit : ∀ (u : State) (f : Fld) b, Reg.CN_REC_STATE.wordsApart f = true → (u.fbit f n b).recState = u.recState :=
    fun u f b h => u.fget_fset_words h _
  unfold State.clearTrig State.setLatch
  refine (State.setTrig_fget _ _ _ _).trans ?_
  exact (hbit _ _ _ (by decide)).trans ((hbit _ _ _ (by decide)).trans (hbit _ _ _ (by decide)))

/-- A clear that is not due yet waits. -/
theorem State.trigClearDue_waits (s : State) {n : Nat} (h : ∀ x, (s.trig n).clear = some x → s.planNow < x) :
    s.trigClearDue n = s := by
  unfold State.trigClearDue
  split
  · next x hx => rw [if_neg (not_le.mpr (h x hx))]
  · rfl

/-- A clear applies at its gate. -/
theorem State.trigClearDue_applies (s : State) {n : Nat} {x : Int} (h : (s.trig n).clear = some x) (hx : x ≤ s.planNow) :
    s.trigClearDue n = s.clearTrig n := by
  unfold State.trigClearDue
  rw [h]
  exact if_pos hx

/-- Recording an input changes the continuity log and its registers only. -/
theorem State.recordInput_keeps (s : State) (kind : Nat) (plan : Int) (ws : List DWord) (es : List StepEntry) (bs : List Byte) :
    (s.recordInput kind plan ws es bs).time = s.time ∧
      ∀ f : Fld, f.off + 4 * (f.hi / 32) < Reg.CN_REC → (s.recordInput kind plan ws es bs).fget f = s.fget f := by
  have apart : ∀ {f g : Fld}, f.off + 4 * (f.hi / 32) < Reg.CN_REC → Reg.CN_REC ≤ g.off → f.wordsApart g = true := by
    intro f g hf hg
    have : f.off + 4 * (f.hi / 32) < g.off := lt_of_lt_of_le hf hg
    simp [Fld.wordsApart, this]
  unfold State.recordInput
  split
  · exact ⟨rfl, fun _ _ => rfl⟩
  · dsimp only
    split
    · unfold State.recBroken
      have htime : ((s.fset Reg.CN_REC_STATE 0).fsetb Reg.CN_REC_BROKEN true).time = s.time := by simp
      have hget : ∀ f : Fld, f.off + 4 * (f.hi / 32) < Reg.CN_REC →
          ((s.fset Reg.CN_REC_STATE 0).fsetb Reg.CN_REC_BROKEN true).fget f = s.fget f := fun f hf =>
        (State.fget_fset_words _ (apart (g := Reg.CN_REC_BROKEN) hf le_rfl) _).trans
          (State.fget_fset_words _ (apart (g := Reg.CN_REC_STATE) hf le_rfl) _)
      generalize (s.fset Reg.CN_REC_STATE 0).fsetb Reg.CN_REC_BROKEN true = v at htime hget ⊢
      obtain ⟨x, hx⟩ := v.logEvent_eq 0x89 0 0 0 0
      rw [hx]
      exact ⟨htime, fun f hf => (State.fget_congr (s := { v with log := x }) (t := v) f rfl).trans (hget f hf)⟩
    · refine ⟨State.fset_time _ _ _, fun f hf => ?_⟩
      exact (State.fget_fset_words _ (apart hf (by decide)) _).trans (State.fget_congr f rfl)

/-- An edge made visible: the plan sees the latch, and the register still holds it. -/
theorem State.showTrig_spec (s : State) {n : Nat} (hn : n < 4) (l : Latch) :
    (s.showTrig n l).latch n = s.latch n ∧ ((s.showTrig n l).trig n).vis = some l := by
  unfold State.showTrig
  dsimp only
  generalize hu : s.setTrig n { s.trig n with vis := some l } = u
  obtain ⟨htime, hget⟩ := u.recordInput_keeps 3 (ceilMul (l.cap + 4096) 4096)
    [BitVec.ofNat 64 n, BitVec.ofInt 64 l.cap, BitVec.ofNat 64 (b2n l.holdover)] [] []
  have htrig : ∀ v : State, v.time = u.time → v.trig n = { s.trig n with vis := some l } := by
    intro v hv
    unfold State.trig
    rw [hv, ← hu]
    exact State.trig_setTrig_same _ _ _
  have hts : (Reg.TB_TRIG_TS_TS n).off + 4 * ((Reg.TB_TRIG_TS_TS n).hi / 32) < Reg.CN_REC := by
    have : 0x100058 + 8 * n + 4 * (63 / 32) < 0x1300050 := by omega
    exact this
  refine ⟨?_, by rw [htrig _ htime]⟩
  unfold State.latch
  rw [hget _ (by decide), hget _ (by decide), hget _ (by decide), hget _ hts, htrig _ htime, ← hu]
  simp only [State.setTrig_fget]

/-! ## TRIGGER_EDGE and TRIGGER_VISIBLE -/

theorem State.edgeQualifies_iff (s : State) (n : Nat) (rising : Bool) (width : Nat) :
    s.edgeQualifies n rising width = true ↔
      bitOf (s.fget Reg.TB_TRIG_CFG_IN / 2 ^ (4 * n)) 3 = true ∧
      bitOf (s.fget Reg.TB_TRIG_CFG_IN / 2 ^ (4 * n)) (if rising then 1 else 2) = true ∧
      s.fget Reg.TB_TRIG_CFG_DEGLITCH ≤ width := by
  simp only [State.edgeQualifies, Bool.and_eq_true, decide_eq_true_eq, and_assoc]

theorem exec_triggerEdge_ignored {s : State} {n : Fin 4} {rising : Bool} {width : Nat}
    (h : s.dev = .off ∨ s.edgeQualifies n.val rising width = false) : exec (.triggerEdge n rising width) s = .next s := by
  change execTriggerEdge n rising width s = _
  refine if_neg ?_
  rintro ⟨hdev, hq⟩
  rcases h with h | h
  · exact hdev h
  · rw [h] at hq
    exact Bool.false_ne_true hq

section
variable {s : State} {n : Fin 4} {rising : Bool} {width : Nat} (hdev : s.dev ≠ .off)
  (hq : s.edgeQualifies n.val rising width = true) (hclear : ∀ x, (s.trig n.val).clear = some x → s.planNow < x)
include hdev hq hclear

/-- The first qualifying edge sets the latch. -/
theorem exec_triggerEdge_first (hl : s.latch n.val = none) :
    exec (.triggerEdge n rising width) s = .next (s.setLatch n.val (some
      { edge := true, ovf := bitOf (s.fget Reg.TB_TRIG_STAT_OVF) n.val, holdover := s.holdover, cap := s.planNow,
        ts := s.wallNow })) := by
  change execTriggerEdge n rising width s = _
  unfold execTriggerEdge
  rw [if_pos ⟨hdev, hq⟩, State.trigClearDue_waits s hclear]
  simp only [hl]

/-- A further edge sets OVF. -/
theorem exec_triggerEdge_further {l : Latch} (hl : s.latch n.val = some l) :
    exec (.triggerEdge n rising width) s = .next (s.fbit Reg.TB_TRIG_STAT_OVF n.val true) := by
  change execTriggerEdge n rising width s = _
  unfold execTriggerEdge
  rw [if_pos ⟨hdev, hq⟩, State.trigClearDue_waits s hclear]
  simp only [hl]

end

/-- Outside the replay of a stream, in a take, the clear that is due comes first and the edge whose gate has come second. -/
theorem exec_triggerVisible_live {s : State} {n : Fin 4} (ht : s.dev.inTake = true)
    (hr : (s.trigClearDue n.val).recState < 2) :
    exec (.triggerVisible n) s = .next ((s.trigClearDue n.val).trigVisible n.val) := by
  change execTriggerVisible n s = _
  unfold execTriggerVisible
  rw [if_pos ht]
  simp only [if_neg (not_le.mpr hr)]

/-- The edge held by a latch is visible from its gate on. -/
theorem State.trigVisible_spec (s : State) {n : Nat} (hn : n < 4) {l : Latch} (hl : s.latch n = some l)
    (hv : (s.trig n).vis = none) :
    (s.trigVisible n).latch n = some l ∧
      ((s.trigVisible n).trig n).vis = if ceilMul (l.cap + 4096) 4096 ≤ s.planNow then some l else none := by
  obtain ⟨hlatch, hvis⟩ := s.showTrig_spec hn l
  unfold State.trigVisible
  simp only [hl, hv]
  split
  · exact ⟨hlatch.trans hl, hvis⟩
  · exact ⟨hl, hv⟩

theorem State.trigVisible_of_latch_none (s : State) {n : Nat} (hl : s.latch n = none) : s.trigVisible n = s := by
  unfold State.trigVisible
  simp only [hl]

end Sys2Proof.Machine
end

section
/-! # What raising an event and acting on a time signal leave of the clock (R33, R69, R366, R367, R454) -/

namespace Sys2Proof.Machine

/-! ## Fault records and hold requests keep the clock -/

/-- Wall time, the reference and TB_STATUS stand, and the device is not switched off. -/
structure ClockKept (s t : State) : Prop where
  wall : t.time.wall = s.time.wall
  refLost : t.time.refLost = s.time.refLost
  status : t.reg Reg.TB_STATUS = s.reg Reg.TB_STATUS
  powered : s.dev ≠ .off → t.dev ≠ .off

namespace ClockKept

/-- A change of other parts of the state. -/
theorem of_eq {s t : State} (hw : t.time.wall = s.time.wall) (hl : t.time.refLost = s.time.refLost) (hr : t.regs = s.regs)
    (hd : t.dev = s.dev) : ClockKept s t :=
  ⟨hw, hl, by unfold State.reg; rw [hr], by rw [hd]; exact id⟩

theorem refl (s : State) : ClockKept s s := of_eq rfl rfl rfl rfl

theorem trans {s t u : State} (h : ClockKept s t) (h' : ClockKept t u) : ClockKept s u :=
  ⟨h'.wall.trans h.wall, h'.refLost.trans h.refLost, h'.status.trans h.status, fun hs => h'.powered (h.powered hs)⟩

theorem ite {s a b : State} {c : Prop} [Decidable c] (h1 : ClockKept s a) (h2 : ClockKept s b) :
    ClockKept s (if c then a else b) := by
  split
  · exact h1
  · exact h2

/-- A field of TB_STATUS reads as before. -/
theorem fget {s t : State} (h : ClockKept s t) {f : Fld} (hf : f.oneWord = true) (ho : f.off = Reg.TB_STATUS) :
    t.fget f = s.fget f := by
  rw [State.fget_oneWord _ hf, State.fget_oneWord _ hf, ho, h.status]

theorem flag {s t : State} (h : ClockKept s t) {f : Fld} (hf : f.oneWord = true) (ho : f.off = Reg.TB_STATUS) :
    t.flag f = s.flag f := congrArg (· == 1) (h.fget hf ho)

end ClockKept

theorem State.fset_clock (s : State) (f : Fld) (v : Nat)
    (h : Reg.TB_STATUS < f.off ∨ f.off + 4 * (f.hi / 32) < Reg.TB_STATUS) : ClockKept s (s.fset f v) :=
  ⟨by rw [State.fset_time], by rw [State.fset_time], s.reg_fset f v _ h, by rw [State.fset_dev]; exact id⟩

theorem State.emit_clock (s : State) (o : Out) : ClockKept s (s.emit o) := .of_eq rfl rfl rfl rfl

theorem State.emitAll_clock (f : Nat → Out) : ∀ (ls : List Nat) (s : State), ClockKept s (s.emitAll f ls)
  | [], s => .refl s
  | l :: ls, s => (s.emit_clock (f l)).trans (State.emitAll_clock f ls _)

theorem State.logEvent_clock (s : State) (ev cls kind unit detail : Nat) : ClockKept s (s.logEvent ev cls kind unit detail) := by
  obtain ⟨l, h⟩ := s.logEvent_eq ev cls kind unit detail
  rw [h]
  exact .of_eq rfl rfl rfl rfl

theorem State.setDev_clock (s : State) {d : DevState} (hd : d ≠ .off) : ClockKept s (s.setDev d) := by
  obtain ⟨l, x, h⟩ := s.setDev_eq d
  rw [h]
  exact ⟨rfl, rfl, rfl, fun _ => hd⟩

theorem State.notice_clock (s : State) (rule about : Nat) : ClockKept s (s.notice rule about) :=
  (s.fset_clock _ _ (by decide)).trans (State.logEvent_clock _ _ _ _ _ _)

theorem State.sendVc0s_clock (s : State) (ps : List Packet) : ClockKept s (s.sendVc0s ps) := by
  have one : ∀ (path : Nat × Nat × Nat) (s : State) p, ClockKept s (s.sendVc0 p path) := by
    intro path s p
    unfold State.sendVc0
    split <;> exact .of_eq rfl rfl rfl rfl
  have each : ∀ (path : Nat × Nat × Nat) (ps : List Packet) (s : State), ClockKept s (ps.foldl (fun s p => s.sendVc0 p path) s) := by
    intro path ps
    induction ps with
    | nil => exact .refl
    | cons p ps ih => exact fun s => (one path s p).trans (ih _)
  unfold State.sendVc0s
  cases ps with
  | nil => exact .refl s
  | cons p ps =>
    dsimp only
    split
    · exact s.notice_clock _ _
    · exact each _ _ _

/-- A packet without data on VC0 under the default label. -/
theorem State.sendDefault_clock (s : State) (pkind dest addr : Nat) : ClockKept s (s.sendDefault 0 pkind dest addr [] []) := by
  unfold State.sendDefault
  dsimp only [State.freeBytes]
  rw [if_pos rfl]
  exact State.sendVc0s_clock s _

theorem State.hostIrq_clock (s : State) (v : Nat) : ClockKept s (s.hostIrq v) := by
  unfold State.hostIrq
  refine .ite ?_ (.ite (.refl s) (s.emit_clock _))
  unfold State.askGateway State.sendProxied
  exact (s.emit_clock _).trans (State.sendDefault_clock _ _ _ _)

theorem State.faultVector_clock (s : State) : ClockKept s s.faultVector :=
  .ite (s.hostIrq_clock _) (.refl s)

theorem State.record_clock (s : State) (src kind unit detail : Nat) : ClockKept s (s.record src kind unit detail) := by
  have hcount : Reg.TB_STATUS < (Reg.FC_COUNT_COUNT (sourceClass src)).off := by
    have : 0x100018 < 0x1200018 + 4 * sourceClass src := by omega
    exact this
  have hlog := (s.fset_clock (Reg.FC_COUNT_COUNT (sourceClass src)) _ (.inl hcount)).trans
    (State.logEvent_clock (s.bump (Reg.FC_COUNT_COUNT (sourceClass src))) src (sourceClass src) kind unit detail)
  unfold State.record
  dsimp only
  generalize (s.bump (Reg.FC_COUNT_COUNT (sourceClass src))).logEvent src (sourceClass src) kind unit detail = u at hlog ⊢
  refine .ite hlog ?_
  generalize hv : (u.emit _).fset _ _ = v
  have hlast : ClockKept s v := hv ▸ (hlog.trans (u.emit_clock _)).trans (State.fset_clock _ _ _ (.inl (by decide)))
  exact .ite (hlast.trans (v.fset_clock _ _ (.inl (by decide)))) hlast

theorem State.enterFailed_clock (s : State) : ClockKept s s.enterFailed := by
  unfold State.enterFailed
  refine .ite (.refl s) ?_
  dsimp only
  refine .trans ?_ (State.emitAll_clock _ _ _)
  refine (s.setDev_clock (d := .failed) (by decide)).trans ?_
  exact .of_eq rfl rfl rfl rfl

theorem State.enqueue_clock (s : State) (src kind unit detail : Nat) : ClockKept s (s.enqueue src kind unit detail) := by
  unfold State.enqueue
  split
  · refine .trans ?_ (State.faultVector_clock _)
    exact .of_eq rfl rfl rfl rfl
  · refine .trans (t := { s with faults.overflow := true }) (.of_eq rfl rfl rfl rfl) ?_
    exact (State.record_clock _ _ _ _ _).trans (State.enterFailed_clock _)

theorem State.emitHold_clock (s : State) (take : Nat) (g : Int) (frames reason origin : Nat) (ls : List Nat) :
    ClockKept s (s.emitHold take g frames reason origin ls) :=
  ((State.emitAll_clock _ _ _).trans (State.emitAll_clock _ _ _)).trans (State.emitAll_clock _ _ _)

theorem State.placeMarker_clock (s : State) (g : Int) (frames reason : Nat) : ClockKept s (s.placeMarker g frames reason) := by
  unfold State.placeMarker
  generalize mergeGate s.time.gates s.planNow g frames reason = x
  obtain ⟨m, gs⟩ := x
  refine .trans ?_ (State.emitHold_clock _ _ _ _ _ _ _)
  dsimp only
  generalize hu : ({ s with time.gates := gs } : State) = u
  have hgates : ClockKept s u := hu ▸ (.of_eq rfl rfl rfl rfl)
  generalize hv : (if m = Merge.full ∨ m = Merge.late then u.fsetb Reg.TB_HOLD_REASON_LATEMARK true else u) = v
  have hmark : ClockKept s v := hv ▸ .ite (hgates.trans (u.fset_clock _ _ (by decide))) hgates
  exact .ite (hmark.trans (.of_eq rfl rfl rfl rfl)) hmark

/-- Raising a source that does not fence. -/
theorem State.raise_clock (s : State) (src kind unit detail : Nat) (h : src ≠ 0x30 ∧ src ≠ 0x31) :
    ClockKept s (s.raise src kind unit detail) := by
  have hrec := s.record_clock src kind unit detail
  unfold State.raise
  dsimp only
  generalize s.record src kind unit detail = u at hrec ⊢
  have henq := hrec.trans (u.enqueue_clock src kind unit detail)
  generalize u.enqueue src kind unit detail = v at henq ⊢
  refine .ite hrec (.ite (henq.trans v.enterFailed_clock) ?_)
  rw [if_neg (not_or.mpr h)]
  exact .ite (.ite hrec (.ite (henq.trans (v.placeMarker_clock _ _ _)) henq)) henq

theorem State.requestHoldAt_clock (s : State) (g : Int) (frames reason : Nat) :
    ClockKept s (s.requestHoldAt g frames reason) := by
  unfold State.requestHoldAt
  refine .ite (.refl s) ?_
  have hrec := s.record_clock 0x10 0 0 (Config.faultDetail 0x10 reason).toNat
  dsimp only
  generalize s.record 0x10 0 0 (Config.faultDetail 0x10 reason).toNat = u at hrec ⊢
  have henq := hrec.trans (u.enqueue_clock 0x10 0 0 (Config.faultDetail 0x10 reason).toNat)
  have hplace : ∀ v : State, ClockKept v (v.placeRequest g frames reason) := by
    intro v
    have hm := v.placeMarker_clock g frames reason
    exact .ite (hm.trans (State.raise_clock _ _ _ _ _ (by decide))) hm
  exact .trans (.ite hrec henq) (hplace _)

/-! ## Entering FAILED -/

theorem State.enterFailed_dev {s : State} (h : s.dev ≠ .off) : s.enterFailed.dev = .failed := by
  have hemit : ∀ (f : Nat → Out) (ls : List Nat) (u : State), (u.emitAll f ls).dev = u.dev := by
    intro f ls
    induction ls with
    | nil => exact fun _ => rfl
    | cons l ls ih => exact fun u => (ih (u.emit (f l))).trans rfl
  unfold State.enterFailed
  split
  · next hd => exact hd.resolve_right h
  · exact (hemit _ _ _).trans (State.setDev_dev s .failed)

/-- A source of class F4 ends in FAILED. -/
theorem State.raise_f4 {s : State} (hs : s.dev ≠ .off) {src : Nat} (h : sourceClass src = 4) (kind unit detail : Nat) :
    (s.raise src kind unit detail).dev = .failed := by
  have hon := ((s.record_clock src kind unit detail).trans (State.enqueue_clock _ src kind unit detail)).powered hs
  unfold State.raise
  simp only [h]
  exact State.enterFailed_dev hon

/-! ## Time signals -/

/-- A field of other words than TB_STATUS reads as before. -/
theorem State.timeSignals_fget (s : State) {f : Fld} (h : Reg.TB_STATUS < f.off) : s.timeSignals.fget f = s.fget f := by
  have apart : ∀ {g : Fld}, g.oneWord = true → g.off = Reg.TB_STATUS → f.wordsApart g = true := by
    intro g hg ho
    have hword : g.hi / 32 = 0 := Nat.div_eq_of_lt (by simp only [Fld.oneWord, Bool.and_eq_true, decide_eq_true_eq] at hg; omega)
    rw [Fld.wordsApart, hword, ho, Bool.or_eq_true, decide_eq_true_eq]
    exact .inl h
  unfold State.timeSignals State.fsetb
  rw [State.fget_fset_words _ (apart (by decide) rfl), State.fget_fset_words _ (apart (by decide) rfl)]

@[simp] theorem State.timeSignals_time (s : State) : s.timeSignals.time = s.time := by
  unfold State.timeSignals
  simp

@[simp] theorem State.timeSignals_dev (s : State) : s.timeSignals.dev = s.dev := by
  unfold State.timeSignals
  simp

theorem State.timeSignals_shown (s : State) :
    s.timeSignals.fget Reg.TB_STATUS_SOURCE = s.source % 16 ∧ s.timeSignals.holdover = decide (s.source = 0) := by
  unfold State.timeSignals
  refine ⟨?_, State.flag_fsetb_same _ (by decide) _⟩
  rw [State.fget_fsetb_apart _ (by decide) (by decide) (by decide), State.fget_fset_same _ (by decide)]
  rfl

/-- The source in use rests on no field of TB_STATUS. -/
theorem State.timeSignals_source (s : State) : s.timeSignals.source = s.source := by
  unfold State.source State.hasParent State.flag
  rw [State.timeSignals_fget _ (by decide), State.timeSignals_fget _ (by decide), State.timeSignals_fget _ (by decide),
    State.timeSignals_time]

theorem State.slewEnd_clock (s : State) (n : Nat) : ClockKept s { s with time.slewEnd := n } := .of_eq rfl rfl rfl rfl

theorem State.slew_clock (s : State) (e : Int) : ClockKept s (s.slew e) := by
  unfold State.slew
  split
  · exact (s.slewEnd_clock 0).trans (State.fset_clock _ Reg.TB_SLEW_SLEW _ (.inl (by decide)))
  · have hdraw : ClockKept s s.draw.2 := .of_eq rfl rfl rfl rfl
    generalize s.draw = d at hdraw ⊢
    obtain ⟨n, u⟩ := d
    exact (hdraw.trans (u.slewEnd_clock _)).trans (State.fset_clock _ Reg.TB_SLEW_SLEW _ (.inl (by decide)))

theorem State.stepWall_wall (s : State) (e : Int) : (s.stepWall e).time.wall = s.time.wall - BitVec.ofInt 64 e := by
  unfold State.stepWall
  rw [State.fsetb_time]

/-- SOURCE and HOLDOVER read as before. -/
structure SourceKept (s t : State) : Prop where
  source : t.fget Reg.TB_STATUS_SOURCE = s.fget Reg.TB_STATUS_SOURCE
  holdover : t.holdover = s.holdover

theorem SourceKept.trans {s t u : State} (h : SourceKept s t) (h' : SourceKept t u) : SourceKept s u :=
  ⟨h'.source.trans h.source, h'.holdover.trans h.holdover⟩

theorem ClockKept.sourceKept {s t : State} (h : ClockKept s t) : SourceKept s t :=
  ⟨h.fget (by decide) rfl, h.flag (by decide) rfl⟩

theorem State.unaligned_sourceKept (s : State) (b : Bool) : SourceKept s (s.fsetb Reg.TB_STATUS_UNALIGNED b) :=
  ⟨s.fget_fsetb_apart (by decide) (by decide) (by decide) b,
    s.flag_fset_apart (by decide) (by decide) (by decide) _⟩

theorem State.stepWall_sourceKept (s : State) (e : Int) : SourceKept s (s.stepWall e) := by
  unfold State.stepWall
  refine .trans ?_ (State.unaligned_sourceKept _ false)
  exact ⟨State.fget_congr _ rfl, congrArg (· == 1) (State.fget_congr Reg.TB_STATUS_HOLDOVER rfl)⟩

/-- An error beyond the guard in a take whose plan time runs: UNALIGNED, and then the clock stands. -/
theorem State.misaligned_running {s : State} (e : Int) (h : s.stopped = false) :
    ClockKept (s.fsetb Reg.TB_STATUS_UNALIGNED true) (s.misaligned e) := by
  unfold State.misaligned
  rw [if_neg (by simp [h])]
  exact .ite (State.raise_clock _ _ _ _ _ (by decide)) (State.requestHoldAt_clock _ _ _ _)

theorem State.misaligned_sourceKept (s : State) (e : Int) : SourceKept s (s.misaligned e) := by
  by_cases h : s.stopped = true
  · unfold State.misaligned
    rw [if_pos h]
    exact s.stepWall_sourceKept e
  · exact (s.unaligned_sourceKept true).trans (State.misaligned_running e (by simpa using h)).sourceKept

theorem State.actOnError_eq {s u : State} {e : Int} (hu : u = { s with time.error := e }) :
    s.actOnError e = if e.natAbs ≤ u.fget Reg.TB_SLATE_CFG_GUARD then u.slew e
      else if u.dev.inTake then u.misaligned e else u.stepWall e := by
  subst hu
  rfl

/-- Acting on an error (R69): within the guard wall time is slewed; beyond it, it is stepped outside a take, and within one the device is
UNALIGNED. -/
theorem State.actOnError_spec (s : State) (e : Int) :
    SourceKept s (s.actOnError e) ∧
      (e.natAbs ≤ s.fget Reg.TB_SLATE_CFG_GUARD → (s.actOnError e).time.wall = s.time.wall) ∧
      (s.fget Reg.TB_SLATE_CFG_GUARD < e.natAbs →
        (s.dev.inTake = false → (s.actOnError e).time.wall = s.time.wall - BitVec.ofInt 64 e) ∧
        (s.dev.inTake = true → s.stopped = false →
          (s.actOnError e).time.wall = s.time.wall ∧ (s.actOnError e).flag Reg.TB_STATUS_UNALIGNED = true)) := by
  obtain ⟨u, hu⟩ : ∃ u : State, u = { s with time.error := e } := ⟨_, rfl⟩
  have hsu : ClockKept s u := hu ▸ (.of_eq rfl rfl rfl rfl)
  have hguard : u.fget Reg.TB_SLATE_CFG_GUARD = s.fget Reg.TB_SLATE_CFG_GUARD := hu ▸ State.fget_congr _ rfl
  have hdev : u.dev = s.dev := hu ▸ rfl
  have hstop : u.stopped = s.stopped := hu ▸ rfl
  rw [State.actOnError_eq hu, hguard, hdev]
  by_cases hle : e.natAbs ≤ s.fget Reg.TB_SLATE_CFG_GUARD
  · have hslew := hsu.trans (u.slew_clock e)
    rw [if_pos hle]
    exact ⟨hslew.sourceKept, fun _ => hslew.wall, fun hlt => absurd hle (not_le.mpr hlt)⟩
  · rw [if_neg hle]
    refine ⟨?_, fun h => absurd h hle, fun _ => ⟨fun hout => ?_, fun hin hrun => ?_⟩⟩
    · split
      · exact hsu.sourceKept.trans (u.misaligned_sourceKept e)
      · exact hsu.sourceKept.trans (u.stepWall_sourceKept e)
    · rw [if_neg (by simp [hout]), State.stepWall_wall, hsu.wall]
    · have hmis := State.misaligned_running e (hstop.trans hrun)
      rw [if_pos hin]
      refine ⟨hmis.wall.trans ?_, (hmis.flag (by decide) rfl).trans (State.flag_fsetb_same _ (by decide) _)⟩
      rw [State.fsetb_time, hsu.wall]

end Sys2Proof.Machine
end

section
/-! # The device's time signals, and the statement about them and the triggers (R33, R69, R74, R367, R454) -/

namespace Sys2Proof.Machine

/-! ## The frame pulse -/

/-- A pulse is heard. -/
def State.pulsed (s : State) : State := { s with time.pulseOn := true }

theorem State.pulsed_source {s : State} (hroot : s.fget Reg.TB_CTRL_ROOTSRC = 2) (hpar : s.hasParent = false) :
    s.pulsed.source = 3 := by
  have hroot' : s.pulsed.fget Reg.TB_CTRL_ROOTSRC = 2 := (State.fget_congr _ rfl).trans hroot
  have hpar' : s.pulsed.hasParent = false := by
    rw [← hpar]
    unfold State.hasParent State.flag
    rw [State.fget_congr Reg.TB_TREE_PVALID (s := s.pulsed) (t := s) rfl,
      State.fget_congr Reg.TB_TREE_ROOT (s := s.pulsed) (t := s) rfl]
  have hpulse : s.pulsed.time.pulseOn = true := rfl
  simp [State.source, hroot', hpar', hpulse]

theorem exec_framePulseIn_signal {s : State} (hdev : s.dev ≠ .off) (hin : s.flag Reg.TB_PULSE_CFG_INEN = true)
    (hroot : s.fget Reg.TB_CTRL_ROOTSRC = 2) (hpar : s.hasParent = false) :
    exec .framePulseIn s =
      .next (s.pulsed.timeSignals.actOnError (pulseError s.wallNow (signedOf 16 (s.fget Reg.TB_PULSE_CFG_INCOMP)))) := by
  have hsrc : s.pulsed.timeSignals.source = 3 := s.pulsed.timeSignals_source.trans (State.pulsed_source hroot hpar)
  have hcomp : s.pulsed.timeSignals.fget Reg.TB_PULSE_CFG_INCOMP = s.fget Reg.TB_PULSE_CFG_INCOMP :=
    (State.timeSignals_fget _ (by decide)).trans (State.fget_congr _ rfl)
  have hwall : s.pulsed.timeSignals.wallNow = s.wallNow := by
    unfold State.wallNow
    rw [State.timeSignals_time]
    rfl
  change execFramePulseIn s = _
  unfold execFramePulseIn
  rw [if_pos ⟨hdev, hin, hroot⟩]
  change (if s.pulsed.timeSignals.source = 3 then _ else _) = _
  rw [if_pos hsrc, ← hcomp, ← hwall]
  rfl

/-- A pulse that disciplines the device: SOURCE shows it, holdover ends, and the error is handled (R69, R454). -/
theorem exec_framePulseIn_disciplines {s : State} (hdev : s.dev ≠ .off) (hin : s.flag Reg.TB_PULSE_CFG_INEN = true)
    (hroot : s.fget Reg.TB_CTRL_ROOTSRC = 2) (hpar : s.hasParent = false) {e : Int}
    (he : e = pulseError s.wallNow (signedOf 16 (s.fget Reg.TB_PULSE_CFG_INCOMP))) :
    ∃ t, exec .framePulseIn s = .next t ∧ t.fget Reg.TB_STATUS_SOURCE = 3 ∧ t.holdover = false ∧
      (e.natAbs ≤ s.fget Reg.TB_SLATE_CFG_GUARD → t.time.wall = s.time.wall) ∧
      (s.fget Reg.TB_SLATE_CFG_GUARD < e.natAbs →
        (s.dev.inTake = false → t.time.wall = s.time.wall - BitVec.ofInt 64 e) ∧
        (s.dev.inTake = true → s.stopped = false → t.time.wall = s.time.wall ∧ t.flag Reg.TB_STATUS_UNALIGNED = true)) := by
  refine ⟨_, exec_framePulseIn_signal hdev hin hroot hpar, ?_⟩
  rw [← he]
  obtain ⟨hshown, hhold⟩ := s.pulsed.timeSignals_shown
  rw [State.pulsed_source hroot hpar] at hshown hhold
  have hguard : s.pulsed.timeSignals.fget Reg.TB_SLATE_CFG_GUARD = s.fget Reg.TB_SLATE_CFG_GUARD :=
    (State.timeSignals_fget _ (by decide)).trans (State.fget_congr _ rfl)
  have hwall : s.pulsed.timeSignals.time.wall = s.time.wall := by rw [State.timeSignals_time]; rfl
  have hdev' : s.pulsed.timeSignals.dev = s.dev := s.pulsed.timeSignals_dev
  have hstop : s.pulsed.timeSignals.stopped = s.stopped := by
    unfold State.stopped
    rw [hdev', State.timeSignals_time]
    rfl
  obtain ⟨hkept, hspec⟩ := s.pulsed.timeSignals.actOnError_spec e
  rw [hguard, hwall, hdev', hstop] at hspec
  exact ⟨hkept.source.trans hshown, hkept.holdover.trans hhold, hspec⟩

/-! ## The reference and the holdover oscillator -/

/-- Loss of the reference is kept and shown: its notice touches neither (R33). -/
theorem exec_lossOfReference_spec {s : State} (hdev : s.dev ≠ .off) :
    ∃ t, exec .lossOfReference s = .next t ∧ t.time.refLost = true ∧ t.flag Reg.TB_STATUS_LOR = true := by
  have hexec : exec .lossOfReference s = .next ((({ s with time.refLost := true } : State).fsetb Reg.TB_STATUS_LOR true).raise
      0x04 0 0 (Config.faultDetail 0x04 0).toNat) := by
    change execLossOfReference s = _
    exact if_neg hdev
  have hlor := ({ s with time.refLost := true } : State).flag_fsetb_same (f := Reg.TB_STATUS_LOR) (by decide) true
  have hraise := State.raise_clock (({ s with time.refLost := true } : State).fsetb Reg.TB_STATUS_LOR true)
    0x04 0 0 (Config.faultDetail 0x04 0).toNat (by decide)
  refine ⟨_, hexec, ?_, (hraise.flag (by decide) rfl).trans hlor⟩
  rw [hraise.refLost, State.fsetb_time]

end Sys2Proof.Machine

open Sys2Proof Sys2Proof.Machine Sys2Proof.Claims

/-- Settles O47: the trigger clauses by what storing, marking and clearing a latch leave of every latch, the time signals by what acting
on an error and raising an event leave of the clock. -/
theorem triggersAndTimeSignals : Obligations.TriggersAndTimeSignals := by
  unfold Obligations.TriggersAndTimeSignals
  refine ⟨fun s n => ⟨fun rising width => ⟨s.edgeQualifies_iff _ _ _, exec_triggerEdge_ignored, ?edges⟩, fun htake hrec =>
    ⟨?shows, ?clears⟩⟩, fun s hdev => ⟨?pulseOut, ?noPulseOut, ?pulseIn, ?noPulseIn, exec_lossOfReference_spec hdev, ?oscillator,
    ?oscillatorHeld⟩⟩
  case edges =>
    intro hdev hq hclear
    refine ⟨fun hl => ?_, fun l hl => ?_⟩
    · obtain ⟨-, hts⟩ := s.setLatch_some_regs n.val (l := ⟨true, _, s.holdover, s.planNow, s.wallNow⟩) s.time.wall.isLt n.isLt
      refine ⟨_, exec_triggerEdge_first hdev hq hclear hl, s.latch_setLatch_same n.isLt rfl s.time.wall.isLt,
        hts.trans (if_pos rfl), fun k hk hne => s.latch_setLatch_ne hk hne s.time.wall.isLt⟩
    · refine ⟨_, exec_triggerEdge_further hdev hq hclear hl, ?_, s.fget_ts_fbit (by decide) _ _ _, fun k hk hne => ?_⟩
      · rw [s.latch_setOvf _ n.isLt, if_pos rfl, hl]
        rfl
      · rw [s.latch_setOvf _ hk, if_neg hne]
  case shows =>
    intro l hclear hl hv
    have hexec := exec_triggerVisible_live (n := n) htake (by rwa [s.trigClearDue_waits hclear])
    rw [s.trigClearDue_waits hclear] at hexec
    exact ⟨_, hexec, s.trigVisible_spec n.isLt hl hv⟩
  case clears =>
    intro x hx hdue
    have hexec := exec_triggerVisible_live (n := n) htake (by rwa [s.trigClearDue_applies hx hdue, s.clearTrig_recState])
    have hclear := s.clearTrig_clear n.isLt
    rw [s.trigClearDue_applies hx hdue, State.trigVisible_of_latch_none _ hclear.1] at hexec
    exact ⟨_, hexec, hclear⟩
  case pulseOut => exact fun hboot hen hwall => if_pos ⟨hdev, hboot, hen, hwall⟩
  case noPulseOut =>
    intro h
    refine if_neg ?_
    rintro ⟨-, hboot, hen, hwall⟩
    rcases h with h | h | h
    · exact hboot h
    · exact Bool.false_ne_true (h.symm.trans hen)
    · exact h hwall
  case pulseIn => exact fun hin hroot hpar => exec_framePulseIn_disciplines hdev hin hroot hpar rfl
  case noPulseIn =>
    intro h
    refine if_neg ?_
    rintro ⟨-, hin, hroot⟩
    rcases h with h | h
    · exact Bool.false_ne_true (h.symm.trans hin)
    · exact h hroot
  case oscillator =>
    exact fun hlost => ⟨_, congrArg Host.Outcome.next (if_pos ⟨hdev, hlost⟩), State.raise_f4 hdev rfl _ _ _⟩
  case oscillatorHeld =>
    exact fun hheld => congrArg Host.Outcome.next (if_neg fun h => Bool.false_ne_true (hheld.symm.trans h.2))
end
